-- ==== Sys2Proof/Word.lean ====
section
/-! DEFINITION. Word: the bit-vector types of the HXD8 and the plainest operations on them (00_scope R4, R11). -/

namespace Sys2Proof

/-- A 64-bit register, address or special register (R11). -/
abbrev Word := BitVec 64

/-- The smallest addressable unit of every memory (R3, R4). -/
abbrev Byte := BitVec 8

/-- A 512-bit vector register (R11). -/
abbrev Vec := BitVec 512

/-- A 32-bit instruction word (R200). -/
abbrev IWord := BitVec 32

/-- All 64 bits set: what m0 reads (R47), what RCVN answers for no packet (R140). -/
abbrev ones64 : Word := 0xFFFF_FFFF_FFFF_FFFF

end Sys2Proof
end

