-- ==== Sys2Proof/Syntax.lean ====
section
/-! DEFINITION. Syntax: the instructions and events of the HXD8, one constructor per row of opcode_table.json
(12_instruction_formats_and_opcode_map, 95_what_each_step_holds). -/

namespace Sys2Proof

/-- x0 to x31 (R203). -/
abbrev XReg := BitVec 5
/-- y0 to y15 (R203). -/
abbrev YReg := BitVec 4
/-- v0 to v31 (R203). -/
abbrev VReg := BitVec 5
/-- m0 to m7 (R203). -/
abbrev MReg := BitVec 3
/-- acc0 to acc7 (R203). -/
abbrev AccReg := BitVec 3
/-- e0 to e7 (R203). -/
abbrev EReg := BitVec 3
/-- j0 to j3 (R203). -/
abbrev JReg := BitVec 2
/-- Receive queue 0 to 3 (R203). -/
abbrev QNum := BitVec 2

/-- Hardware loop level 0 or 1 (R254). -/
inductive Level where
  | zero | one
  deriving DecidableEq, Repr

/-- Lane types, codes 000 to 110 (R266). -/
inductive LTy where
  | i8 | i16 | i32 | i64 | bf16 | f32 | f64
  deriving DecidableEq, Repr

/-- Format codes of VCVT, 0 to 10 (R213). -/
inductive NFmt where
  | i8 | i16 | i32 | i64 | bf16 | f32 | f64 | e4m3 | e5m2 | e2m1 | e8m0
  deriving DecidableEq, Repr

/-- Rounding modes of conversions (R66). -/
inductive RMode where
  | rne | rtz | rdn | rup
  deriving DecidableEq, Repr

/-- Relations of FCMP (R262). -/
inductive Cond where
  | eq | lt | le
  deriving DecidableEq, Repr

/-- Width of an atomic (R218). -/
inductive AWidth where
  | w32 | w64
  deriving DecidableEq, Repr

/-- A scalar register of either slice, as MFS and MTS name it (R219). -/
inductive Scalar where
  | x (r : XReg)
  | y (r : YReg)
  deriving DecidableEq, Repr

/-- The engines whose commands start from a FIFO (R285). -/
inductive Engine where
  | matrix | envelope | scan
  deriving DecidableEq, Repr

/-- What an access to global memory needs of a leaf (R367). -/
inductive Access where
  | read | write | atomic | fetch
  deriving DecidableEq, Repr

/-- Units of the error log (R410). -/
inductive UcUnit where
  | scratchpad | accumulator | envelope | memory | network | latch | registers | other
  deriving DecidableEq, Repr

/-- The shape of a partition: whole groups of one die, or whole dies (R378). -/
inductive Shape where
  | groups (d n : Nat)
  | dies (ds : List Nat)
  deriving DecidableEq, Repr

/-- The header of a request or a reply (R430, R432); `rsv`: bits [255:192]. -/
structure Header where
  op : BitVec 8
  version : BitVec 8
  part : Nat
  len : Nat
  seq : Nat
  session : Word
  rsv : Word
  deriving DecidableEq, Repr

/-- A request (R430, R431): its header, the sub-operation, action, item or mode in its body (0 where the body has none), and whether its tag
verifies under the session key. -/
structure Request extends Header where
  sel : BitVec 8
  authentic : Bool
  deriving DecidableEq, Repr

/-- A correction from the time master (R436): the trim of the master clock in parts per million, and a step of TICK. -/
structure ClockFix where
  ppm : Int
  step : Nat
  deriving DecidableEq, Repr

/-- One constructor per row of opcode_table.json. The first 211 are instruction words; the rest are the events of
file 95, whose arguments say which tile `p`, gang `g`, die `d`, network item or outstanding access `k` they concern. -/
inductive Instr where
  | lb (rd rs1 : XReg) (imm : BitVec 12)   -- R247
  | lh (rd rs1 : XReg) (imm : BitVec 12)   -- R247
  | lw (rd rs1 : XReg) (imm : BitVec 12)   -- R247
  | ld (rd rs1 : XReg) (imm : BitVec 12)   -- R247
  | lbu (rd rs1 : XReg) (imm : BitVec 12)   -- R247
  | lhu (rd rs1 : XReg) (imm : BitVec 12)   -- R247
  | lwu (rd rs1 : XReg) (imm : BitVec 12)   -- R247
  | sb (rs2 rs1 : XReg) (imm : BitVec 12)   -- R247
  | sh (rs2 rs1 : XReg) (imm : BitVec 12)   -- R247
  | sw (rs2 rs1 : XReg) (imm : BitVec 12)   -- R247
  | sd (rs2 rs1 : XReg) (imm : BitVec 12)   -- R247
  | lbY (yd : YReg) (rs1 : XReg) (imm : BitVec 8)   -- R248
  | lhY (yd : YReg) (rs1 : XReg) (imm : BitVec 8)   -- R248
  | lwY (yd : YReg) (rs1 : XReg) (imm : BitVec 8)   -- R248
  | ldY (yd : YReg) (rs1 : XReg) (imm : BitVec 8)   -- R248
  | lbuY (yd : YReg) (rs1 : XReg) (imm : BitVec 8)   -- R248
  | lhuY (yd : YReg) (rs1 : XReg) (imm : BitVec 8)   -- R248
  | lwuY (yd : YReg) (rs1 : XReg) (imm : BitVec 8)   -- R248
  | sbY (yd : YReg) (rs1 : XReg) (imm : BitVec 8)   -- R248
  | shY (yd : YReg) (rs1 : XReg) (imm : BitVec 8)   -- R248
  | swY (yd : YReg) (rs1 : XReg) (imm : BitVec 8)   -- R248
  | sdY (yd : YReg) (rs1 : XReg) (imm : BitVec 8)   -- R248
  | addi (rd rs1 : XReg) (imm : BitVec 12)   -- R243
  | slli (rd rs1 : XReg) (sh : BitVec 6)   -- R243
  | srli (rd rs1 : XReg) (sh : BitVec 6)   -- R243
  | srai (rd rs1 : XReg) (sh : BitVec 6)   -- R243
  | slti (rd rs1 : XReg) (imm : BitVec 12)   -- R243
  | sltiu (rd rs1 : XReg) (imm : BitVec 12)   -- R243
  | xori (rd rs1 : XReg) (imm : BitVec 12)   -- R243
  | ori (rd rs1 : XReg) (imm : BitVec 12)   -- R243
  | andi (rd rs1 : XReg) (imm : BitVec 12)   -- R243
  | addiw (rd rs1 : XReg) (imm : BitVec 12)   -- R243
  | add (rd rs1 rs2 : XReg)   -- R241
  | sub (rd rs1 rs2 : XReg)   -- R241
  | and (rd rs1 rs2 : XReg)   -- R241
  | or (rd rs1 rs2 : XReg)   -- R241
  | xor (rd rs1 rs2 : XReg)   -- R241
  | sll (rd rs1 rs2 : XReg)   -- R241
  | srl (rd rs1 rs2 : XReg)   -- R241
  | sra (rd rs1 rs2 : XReg)   -- R241
  | slt (rd rs1 rs2 : XReg)   -- R241
  | sltu (rd rs1 rs2 : XReg)   -- R241
  | min (rd rs1 rs2 : XReg)   -- R241
  | max (rd rs1 rs2 : XReg)   -- R241
  | minu (rd rs1 rs2 : XReg)   -- R241
  | maxu (rd rs1 rs2 : XReg)   -- R241
  | mul (rd rs1 rs2 : XReg)   -- R241
  | mulh (rd rs1 rs2 : XReg)   -- R241
  | mulhu (rd rs1 rs2 : XReg)   -- R241
  | div (rd rs1 rs2 : XReg)   -- R242
  | divu (rd rs1 rs2 : XReg)   -- R242
  | rem (rd rs1 rs2 : XReg)   -- R242
  | remu (rd rs1 rs2 : XReg)   -- R242
  | addw (rd rs1 rs2 : XReg)   -- R241
  | subw (rd rs1 rs2 : XReg)   -- R241
  | sllw (rd rs1 rs2 : XReg)   -- R241
  | srlw (rd rs1 rs2 : XReg)   -- R241
  | sraw (rd rs1 rs2 : XReg)   -- R241
  | clz (rd rs1 : XReg)   -- R241
  | ctz (rd rs1 : XReg)   -- R241
  | cnt (rd rs1 : XReg)   -- R241
  | sel (rd rs1 rs2 : XReg)   -- R241
  | lui (rd : XReg) (imm : BitVec 20)   -- R244
  | auipc (rd : XReg) (imm : BitVec 20)   -- R244
  | beq (rs1 rs2 : XReg) (off : BitVec 12)   -- R249
  | bne (rs1 rs2 : XReg) (off : BitVec 12)   -- R249
  | blt (rs1 rs2 : XReg) (off : BitVec 12)   -- R249
  | bge (rs1 rs2 : XReg) (off : BitVec 12)   -- R249
  | bltu (rs1 rs2 : XReg) (off : BitVec 12)   -- R249
  | bgeu (rs1 rs2 : XReg) (off : BitVec 12)   -- R249
  | jal (rd : XReg) (off : BitVec 20)   -- R250
  | jalr (rd rs1 : XReg) (imm : BitVec 12)   -- R250
  | pbr (jd : JReg) (off : BitVec 17)   -- R252
  | bj (js : JReg)   -- R252
  | bjz (js : JReg) (rs1 : XReg)   -- R252
  | bjnz (js : JReg) (rs1 : XReg)   -- R252
  | loop (lvl : Level) (rs1 : XReg) (fin : BitVec 12)   -- R255
  | loopi (lvl : Level) (cnt : BitVec 9) (fin : BitVec 12)   -- R255
  | lclr (lvl : Level)   -- R255
  | vld (ty : LTy) (vm : MReg) (vd : VReg) (rs1 : XReg) (imm : BitVec 5)   -- R271
  | vst (ty : LTy) (vm : MReg) (vd : VReg) (rs1 : XReg) (imm : BitVec 5)   -- R271
  | vlds (ty : LTy) (vm : MReg) (vd : VReg) (rs1 rs2 : XReg)   -- R271
  | vsts (ty : LTy) (vm : MReg) (vd : VReg) (rs1 rs2 : XReg)   -- R271
  | vgather (ty : LTy) (vm : MReg) (vd : VReg) (rs1 : XReg) (vs2 : VReg)   -- R269
  | vscatter (ty : LTy) (vm : MReg) (vd : VReg) (rs1 : XReg) (vs2 : VReg)   -- R271
  | vldb (ty : LTy) (vm : MReg) (vd : VReg) (rs1 : XReg) (imm : BitVec 5)   -- R269
  | vadd (ty : LTy) (vm : MReg) (vd vs1 vs2 : VReg)   -- R275
  | vsub (ty : LTy) (vm : MReg) (vd vs1 vs2 : VReg)   -- R275
  | vmul (ty : LTy) (vm : MReg) (vd vs1 vs2 : VReg)   -- R275
  | vmulh (ty : LTy) (vm : MReg) (vd vs1 vs2 : VReg)   -- R275
  | vmin (ty : LTy) (vm : MReg) (vd vs1 vs2 : VReg)   -- R275
  | vmax (ty : LTy) (vm : MReg) (vd vs1 vs2 : VReg)   -- R275
  | vabs (ty : LTy) (vm : MReg) (vd vs1 : VReg)   -- R275
  | vand (ty : LTy) (vm : MReg) (vd vs1 vs2 : VReg)   -- R275
  | vor (ty : LTy) (vm : MReg) (vd vs1 vs2 : VReg)   -- R275
  | vxor (ty : LTy) (vm : MReg) (vd vs1 vs2 : VReg)   -- R275
  | vsll (ty : LTy) (vm : MReg) (vd vs1 vs2 : VReg)   -- R275
  | vsrl (ty : LTy) (vm : MReg) (vd vs1 vs2 : VReg)   -- R275
  | vsra (ty : LTy) (vm : MReg) (vd vs1 vs2 : VReg)   -- R275
  | vcmpeq (ty : LTy) (vm md : MReg) (vs1 vs2 : VReg)   -- R275
  | vcmplt (ty : LTy) (vm md : MReg) (vs1 vs2 : VReg)   -- R275
  | vsel (ty : LTy) (vm : MReg) (vd vs1 vs2 : VReg)   -- R275
  | vfadd (ty : LTy) (vm : MReg) (vd vs1 vs2 : VReg)   -- R276
  | vfsub (ty : LTy) (vm : MReg) (vd vs1 vs2 : VReg)   -- R276
  | vfmul (ty : LTy) (vm : MReg) (vd vs1 vs2 : VReg)   -- R276
  | vfma (ty : LTy) (vm : MReg) (vd vs1 vs2 : VReg)   -- R276
  | vfms (ty : LTy) (vm : MReg) (vd vs1 vs2 : VReg)   -- R276
  | vfmin (ty : LTy) (vm : MReg) (vd vs1 vs2 : VReg)   -- R276
  | vfmax (ty : LTy) (vm : MReg) (vd vs1 vs2 : VReg)   -- R276
  | vfabs (ty : LTy) (vm : MReg) (vd vs1 : VReg)   -- R276
  | vfneg (ty : LTy) (vm : MReg) (vd vs1 : VReg)   -- R276
  | vfcmpeq (ty : LTy) (vm md : MReg) (vs1 vs2 : VReg)   -- R277
  | vfcmplt (ty : LTy) (vm md : MReg) (vs1 vs2 : VReg)   -- R277
  | vfcmple (ty : LTy) (vm md : MReg) (vs1 vs2 : VReg)   -- R277
  | vrsqrt (ty : LTy) (vm : MReg) (vd vs1 : VReg)   -- R79
  | vrecip (ty : LTy) (vm : MReg) (vd vs1 : VReg)   -- R79
  | vsqrt (ty : LTy) (vm : MReg) (vd vs1 : VReg)   -- R79
  | vexp2 (ty : LTy) (vm : MReg) (vd vs1 : VReg)   -- R81
  | vperm (ty : LTy) (vm : MReg) (vd vs1 vs2 : VReg)   -- R278
  | vshuf (ty : LTy) (vm : MReg) (vd vs1 vs2 : VReg)   -- R278
  | vbcast (ty : LTy) (vm : MReg) (vd vs1 : VReg) (ys2 : YReg)   -- R278
  | vslideup (ty : LTy) (vm : MReg) (vd vs1 : VReg) (ys2 : YReg)   -- R278
  | vslidedn (ty : LTy) (vm : MReg) (vd vs1 : VReg) (ys2 : YReg)   -- R278
  | vzip (ty : LTy) (vm : MReg) (vd vs1 vs2 : VReg)   -- R278
  | vunzip (ty : LTy) (vm : MReg) (vd vs1 vs2 : VReg)   -- R278
  | vcvt (dst src : NFmt) (rm : RMode) (sat : Bool) (vd vs1 : VReg)   -- R280
  | vpack (ty : LTy) (vm : MReg) (vd vs1 vs2 : VReg)   -- R279
  | vwiden (ty : LTy) (vm : MReg) (vd vs1 : VReg) (half : Bool)   -- R279
  | vredsum (ty : LTy) (vm : MReg) (vd vs1 : VReg)   -- R281
  | vredmax (ty : LTy) (vm : MReg) (vd vs1 : VReg)   -- R281
  | vredmin (ty : LTy) (vm : MReg) (vd vs1 : VReg)   -- R281
  | vinsy (ty : LTy) (vd : VReg) (ys1 ys2 : YReg)   -- R282
  | vexty (ty : LTy) (yd : YReg) (vs1 : VReg) (ys2 : YReg)   -- R282
  | vsplat (ty : LTy) (vm : MReg) (vd : VReg) (ys1 : YReg)   -- R282
  | mand (md ms1 ms2 : MReg)   -- R283
  | mor (md ms1 ms2 : MReg)   -- R283
  | mxor (md ms1 ms2 : MReg)   -- R283
  | mnot (md ms1 : MReg)   -- R283
  | mpop (yd : YReg) (ms1 : MReg)   -- R283
  | mfirst (yd : YReg) (ms1 : MReg)   -- R283
  | fadd (ty : LTy) (yd ys1 ys2 : YReg)   -- R261
  | fsub (ty : LTy) (yd ys1 ys2 : YReg)   -- R261
  | fmul (ty : LTy) (yd ys1 ys2 : YReg)   -- R261
  | fdiv (ty : LTy) (yd ys1 ys2 : YReg)   -- R261
  | fsqrt (ty : LTy) (yd ys1 : YReg)   -- R261
  | fmin (ty : LTy) (yd ys1 ys2 : YReg)   -- R261
  | fmax (ty : LTy) (yd ys1 ys2 : YReg)   -- R261
  | fmadd (ty : LTy) (yd ys1 ys2 : YReg)   -- R261
  | fcmp (ty : LTy) (cc : Cond) (yd ys1 ys2 : YReg)   -- R262
  | fcvt (dst src : LTy) (rm : RMode) (sat : Bool) (yd ys1 : YReg)   -- R264
  | fclass (ty : LTy) (yd ys1 : YReg)   -- R263
  | mcfg (ys1 : YReg)   -- R290
  | mldb (ys1 ys2 : YReg)   -- R291
  | mma (acc : AccReg) (ys1 ys2 : YReg)   -- R292
  | mrot   -- R293
  | mscale (ys1 ys2 : YReg)   -- R294
  | mzero (acc : AccReg) (int64 : Bool)   -- R295
  | mrdacc (acc : AccReg) (ys1 ys2 : YReg)   -- R296
  | mwracc (acc : AccReg) (ys1 ys2 : YReg)   -- R296
  | mcmd (ys1 : YReg)   -- R297
  | mstat (yd : YReg)   -- R298
  | eclr (ed : EReg)   -- R182
  | eins (ed : EReg) (ys1 ys2 : YReg)   -- R182
  | eld (ed : EReg) (ys1 ys2 : YReg)   -- R187
  | est (es : EReg) (ys1 : YReg)   -- R187
  | emax (ed ea eb : EReg)   -- R182
  | eadd (ed ea eb : EReg)   -- R182
  | einf (ed ea eb : EReg)   -- R183
  | econj (ed ea : EReg)   -- R184
  | eeval (yd : YReg) (es : EReg) (ys2 : YReg)   -- R185
  | ecnt (yd : YReg) (es : EReg)   -- R185
  | scfg (ys1 : YReg)   -- R303
  | slocal (ys1 ys2 : YReg)   -- R195
  | spass (ys1 : YReg)   -- R197
  | sapply (ys1 ys2 : YReg)   -- R195
  | sclose   -- R305
  | swait (vd : VReg)   -- R306
  | sndh (rs1 rs2 : XReg)   -- R318
  | snd (rs1 rs2 : XReg)   -- R318
  | rcv (rd : XReg) (q : QNum)   -- R319
  | rcvn (rd : XReg) (q : QNum)   -- R319
  | wmsg   -- R321
  | mbxpop (rd rs2 : XReg)   -- R321
  | cpset (which : BitVec 3) (rs1 : XReg)   -- R309
  | cplaunch (rd : XReg)   -- R310
  | cpstat (rd rs1 : XReg)   -- R311
  | wait   -- R313
  | waitv (rd rs1 : XReg)   -- R313
  | fence (rd : XReg) (scope : BitVec 4)   -- R315
  | fwait (rs1 : XReg)   -- R316
  | amoadd (w : AWidth) (rd rs1 rs2 : XReg)   -- R323
  | amoand (w : AWidth) (rd rs1 rs2 : XReg)   -- R323
  | amoor (w : AWidth) (rd rs1 rs2 : XReg)   -- R323
  | amoxor (w : AWidth) (rd rs1 rs2 : XReg)   -- R323
  | amomin (w : AWidth) (rd rs1 rs2 : XReg)   -- R323
  | amomax (w : AWidth) (rd rs1 rs2 : XReg)   -- R323
  | amoswap (w : AWidth) (rd rs1 rs2 : XReg)   -- R323
  | amocas (w : AWidth) (rd rs1 rs2 : XReg)   -- R323
  | damoadd (w : AWidth) (rd rs1 rs2 : XReg)   -- R325
  | damomin (w : AWidth) (rd rs1 rs2 : XReg)   -- R325
  | damomax (w : AWidth) (rd rs1 rs2 : XReg)   -- R325
  | next (rd : XReg)   -- R37
  | tdone   -- R328
  | mfs (rd : Scalar) (spr : BitVec 12)   -- R330
  | mts (spr : BitVec 12) (rs1 : Scalar)   -- R330
  | ecall   -- R331
  | eret   -- R332
  | brk   -- R331
  | idle   -- R333
  | halt   -- R334
  | frameinv (rs1 : XReg)   -- R335
  | rqRegionWrite (p : Nat) (n : QNum) (size : Bool) (val : Word)   -- R55
  | tickcmpWrite (p : Nat) (val : Word)   -- R361
  | capreqWrite (p : Nat) (val : Word)   -- R362
  | capabilityMinted (p : Nat)   -- R362
  | queueRearm (p : Nat) (n : QNum)   -- R359
  | mailboxRearm (p : Nat)   -- R359
  | overflowAreaRestart (p : Nat)   -- R359
  | lostClear (p : Nat)   -- R361
  | intpendClear (p : Nat) (bits : Word)   -- R357
  | merrlogClear (p : Nat) (bits : Word)   -- R53
  | delayedLoopWriteLand (p : Nat)   -- R258
  | interruptTake (p : Nat)   -- R355
  | engineCommandStart (p : Nat) (eng : Engine)   -- R285
  | matrixCommandComplete (p : Nat)   -- R169
  | rotationSendArrival (p : Nat)   -- R163
  | rotationSwap (p : Nat)   -- R163
  | ringCreditArrival (p : Nat)   -- R163
  | mcmdRecordArrival (k : Nat)   -- R172
  | envelopeCommandComplete (p : Nat)   -- R178
  | scanCommandComplete (p : Nat)   -- R195
  | carryArrival (k : Nat)   -- R197
  | spassComplete (p : Nat)   -- R197
  | scloseComplete (p : Nat)   -- R305
  | chainRelease (g tail : Nat)   -- R197
  | cueEntryFetch (g d : Nat)   -- R124
  | barrierFire (g d k : Nat)   -- R126
  | readyReport (g d k : Nat)   -- R130
  | readyReportArrival (k : Nat)   -- R130
  | barrierRelease (g k : Nat)   -- R129
  | pkgReadyReport (g : Nat)   -- R132
  | pkgRelease (g : Nat) (at_ : Nat)   -- R132
  | gangBoundaryCommit (g : Nat)   -- R112
  | taskMerge (g : Nat)   -- R113
  | gangBoundaryPublish (g : Nat)   -- R112
  | damoRequestRecord (k : Nat)   -- R116
  | barrierStallEvent (p : Nat)   -- R133
  | longReceiveEvent (p : Nat)   -- R45
  | packetArrival (k : Nat)   -- R152
  | retryResend (k : Nat)   -- R152
  | packetAckArrival (k : Nat)   -- R138
  | streamSlotReturn (k : Nat)   -- R40
  | noteArrival (k : Nat)   -- R144
  | localMailboxDelivery (p : Nat)   -- R144
  | escapeMove (k : Nat)   -- R154
  | parkedReinject (k : Nat)   -- R154
  | remoteStoreArrival (k : Nat)   -- R94
  | remoteStoreAck (k : Nat)   -- R92
  | refusalArrival (k : Nat)   -- R358
  | remoteLoadArrival (k : Nat)   -- R94
  | remoteLoadResponse (k : Nat)   -- R246
  | globalLoadResponse (p k : Nat)   -- R107
  | amoAction (k : Nat)   -- R323
  | amoResponse (k : Nat)   -- R323
  | copyStart (p id : Nat)   -- R148
  | copyComplete (p id : Nat)   -- R149
  | translationWalk (p : Nat) (va : Word) (need : Access)   -- R371
  | walkComplete (d k : Nat)   -- R368
  | invalidationAck (p : Nat)   -- R373
  | serviceShootdown (part pfi : Nat)   -- R374
  | fwaitDone (p : Nat)   -- R316
  | rcvWake (p : Nat)   -- R319
  | wmsgWake (p : Nat)   -- R321
  | idleWake (p : Nat)   -- R333
  | gangStart (g : Nat)   -- R43
  | timeSliceEnd (g : Nat)   -- R380
  | gangSwitchStop (g : Nat)   -- R387
  | switchPark (g : Nat)   -- R388
  | gangResume (g : Nat)   -- R390
  | sliceAbort (g : Nat)   -- R392
  | uncorrectableConsumption (p : Nat) (addr : Word) (kind : UcUnit)   -- R398
  | rollbackStop (g : Nat)   -- R398
  | rollbackResume (g : Nat)   -- R398
  | serialReexecution (g : Nat)   -- R403
  | touchmarkExchange (p : Nat)   -- R407
  | touchmarkArrival (p : Nat)   -- R408
  | patternApply (d c : Nat)   -- R413
  | rampStep (d : Nat)   -- R412
  | rampEnd (d : Nat)   -- R413
  | temperatureRead (p : Nat) (temp : Nat)   -- R418
  | thermalThrottleStep (p : Nat)   -- R418
  | migrationStart (p : Nat)   -- R419
  | migrationResume (p : Nat)   -- R419
  | wearCharge (p : Nat) (tj mv : Nat)   -- R423
  | monitorRead (p : Nat) (bti em : Nat) (fails : Bool)   -- R424
  | frameRetire (pfn : Nat) (located : Bool)   -- R375
  | frameLineCopy (part pfi line : Nat)   -- R376
  | mirrorClear (part pfi : Nat)   -- R376
  | memoryScrubError (d pidx : Nat) (kind : UcUnit) (addr : Word)   -- R410
  | attest (rq : Request) (nonce : BitVec 256) (key : BitVec 776)   -- R438
  | partitionCreate (rq : Request) (shape : Shape)   -- R378
  | partitionResize (rq : Request) (shape : Shape)   -- R379
  | partitionDelete (rq : Request)   -- R440
  | partitionRoot (rq : Request) (root : Word)   -- R363
  | partitionPattern (rq : Request) (g c : Nat) (whole : Bool) (pat : BitVec 16)   -- R413
  | load (rq : Request) (pa : Word) (stack : Nat) (bytes : List Byte)   -- R366
  | launch (rq : Request) (image : Word) (len undo : Nat) (pair : Bool) (pkg npkg : Nat)   -- R386
  | preemptStop (rq : Request) (g tick : Nat)   -- R387
  | preemptResume (rq : Request) (g tick : Nat)   -- R390
  | queryTrace (rq : Request)   -- R416
  | queryAssay (rq : Request)   -- R425
  | queryErrorLog (rq : Request)   -- R410
  | queryEventCounts (rq : Request)   -- R444
  | resync (rq : Request)   -- R433
  | freeze (rq : Request) (tick : Nat)   -- R434
  | shutdownImmediate (rq : Request)   -- R435
  | shutdownAtBoundary (rq : Request)   -- R435
  | coordinatorFailover (dead : List Nat)   -- R429
  | boot (sigOk : Option Bool) (lmsOk othersOk : Bool) (version : Nat)   -- R437
  | tapReadout (d : Nat)   -- R441
  | tickCompare (p : Nat)   -- R357
  | ieee1588Sync (fix : ClockFix)   -- R436
  | dieRestart (d : Nat)   -- R422
  deriving DecidableEq, Repr

end Sys2Proof
end

