-- ==== Sys2Proof/WellFormed.lean ====
section
/-! DEFINITION. WellFormed: which instructions an encoding can stand for (R48, R203, R210 to R219). A word whose fields
break one of these checks takes the ILLEGAL trap (R220); an event is always well formed. -/

namespace Sys2Proof

/-- An x register an A-slice source may name (R48). -/
def srcX (r : XReg) : Bool := r != 28#5 && r != 29#5
/-- An x register an A-slice destination may name (R48). -/
def dstX (r : XReg) : Bool := r != 30#5 && r != 31#5
/-- A y register an X-slice source may name (R48). -/
def srcY (r : YReg) : Bool := r != 12#4 && r != 13#4
/-- A y register an X-slice destination may name (R48). -/
def dstY (r : YReg) : Bool := r != 14#4 && r != 15#4
/-- The scalar source of MTS (R48, R330). -/
def srcS : Scalar → Bool
  | .x r => srcX r
  | .y r => srcY r
/-- The scalar destination of MFS (R48, R330). -/
def dstS : Scalar → Bool
  | .x r => dstX r
  | .y r => dstY r

/-- Types of VINT (R211). -/
def LTy.isInt : LTy → Bool
  | .i8 | .i16 | .i32 | .i64 => true
  | .bf16 | .f32 | .f64 => false
/-- Types of VFLT (R211). -/
def LTy.isFlt (t : LTy) : Bool := !t.isInt
/-- Types of VEXP2 (R211). -/
def LTy.isExp2 (t : LTy) : Bool := t == .bf16 || t == .f32
/-- Source types of VPACK (R212). -/
def LTy.packs (t : LTy) : Bool := t != .i8 && t != .bf16
/-- Source types of VWIDEN (R212). -/
def LTy.widens (t : LTy) : Bool := t != .i64 && t != .f64
/-- Types of VINSY, VEXTY and VSPLAT (R214). -/
def LTy.moves (t : LTy) : Bool := t != .bf16
/-- Formats of SFLT except FCVT (R215). -/
def LTy.scalar (t : LTy) : Bool := t == .f32 || t == .f64

/-- The encodings R200 to R219 allow. -/
def Instr.wf : Instr → Bool
  | .lb rd rs1 _ => srcX rs1 && dstX rd
  | .lh rd rs1 _ => srcX rs1 && dstX rd
  | .lw rd rs1 _ => srcX rs1 && dstX rd
  | .ld rd rs1 _ => srcX rs1 && dstX rd
  | .lbu rd rs1 _ => srcX rs1 && dstX rd
  | .lhu rd rs1 _ => srcX rs1 && dstX rd
  | .lwu rd rs1 _ => srcX rs1 && dstX rd
  | .sb rs2 rs1 _ => srcX rs1 && srcX rs2
  | .sh rs2 rs1 _ => srcX rs1 && srcX rs2
  | .sw rs2 rs1 _ => srcX rs1 && srcX rs2
  | .sd rs2 rs1 _ => srcX rs1 && srcX rs2
  | .lbY yd rs1 _ => srcX rs1 && dstY yd
  | .lhY yd rs1 _ => srcX rs1 && dstY yd
  | .lwY yd rs1 _ => srcX rs1 && dstY yd
  | .ldY yd rs1 _ => srcX rs1 && dstY yd
  | .lbuY yd rs1 _ => srcX rs1 && dstY yd
  | .lhuY yd rs1 _ => srcX rs1 && dstY yd
  | .lwuY yd rs1 _ => srcX rs1 && dstY yd
  | .sbY yd rs1 _ => srcX rs1 && srcY yd
  | .shY yd rs1 _ => srcX rs1 && srcY yd
  | .swY yd rs1 _ => srcX rs1 && srcY yd
  | .sdY yd rs1 _ => srcX rs1 && srcY yd
  | .addi rd rs1 _ => srcX rs1 && dstX rd
  | .slli rd rs1 _ => srcX rs1 && dstX rd
  | .srli rd rs1 _ => srcX rs1 && dstX rd
  | .srai rd rs1 _ => srcX rs1 && dstX rd
  | .slti rd rs1 _ => srcX rs1 && dstX rd
  | .sltiu rd rs1 _ => srcX rs1 && dstX rd
  | .xori rd rs1 _ => srcX rs1 && dstX rd
  | .ori rd rs1 _ => srcX rs1 && dstX rd
  | .andi rd rs1 _ => srcX rs1 && dstX rd
  | .addiw rd rs1 _ => srcX rs1 && dstX rd
  | .add rd rs1 rs2 => srcX rs1 && srcX rs2 && dstX rd
  | .sub rd rs1 rs2 => srcX rs1 && srcX rs2 && dstX rd
  | .and rd rs1 rs2 => srcX rs1 && srcX rs2 && dstX rd
  | .or rd rs1 rs2 => srcX rs1 && srcX rs2 && dstX rd
  | .xor rd rs1 rs2 => srcX rs1 && srcX rs2 && dstX rd
  | .sll rd rs1 rs2 => srcX rs1 && srcX rs2 && dstX rd
  | .srl rd rs1 rs2 => srcX rs1 && srcX rs2 && dstX rd
  | .sra rd rs1 rs2 => srcX rs1 && srcX rs2 && dstX rd
  | .slt rd rs1 rs2 => srcX rs1 && srcX rs2 && dstX rd
  | .sltu rd rs1 rs2 => srcX rs1 && srcX rs2 && dstX rd
  | .min rd rs1 rs2 => srcX rs1 && srcX rs2 && dstX rd
  | .max rd rs1 rs2 => srcX rs1 && srcX rs2 && dstX rd
  | .minu rd rs1 rs2 => srcX rs1 && srcX rs2 && dstX rd
  | .maxu rd rs1 rs2 => srcX rs1 && srcX rs2 && dstX rd
  | .mul rd rs1 rs2 => srcX rs1 && srcX rs2 && dstX rd
  | .mulh rd rs1 rs2 => srcX rs1 && srcX rs2 && dstX rd
  | .mulhu rd rs1 rs2 => srcX rs1 && srcX rs2 && dstX rd
  | .div rd rs1 rs2 => srcX rs1 && srcX rs2 && dstX rd
  | .divu rd rs1 rs2 => srcX rs1 && srcX rs2 && dstX rd
  | .rem rd rs1 rs2 => srcX rs1 && srcX rs2 && dstX rd
  | .remu rd rs1 rs2 => srcX rs1 && srcX rs2 && dstX rd
  | .addw rd rs1 rs2 => srcX rs1 && srcX rs2 && dstX rd
  | .subw rd rs1 rs2 => srcX rs1 && srcX rs2 && dstX rd
  | .sllw rd rs1 rs2 => srcX rs1 && srcX rs2 && dstX rd
  | .srlw rd rs1 rs2 => srcX rs1 && srcX rs2 && dstX rd
  | .sraw rd rs1 rs2 => srcX rs1 && srcX rs2 && dstX rd
  | .clz rd rs1 => srcX rs1 && dstX rd
  | .ctz rd rs1 => srcX rs1 && dstX rd
  | .cnt rd rs1 => srcX rs1 && dstX rd
  | .sel rd rs1 rs2 => srcX rs1 && srcX rs2 && dstX rd && srcX rd
  | .lui rd _ => dstX rd
  | .auipc rd _ => dstX rd
  | .beq rs1 rs2 _ => srcX rs1 && srcX rs2
  | .bne rs1 rs2 _ => srcX rs1 && srcX rs2
  | .blt rs1 rs2 _ => srcX rs1 && srcX rs2
  | .bge rs1 rs2 _ => srcX rs1 && srcX rs2
  | .bltu rs1 rs2 _ => srcX rs1 && srcX rs2
  | .bgeu rs1 rs2 _ => srcX rs1 && srcX rs2
  | .jal rd _ => dstX rd
  | .jalr rd rs1 _ => srcX rs1 && dstX rd
  | .pbr _ _ => true
  | .bj _ => true
  | .bjz _ rs1 => srcX rs1
  | .bjnz _ rs1 => srcX rs1
  | .loop _ rs1 fin => srcX rs1 && fin != 0#12
  | .loopi _ _ fin => fin != 0#12
  | .lclr _ => true
  | .vld _ _ _ rs1 _ => srcX rs1
  | .vst _ _ _ rs1 _ => srcX rs1
  | .vlds _ _ _ rs1 rs2 => srcX rs1 && srcX rs2
  | .vsts _ _ _ rs1 rs2 => srcX rs1 && srcX rs2
  | .vgather _ _ _ rs1 _ => srcX rs1
  | .vscatter _ _ _ rs1 _ => srcX rs1
  | .vldb _ _ _ rs1 _ => srcX rs1
  | .vadd ty _ _ _ _ => ty.isInt
  | .vsub ty _ _ _ _ => ty.isInt
  | .vmul ty _ _ _ _ => ty.isInt
  | .vmulh ty _ _ _ _ => ty.isInt
  | .vmin ty _ _ _ _ => ty.isInt
  | .vmax ty _ _ _ _ => ty.isInt
  | .vabs ty _ _ _ => ty.isInt
  | .vand ty _ _ _ _ => ty.isInt
  | .vor ty _ _ _ _ => ty.isInt
  | .vxor ty _ _ _ _ => ty.isInt
  | .vsll ty _ _ _ _ => ty.isInt
  | .vsrl ty _ _ _ _ => ty.isInt
  | .vsra ty _ _ _ _ => ty.isInt
  | .vcmpeq ty _ _ _ _ => ty.isInt
  | .vcmplt ty _ _ _ _ => ty.isInt
  | .vsel ty _ _ _ _ => ty.isInt
  | .vfadd ty _ _ _ _ => ty.isFlt
  | .vfsub ty _ _ _ _ => ty.isFlt
  | .vfmul ty _ _ _ _ => ty.isFlt
  | .vfma ty _ _ _ _ => ty.isFlt
  | .vfms ty _ _ _ _ => ty.isFlt
  | .vfmin ty _ _ _ _ => ty.isFlt
  | .vfmax ty _ _ _ _ => ty.isFlt
  | .vfabs ty _ _ _ => ty.isFlt
  | .vfneg ty _ _ _ => ty.isFlt
  | .vfcmpeq ty _ _ _ _ => ty.isFlt
  | .vfcmplt ty _ _ _ _ => ty.isFlt
  | .vfcmple ty _ _ _ _ => ty.isFlt
  | .vrsqrt ty _ _ _ => ty.isFlt
  | .vrecip ty _ _ _ => ty.isFlt
  | .vsqrt ty _ _ _ => ty.isFlt
  | .vexp2 ty _ _ _ => ty.isExp2
  | .vperm _ _ _ _ _ => true
  | .vshuf _ _ _ _ _ => true
  | .vbcast _ _ _ _ ys2 => srcY ys2
  | .vslideup _ _ _ _ ys2 => srcY ys2
  | .vslidedn _ _ _ _ ys2 => srcY ys2
  | .vzip _ _ _ _ _ => true
  | .vunzip _ _ _ _ _ => true
  | .vcvt dst src _ _ _ _ => dst != src && dst != .e8m0 && (src != .e8m0 || dst == .f32)
  | .vpack ty _ _ _ _ => ty.packs
  | .vwiden ty _ _ _ _ => ty.widens
  | .vredsum _ _ _ _ => true
  | .vredmax _ _ _ _ => true
  | .vredmin _ _ _ _ => true
  | .vinsy ty _ ys1 ys2 => srcY ys1 && srcY ys2 && ty.moves
  | .vexty ty yd _ ys2 => srcY ys2 && dstY yd && ty.moves
  | .vsplat ty _ _ ys1 => srcY ys1 && ty.moves
  | .mand _ _ _ => true
  | .mor _ _ _ => true
  | .mxor _ _ _ => true
  | .mnot _ _ => true
  | .mpop yd _ => dstY yd
  | .mfirst yd _ => dstY yd
  | .fadd ty yd ys1 ys2 => srcY ys1 && srcY ys2 && dstY yd && ty.scalar
  | .fsub ty yd ys1 ys2 => srcY ys1 && srcY ys2 && dstY yd && ty.scalar
  | .fmul ty yd ys1 ys2 => srcY ys1 && srcY ys2 && dstY yd && ty.scalar
  | .fdiv ty yd ys1 ys2 => srcY ys1 && srcY ys2 && dstY yd && ty.scalar
  | .fsqrt ty yd ys1 => srcY ys1 && dstY yd && ty.scalar
  | .fmin ty yd ys1 ys2 => srcY ys1 && srcY ys2 && dstY yd && ty.scalar
  | .fmax ty yd ys1 ys2 => srcY ys1 && srcY ys2 && dstY yd && ty.scalar
  | .fmadd ty yd ys1 ys2 => srcY ys1 && srcY ys2 && dstY yd && srcY yd && ty.scalar
  | .fcmp ty _ yd ys1 ys2 => srcY ys1 && srcY ys2 && dstY yd && ty.scalar
  | .fcvt dst src _ _ yd ys1 => srcY ys1 && dstY yd && dst != src
  | .fclass ty yd ys1 => srcY ys1 && dstY yd && ty.scalar
  | .mcfg ys1 => srcY ys1
  | .mldb ys1 ys2 => srcY ys1 && srcY ys2
  | .mma _ ys1 ys2 => srcY ys1 && srcY ys2
  | .mrot => true
  | .mscale ys1 ys2 => srcY ys1 && srcY ys2
  | .mzero _ _ => true
  | .mrdacc _ ys1 ys2 => srcY ys1 && srcY ys2
  | .mwracc _ ys1 ys2 => srcY ys1 && srcY ys2
  | .mcmd ys1 => srcY ys1
  | .mstat yd => dstY yd
  | .eclr _ => true
  | .eins _ ys1 ys2 => srcY ys1 && srcY ys2
  | .eld _ ys1 ys2 => srcY ys1 && srcY ys2
  | .est _ ys1 => srcY ys1
  | .emax _ _ _ => true
  | .eadd _ _ _ => true
  | .einf _ _ _ => true
  | .econj _ _ => true
  | .eeval yd _ ys2 => srcY ys2 && dstY yd
  | .ecnt yd _ => dstY yd
  | .scfg ys1 => srcY ys1
  | .slocal ys1 ys2 => srcY ys1 && srcY ys2
  | .spass ys1 => srcY ys1
  | .sapply ys1 ys2 => srcY ys1 && srcY ys2
  | .sclose => true
  | .swait _ => true
  | .sndh rs1 rs2 => srcX rs1 && srcX rs2
  | .snd rs1 rs2 => srcX rs1 && srcX rs2
  | .rcv rd _ => dstX rd
  | .rcvn rd _ => dstX rd
  | .wmsg => true
  | .mbxpop rd rs2 => dstX rs2 && dstX rd
  | .cpset which rs1 => srcX rs1 && which != 7#3
  | .cplaunch rd => dstX rd
  | .cpstat rd rs1 => srcX rs1 && dstX rd
  | .wait => true
  | .waitv rd rs1 => srcX rs1 && dstX rd
  | .fence rd scope => dstX rd && scope != 0#4
  | .fwait rs1 => srcX rs1
  | .amoadd _ rd rs1 rs2 => srcX rs1 && srcX rs2 && dstX rd
  | .amoand _ rd rs1 rs2 => srcX rs1 && srcX rs2 && dstX rd
  | .amoor _ rd rs1 rs2 => srcX rs1 && srcX rs2 && dstX rd
  | .amoxor _ rd rs1 rs2 => srcX rs1 && srcX rs2 && dstX rd
  | .amomin _ rd rs1 rs2 => srcX rs1 && srcX rs2 && dstX rd
  | .amomax _ rd rs1 rs2 => srcX rs1 && srcX rs2 && dstX rd
  | .amoswap _ rd rs1 rs2 => srcX rs1 && srcX rs2 && dstX rd
  | .amocas _ rd rs1 rs2 => srcX rs1 && srcX rs2 && dstX rd && srcX rd
  | .damoadd _ rd rs1 rs2 => srcX rs1 && srcX rs2 && dstX rd
  | .damomin _ rd rs1 rs2 => srcX rs1 && srcX rs2 && dstX rd
  | .damomax _ rd rs1 rs2 => srcX rs1 && srcX rs2 && dstX rd
  | .next rd => rd != 0#5 && rd.toNat < 27
  | .tdone => true
  | .mfs rd _ => dstS rd
  | .mts _ rs1 => srcS rs1
  | .ecall => true
  | .eret => true
  | .brk => true
  | .idle => true
  | .halt => true
  | .frameinv rs1 => srcX rs1
  | .rqRegionWrite _ _ _ _ => true
  | .tickcmpWrite _ _ => true
  | .capreqWrite _ _ => true
  | .capabilityMinted _ => true
  | .queueRearm _ _ => true
  | .mailboxRearm _ => true
  | .overflowAreaRestart _ => true
  | .lostClear _ => true
  | .intpendClear _ _ => true
  | .merrlogClear _ _ => true
  | .delayedLoopWriteLand _ => true
  | .interruptTake _ => true
  | .engineCommandStart _ _ => true
  | .matrixCommandComplete _ => true
  | .rotationSendArrival _ => true
  | .rotationSwap _ => true
  | .ringCreditArrival _ => true
  | .mcmdRecordArrival _ => true
  | .envelopeCommandComplete _ => true
  | .scanCommandComplete _ => true
  | .carryArrival _ => true
  | .spassComplete _ => true
  | .scloseComplete _ => true
  | .chainRelease _ _ => true
  | .cueEntryFetch _ _ => true
  | .barrierFire _ _ _ => true
  | .readyReport _ _ _ => true
  | .readyReportArrival _ => true
  | .barrierRelease _ _ => true
  | .pkgReadyReport _ => true
  | .pkgRelease _ _ => true
  | .gangBoundaryCommit _ => true
  | .taskMerge _ => true
  | .gangBoundaryPublish _ => true
  | .damoRequestRecord _ => true
  | .barrierStallEvent _ => true
  | .longReceiveEvent _ => true
  | .packetArrival _ => true
  | .retryResend _ => true
  | .packetAckArrival _ => true
  | .streamSlotReturn _ => true
  | .noteArrival _ => true
  | .localMailboxDelivery _ => true
  | .escapeMove _ => true
  | .parkedReinject _ => true
  | .remoteStoreArrival _ => true
  | .remoteStoreAck _ => true
  | .refusalArrival _ => true
  | .remoteLoadArrival _ => true
  | .remoteLoadResponse _ => true
  | .globalLoadResponse _ _ => true
  | .amoAction _ => true
  | .amoResponse _ => true
  | .copyStart _ _ => true
  | .copyComplete _ _ => true
  | .translationWalk _ _ _ => true
  | .walkComplete _ _ => true
  | .invalidationAck _ => true
  | .serviceShootdown _ _ => true
  | .fwaitDone _ => true
  | .rcvWake _ => true
  | .wmsgWake _ => true
  | .idleWake _ => true
  | .gangStart _ => true
  | .timeSliceEnd _ => true
  | .gangSwitchStop _ => true
  | .switchPark _ => true
  | .gangResume _ => true
  | .sliceAbort _ => true
  | .uncorrectableConsumption _ _ _ => true
  | .rollbackStop _ => true
  | .rollbackResume _ => true
  | .serialReexecution _ => true
  | .touchmarkExchange _ => true
  | .touchmarkArrival _ => true
  | .patternApply _ _ => true
  | .rampStep _ => true
  | .rampEnd _ => true
  | .temperatureRead _ _ => true
  | .thermalThrottleStep _ => true
  | .migrationStart _ => true
  | .migrationResume _ => true
  | .wearCharge _ _ _ => true
  | .monitorRead _ _ _ _ => true
  | .frameRetire _ _ => true
  | .frameLineCopy _ _ _ => true
  | .mirrorClear _ _ => true
  | .memoryScrubError _ _ _ _ => true
  | .attest _ _ _ => true
  | .partitionCreate _ _ => true
  | .partitionResize _ _ => true
  | .partitionDelete _ => true
  | .partitionRoot _ _ => true
  | .partitionPattern _ _ _ _ _ => true
  | .load _ _ _ _ => true
  | .launch _ _ _ _ _ _ _ => true
  | .preemptStop _ _ _ => true
  | .preemptResume _ _ _ => true
  | .queryTrace _ => true
  | .queryAssay _ => true
  | .queryErrorLog _ => true
  | .queryEventCounts _ => true
  | .resync _ => true
  | .freeze _ _ => true
  | .shutdownImmediate _ => true
  | .shutdownAtBoundary _ => true
  | .coordinatorFailover _ => true
  | .boot _ _ _ _ => true
  | .tapReadout _ => true
  | .tickCompare _ => true
  | .ieee1588Sync _ => true
  | .dieRestart _ => true

end Sys2Proof
end

