-- ==== Sys2Proof/Decode.lean ====
section
/-! DEFINITION. Decode: one 32-bit word to an instruction, or a refusal by the reason R220 names; and the encoder written
from the same tables (12_instruction_formats_and_opcode_map, R200 to R220). -/

namespace Sys2Proof

/-- Why a word is not an instruction: the list of R220. -/
inductive Illegal where
  /-- MAJ 0x00 or 0x1B to 0x3F, the all-zero and the all-one word among them. -/
  | major
  /-- A reserved minor code, type, width, format code or selector. -/
  | minor
  /-- A slice marker that R205 does not allow. -/
  | slice
  /-- A register field outside R203. -/
  | register
  /-- A nonzero unused field (R204). -/
  | unused
  /-- A form the fields do not allow together: a forbidden port direction, type or operand value (R48, R210 to R219). -/
  | form
  deriving DecidableEq, Repr

/-- The fields of a word (R200). -/
structure Fields where
  f7 : BitVec 7
  rs2 : BitVec 5
  rs1 : BitVec 5
  f3 : BitVec 3
  rd : BitVec 5
  s : BitVec 1
  maj : BitVec 6
  deriving DecidableEq, Repr

/-- The word of its fields, most significant first (R200). -/
def Fields.pack (f : Fields) : IWord := f.f7 ++ f.rs2 ++ f.rs1 ++ f.f3 ++ f.rd ++ f.s ++ f.maj

/-- The fields of a word (R200). -/
def Fields.unpack (w : IWord) : Fields where
  f7 := w.extractLsb' 25 7
  rs2 := w.extractLsb' 20 5
  rs1 := w.extractLsb' 15 5
  f3 := w.extractLsb' 12 3
  rd := w.extractLsb' 7 5
  s := w.extractLsb' 6 1
  maj := w.extractLsb' 0 6

/-- imm[11:0] of layouts I and LP (R201). -/
def Fields.immI (f : Fields) : BitVec 12 := f.f7 ++ f.rs2
/-- imm[11:0] of layouts S and B (R201). -/
def Fields.immS (f : Fields) : BitVec 12 := f.f7 ++ f.rd
/-- imm[19:0] of layouts U and J (R201). -/
def Fields.immU (f : Fields) : BitVec 20 := f.f7 ++ f.rs2 ++ f.rs1 ++ f.f3
/-- off[16:0] of PBR (R201). -/
def Fields.immP (f : Fields) : BitVec 17 := f.f7 ++ f.rs2 ++ f.rs1
/-- f4 of layouts V, VM and SF (R201). -/
def Fields.f4 (f : Fields) : BitVec 4 := f.f7.extractLsb' 3 4
/-- vm of layouts V and VM, sub of SF, imm8[7:5] of VMY (R201). -/
def Fields.vm (f : Fields) : BitVec 3 := f.f7.extractLsb' 0 3

/-- Bits [11:5] and [4:0] of a 12-bit immediate. -/
def hi7 (i : BitVec 12) : BitVec 7 := i.extractLsb' 5 7
def lo5 (i : BitVec 12) : BitVec 5 := i.extractLsb' 0 5
/-- Register numbers placed in a 5-bit field. -/
def y5 (r : BitVec 4) : BitVec 5 := 0#1 ++ r
def m5 (r : BitVec 3) : BitVec 5 := 0#2 ++ r
def j5q (r : BitVec 2) : BitVec 5 := 0#3 ++ r
/-- A j register in bits [8:7] with [11:9] zero (R201, layout PB). -/
def j5 (r : BitVec 2) : BitVec 5 := 0#3 ++ r
def b1 (b : Bool) : BitVec 1 := BitVec.ofBool b

/-- The type code of R266. -/
def LTy.code : LTy → BitVec 3
  | .i8 => 0 | .i16 => 1 | .i32 => 2 | .i64 => 3 | .bf16 => 4 | .f32 => 5 | .f64 => 6
/-- The format code of R213. -/
def NFmt.code : NFmt → BitVec 4
  | .i8 => 0 | .i16 => 1 | .i32 => 2 | .i64 => 3 | .bf16 => 4 | .f32 => 5 | .f64 => 6
  | .e4m3 => 7 | .e5m2 => 8 | .e2m1 => 9 | .e8m0 => 10
/-- The mode code of R66. -/
def RMode.code : RMode → BitVec 2
  | .rne => 0 | .rtz => 1 | .rdn => 2 | .rup => 3
/-- The sub code of FCMP (R215). -/
def Cond.code : Cond → BitVec 3
  | .eq => 0 | .lt => 1 | .le => 2
/-- The width code of R218. -/
def AWidth.code : AWidth → BitVec 3
  | .w32 => 2 | .w64 => 3
def Level.code : Level → BitVec 1
  | .zero => 0 | .one => 1
/-- The register field and slice marker of MFS and MTS (R219, R229). -/
def Scalar.field : Scalar → BitVec 5
  | .x r => r
  | .y r => y5 r
def Scalar.slice : Scalar → BitVec 1
  | .x _ => 0
  | .y _ => 1

/-- A field that must be zero (R204). -/
def zero {n : Nat} (b : BitVec n) : Except Illegal Unit := if b = 0#n then .ok () else .error .unused
/-- y0 to y15 (R203). -/
def reg4 (b : BitVec 5) : Except Illegal (BitVec 4) :=
  if b.extractLsb' 4 1 = 0#1 then .ok (b.extractLsb' 0 4) else .error .register
/-- m0 to m7, acc0 to acc7, e0 to e7, and the CPSET selector (R203). -/
def reg3 (b : BitVec 5) : Except Illegal (BitVec 3) :=
  if b.extractLsb' 3 2 = 0#2 then .ok (b.extractLsb' 0 3) else .error .register
/-- Queue numbers 0 to 3, and j registers with the bits above them zero (R201, R203). -/
def reg2 (b : BitVec 5) : Except Illegal (BitVec 2) :=
  if b.extractLsb' 2 3 = 0#3 then .ok (b.extractLsb' 0 2) else .error .register
/-- The lane type of a type field (R266). -/
def ltyOf (b : BitVec 3) : Except Illegal LTy :=
  match b.toNat with
  | 0 => .ok .i8 | 1 => .ok .i16 | 2 => .ok .i32 | 3 => .ok .i64
  | 4 => .ok .bf16 | 5 => .ok .f32 | 6 => .ok .f64 | _ => .error .minor
/-- The format of a DFC or SFC field (R213). -/
def nfmtOf (b : BitVec 4) : Except Illegal NFmt :=
  match b.toNat with
  | 0 => .ok .i8 | 1 => .ok .i16 | 2 => .ok .i32 | 3 => .ok .i64 | 4 => .ok .bf16 | 5 => .ok .f32
  | 6 => .ok .f64 | 7 => .ok .e4m3 | 8 => .ok .e5m2 | 9 => .ok .e2m1 | 10 => .ok .e8m0 | _ => .error .minor
/-- The rounding mode of a 2-bit field (R66). -/
def rmOf (b : BitVec 2) : RMode :=
  match b.toNat with
  | 0 => .rne | 1 => .rtz | 2 => .rdn | _ => .rup
/-- The loop level of bit [7] (R254). -/
def lvlOf (b : BitVec 5) : Level := if b.getLsbD 0 then .one else .zero
/-- The slice marker must be `v` (R205). -/
def slice (f : Fields) (v : BitVec 1) : Except Illegal Unit := if f.s = v then .ok () else .error .slice

/-- LOAD (R206). -/
def decLoad (f : Fields) : Except Illegal Instr :=
  match f.f3.toNat with
  | 0 => .ok (.lb f.rd f.rs1 f.immI) | 1 => .ok (.lh f.rd f.rs1 f.immI) | 2 => .ok (.lw f.rd f.rs1 f.immI)
  | 3 => .ok (.ld f.rd f.rs1 f.immI) | 4 => .ok (.lbu f.rd f.rs1 f.immI) | 5 => .ok (.lhu f.rd f.rs1 f.immI)
  | 6 => .ok (.lwu f.rd f.rs1 f.immI) | _ => .error .minor

/-- STORE (R206). -/
def decStore (f : Fields) : Except Illegal Instr :=
  match f.f3.toNat with
  | 0 => .ok (.sb f.rs2 f.rs1 f.immS) | 1 => .ok (.sh f.rs2 f.rs1 f.immS)
  | 2 => .ok (.sw f.rs2 f.rs1 f.immS) | 3 => .ok (.sd f.rs2 f.rs1 f.immS) | _ => .error .minor

/-- OPIMM (R207). -/
def decOpImm (f : Fields) : Except Illegal Instr :=
  match f.f3.toNat with
  | 0 => .ok (.addi f.rd f.rs1 f.immI)
  | 1 =>
    let sh : BitVec 6 := f.f7.extractLsb' 0 1 ++ f.rs2
    match (f.f7.extractLsb' 1 6).toNat with
    | 0 => .ok (.slli f.rd f.rs1 sh) | 1 => .ok (.srli f.rd f.rs1 sh) | 2 => .ok (.srai f.rd f.rs1 sh)
    | _ => .error .minor
  | 2 => .ok (.slti f.rd f.rs1 f.immI) | 3 => .ok (.sltiu f.rd f.rs1 f.immI) | 4 => .ok (.xori f.rd f.rs1 f.immI)
  | 5 => .ok (.ori f.rd f.rs1 f.immI) | 6 => .ok (.andi f.rd f.rs1 f.immI) | _ => .ok (.addiw f.rd f.rs1 f.immI)

/-- OP (R208). -/
def decOp (f : Fields) : Except Illegal Instr :=
  if f.f3 ≠ 0#3 then .error .minor else
  match f.f7.toNat with
  | 0x00 => .ok (.add f.rd f.rs1 f.rs2)
  | 0x01 => .ok (.sub f.rd f.rs1 f.rs2)
  | 0x02 => .ok (.and f.rd f.rs1 f.rs2)
  | 0x03 => .ok (.or f.rd f.rs1 f.rs2)
  | 0x04 => .ok (.xor f.rd f.rs1 f.rs2)
  | 0x05 => .ok (.sll f.rd f.rs1 f.rs2)
  | 0x06 => .ok (.srl f.rd f.rs1 f.rs2)
  | 0x07 => .ok (.sra f.rd f.rs1 f.rs2)
  | 0x08 => .ok (.slt f.rd f.rs1 f.rs2)
  | 0x09 => .ok (.sltu f.rd f.rs1 f.rs2)
  | 0x0A => .ok (.min f.rd f.rs1 f.rs2)
  | 0x0B => .ok (.max f.rd f.rs1 f.rs2)
  | 0x0C => .ok (.minu f.rd f.rs1 f.rs2)
  | 0x0D => .ok (.maxu f.rd f.rs1 f.rs2)
  | 0x0E => .ok (.mul f.rd f.rs1 f.rs2)
  | 0x0F => .ok (.mulh f.rd f.rs1 f.rs2)
  | 0x10 => .ok (.mulhu f.rd f.rs1 f.rs2)
  | 0x11 => .ok (.div f.rd f.rs1 f.rs2)
  | 0x12 => .ok (.divu f.rd f.rs1 f.rs2)
  | 0x13 => .ok (.rem f.rd f.rs1 f.rs2)
  | 0x14 => .ok (.remu f.rd f.rs1 f.rs2)
  | 0x15 => .ok (.addw f.rd f.rs1 f.rs2)
  | 0x16 => .ok (.subw f.rd f.rs1 f.rs2)
  | 0x17 => .ok (.sllw f.rd f.rs1 f.rs2)
  | 0x18 => .ok (.srlw f.rd f.rs1 f.rs2)
  | 0x19 => .ok (.sraw f.rd f.rs1 f.rs2)
  | 0x1A => do zero f.rs2; .ok (.clz f.rd f.rs1)
  | 0x1B => do zero f.rs2; .ok (.ctz f.rd f.rs1)
  | 0x1C => do zero f.rs2; .ok (.cnt f.rd f.rs1)
  | 0x1D => .ok (.sel f.rd f.rs1 f.rs2)
  | _ => .error .minor

/-- BRANCH (R206). -/
def decBranch (f : Fields) : Except Illegal Instr :=
  match f.f3.toNat with
  | 0 => .ok (.beq f.rs1 f.rs2 f.immS) | 1 => .ok (.bne f.rs1 f.rs2 f.immS)
  | 4 => .ok (.blt f.rs1 f.rs2 f.immS) | 5 => .ok (.bge f.rs1 f.rs2 f.immS)
  | 6 => .ok (.bltu f.rs1 f.rs2 f.immS) | 7 => .ok (.bgeu f.rs1 f.rs2 f.immS) | _ => .error .minor

/-- PBRANCH (R209). -/
def decPBranch (f : Fields) : Except Illegal Instr := do
  let j ← reg2 f.rd
  match f.f3.toNat with
  | 0 => .ok (.pbr j f.immP)
  | 1 => zero f.f7; zero f.rs2; zero f.rs1; .ok (.bj j)
  | 2 => zero f.f7; zero f.rs2; .ok (.bjz j f.rs1)
  | 3 => zero f.f7; zero f.rs2; .ok (.bjnz j f.rs1)
  | _ => .error .minor

/-- LOOPS (R209). -/
def decLoops (f : Fields) : Except Illegal Instr :=
  match f.f3.toNat with
  | 0 => do zero (f.rd.extractLsb' 1 4); .ok (.loop (lvlOf f.rd) f.rs1 f.immI)
  | 1 => .ok (.loopi (lvlOf f.rd) (f.rd.extractLsb' 1 4 ++ f.rs1) f.immI)
  | 2 => do zero f.immI; zero f.rs1; zero (f.rd.extractLsb' 1 4); .ok (.lclr (lvlOf f.rd))
  | _ => .error .minor

/-- VMEM (R210). -/
def decVMem (f : Fields) : Except Illegal Instr :=
  let imm8 : BitVec 8 := f.vm ++ f.rs2
  match f.f4.toNat with
  | 0 => do .ok (.vld (← ltyOf f.f3) f.vm f.rd f.rs1 f.rs2)
  | 1 => do .ok (.vst (← ltyOf f.f3) f.vm f.rd f.rs1 f.rs2)
  | 2 => do .ok (.vlds (← ltyOf f.f3) f.vm f.rd f.rs1 f.rs2)
  | 3 => do .ok (.vsts (← ltyOf f.f3) f.vm f.rd f.rs1 f.rs2)
  | 4 => do .ok (.vgather (← ltyOf f.f3) f.vm f.rd f.rs1 f.rs2)
  | 5 => do .ok (.vscatter (← ltyOf f.f3) f.vm f.rd f.rs1 f.rs2)
  | 6 => do .ok (.vldb (← ltyOf f.f3) f.vm f.rd f.rs1 f.rs2)
  | 8 => do
    let y ← reg4 f.rd
    match f.f3.toNat with
    | 0 => .ok (.lbY y f.rs1 imm8) | 1 => .ok (.lhY y f.rs1 imm8) | 2 => .ok (.lwY y f.rs1 imm8)
    | 3 => .ok (.ldY y f.rs1 imm8) | 4 => .ok (.lbuY y f.rs1 imm8) | 5 => .ok (.lhuY y f.rs1 imm8)
    | 6 => .ok (.lwuY y f.rs1 imm8) | _ => .error .minor
  | 9 => do
    let y ← reg4 f.rd
    match f.f3.toNat with
    | 0 => .ok (.sbY y f.rs1 imm8) | 1 => .ok (.shY y f.rs1 imm8) | 2 => .ok (.swY y f.rs1 imm8)
    | 3 => .ok (.sdY y f.rs1 imm8) | _ => .error .minor
  | _ => .error .minor

/-- VINT (R211). -/
def decVInt (f : Fields) : Except Illegal Instr := do
  let ty ← ltyOf f.f3
  match f.f4.toNat with
  | 0 => .ok (.vadd ty f.vm f.rd f.rs1 f.rs2)
  | 1 => .ok (.vsub ty f.vm f.rd f.rs1 f.rs2)
  | 2 => .ok (.vmul ty f.vm f.rd f.rs1 f.rs2)
  | 3 => .ok (.vmulh ty f.vm f.rd f.rs1 f.rs2)
  | 4 => .ok (.vmin ty f.vm f.rd f.rs1 f.rs2)
  | 5 => .ok (.vmax ty f.vm f.rd f.rs1 f.rs2)
  | 6 => do zero f.rs2; .ok (.vabs ty f.vm f.rd f.rs1)
  | 7 => .ok (.vand ty f.vm f.rd f.rs1 f.rs2)
  | 8 => .ok (.vor ty f.vm f.rd f.rs1 f.rs2)
  | 9 => .ok (.vxor ty f.vm f.rd f.rs1 f.rs2)
  | 10 => .ok (.vsll ty f.vm f.rd f.rs1 f.rs2)
  | 11 => .ok (.vsrl ty f.vm f.rd f.rs1 f.rs2)
  | 12 => .ok (.vsra ty f.vm f.rd f.rs1 f.rs2)
  | 13 => do .ok (.vcmpeq ty f.vm (← reg3 f.rd) f.rs1 f.rs2)
  | 14 => do .ok (.vcmplt ty f.vm (← reg3 f.rd) f.rs1 f.rs2)
  | 15 => .ok (.vsel ty f.vm f.rd f.rs1 f.rs2)
  | _ => .error .minor

/-- VFLT (R211). -/
def decVFlt (f : Fields) : Except Illegal Instr := do
  let ty ← ltyOf f.f3
  match f.f4.toNat with
  | 0 => .ok (.vfadd ty f.vm f.rd f.rs1 f.rs2)
  | 1 => .ok (.vfsub ty f.vm f.rd f.rs1 f.rs2)
  | 2 => .ok (.vfmul ty f.vm f.rd f.rs1 f.rs2)
  | 3 => .ok (.vfma ty f.vm f.rd f.rs1 f.rs2)
  | 4 => .ok (.vfms ty f.vm f.rd f.rs1 f.rs2)
  | 5 => .ok (.vfmin ty f.vm f.rd f.rs1 f.rs2)
  | 6 => .ok (.vfmax ty f.vm f.rd f.rs1 f.rs2)
  | 7 => do zero f.rs2; .ok (.vfabs ty f.vm f.rd f.rs1)
  | 8 => do zero f.rs2; .ok (.vfneg ty f.vm f.rd f.rs1)
  | 9 => do .ok (.vfcmpeq ty f.vm (← reg3 f.rd) f.rs1 f.rs2)
  | 10 => do .ok (.vfcmplt ty f.vm (← reg3 f.rd) f.rs1 f.rs2)
  | 11 => do .ok (.vfcmple ty f.vm (← reg3 f.rd) f.rs1 f.rs2)
  | 12 => do zero f.rs2; .ok (.vrsqrt ty f.vm f.rd f.rs1)
  | 13 => do zero f.rs2; .ok (.vrecip ty f.vm f.rd f.rs1)
  | 14 => do zero f.rs2; .ok (.vsqrt ty f.vm f.rd f.rs1)
  | 15 => do zero f.rs2; .ok (.vexp2 ty f.vm f.rd f.rs1)
  | _ => .error .minor

/-- VPERM and VCVT (R212, R213). -/
def decVPerm (f : Fields) : Except Illegal Instr :=
  match f.f4.toNat with
  | 0 => do .ok (.vperm (← ltyOf f.f3) f.vm f.rd f.rs1 f.rs2)
  | 1 => do .ok (.vshuf (← ltyOf f.f3) f.vm f.rd f.rs1 f.rs2)
  | 2 => do .ok (.vbcast (← ltyOf f.f3) f.vm f.rd f.rs1 (← reg4 f.rs2))
  | 3 => do .ok (.vslideup (← ltyOf f.f3) f.vm f.rd f.rs1 (← reg4 f.rs2))
  | 4 => do .ok (.vslidedn (← ltyOf f.f3) f.vm f.rd f.rs1 (← reg4 f.rs2))
  | 5 => do .ok (.vzip (← ltyOf f.f3) f.vm f.rd f.rs1 f.rs2)
  | 6 => do .ok (.vunzip (← ltyOf f.f3) f.vm f.rd f.rs1 f.rs2)
  | 7 => do
    let d ← nfmtOf (f.vm ++ f.rs2.extractLsb' 4 1)
    let s ← nfmtOf (f.rs2.extractLsb' 0 4)
    .ok (.vcvt d s (rmOf (f.f3.extractLsb' 1 2)) (f.f3.getLsbD 0) f.rd f.rs1)
  | 8 => do .ok (.vpack (← ltyOf f.f3) f.vm f.rd f.rs1 f.rs2)
  | 9 => do
    zero (f.rs2.extractLsb' 1 4)
    .ok (.vwiden (← ltyOf f.f3) f.vm f.rd f.rs1 (f.rs2.getLsbD 0))
  | _ => .error .minor

/-- A mask form of VMISC carries type 111 (R214). -/
def type7 (f : Fields) : Except Illegal Unit := if f.f3 = 7#3 then .ok () else .error .minor

/-- VMISC (R214). -/
def decVMisc (f : Fields) : Except Illegal Instr :=
  match f.f4.toNat with
  | 0 => do zero f.rs2; .ok (.vredsum (← ltyOf f.f3) f.vm f.rd f.rs1)
  | 1 => do zero f.rs2; .ok (.vredmax (← ltyOf f.f3) f.vm f.rd f.rs1)
  | 2 => do zero f.rs2; .ok (.vredmin (← ltyOf f.f3) f.vm f.rd f.rs1)
  | 3 => do zero f.vm; .ok (.vinsy (← ltyOf f.f3) f.rd (← reg4 f.rs1) (← reg4 f.rs2))
  | 4 => do zero f.vm; .ok (.vexty (← ltyOf f.f3) (← reg4 f.rd) f.rs1 (← reg4 f.rs2))
  | 5 => do zero f.rs2; .ok (.vsplat (← ltyOf f.f3) f.vm f.rd (← reg4 f.rs1))
  | 6 => do type7 f; zero f.vm; .ok (.mand (← reg3 f.rd) (← reg3 f.rs1) (← reg3 f.rs2))
  | 7 => do type7 f; zero f.vm; .ok (.mor (← reg3 f.rd) (← reg3 f.rs1) (← reg3 f.rs2))
  | 8 => do type7 f; zero f.vm; .ok (.mxor (← reg3 f.rd) (← reg3 f.rs1) (← reg3 f.rs2))
  | 9 => do type7 f; zero f.vm; zero f.rs2; .ok (.mnot (← reg3 f.rd) (← reg3 f.rs1))
  | 10 => do type7 f; zero f.vm; zero f.rs2; .ok (.mpop (← reg4 f.rd) (← reg3 f.rs1))
  | 11 => do type7 f; zero f.vm; zero f.rs2; .ok (.mfirst (← reg4 f.rd) (← reg3 f.rs1))
  | _ => .error .minor

/-- SFLT (R215). -/
def decSFlt (f : Fields) : Except Illegal Instr := do
  let ty ← ltyOf f.f3
  let d ← reg4 f.rd
  let a ← reg4 f.rs1
  match f.f4.toNat with
  | 0 => zero f.vm; .ok (.fadd ty d a (← reg4 f.rs2))
  | 1 => zero f.vm; .ok (.fsub ty d a (← reg4 f.rs2))
  | 2 => zero f.vm; .ok (.fmul ty d a (← reg4 f.rs2))
  | 3 => zero f.vm; .ok (.fdiv ty d a (← reg4 f.rs2))
  | 4 => zero f.vm; zero f.rs2; .ok (.fsqrt ty d a)
  | 5 => zero f.vm; .ok (.fmin ty d a (← reg4 f.rs2))
  | 6 => zero f.vm; .ok (.fmax ty d a (← reg4 f.rs2))
  | 7 => zero f.vm; .ok (.fmadd ty d a (← reg4 f.rs2))
  | 8 =>
    match f.vm.toNat with
    | 0 => .ok (.fcmp ty .eq d a (← reg4 f.rs2))
    | 1 => .ok (.fcmp ty .lt d a (← reg4 f.rs2))
    | 2 => .ok (.fcmp ty .le d a (← reg4 f.rs2))
    | _ => .error .minor
  | 9 =>
    zero (f.vm.extractLsb' 0 2)
    .ok (.fcvt ty (← ltyOf (f.rs2.extractLsb' 2 3)) (rmOf (f.rs2.extractLsb' 0 2)) (f.vm.getLsbD 2) d a)
  | 10 => zero f.vm; zero f.rs2; .ok (.fclass ty d a)
  | _ => .error .minor

/-- MATRIX (R216). -/
def decMatrix (f : Fields) : Except Illegal Instr :=
  match f.f7.toNat with
  | 0 => do zero f.f3; zero f.rd; zero f.rs2; .ok (.mcfg (← reg4 f.rs1))
  | 1 => do zero f.f3; zero f.rd; .ok (.mldb (← reg4 f.rs1) (← reg4 f.rs2))
  | 2 => do zero f.f3; .ok (.mma (← reg3 f.rd) (← reg4 f.rs1) (← reg4 f.rs2))
  | 3 => do zero f.f3; zero f.rd; zero f.rs1; zero f.rs2; .ok .mrot
  | 4 => do zero f.f3; zero f.rd; .ok (.mscale (← reg4 f.rs1) (← reg4 f.rs2))
  | 5 => do zero (f.f3.extractLsb' 1 2); zero f.rs1; zero f.rs2; .ok (.mzero (← reg3 f.rd) (f.f3.getLsbD 0))
  | 6 => do zero f.f3; .ok (.mrdacc (← reg3 f.rd) (← reg4 f.rs1) (← reg4 f.rs2))
  | 7 => do zero f.f3; .ok (.mwracc (← reg3 f.rd) (← reg4 f.rs1) (← reg4 f.rs2))
  | 8 => do zero f.f3; zero f.rd; zero f.rs2; .ok (.mcmd (← reg4 f.rs1))
  | 9 => do zero f.f3; zero f.rs1; zero f.rs2; .ok (.mstat (← reg4 f.rd))
  | _ => .error .minor

/-- ENVELOPE (R216). -/
def decEnvelope (f : Fields) : Except Illegal Instr := do
  zero f.f3
  match f.f7.toNat with
  | 0 => zero f.rs1; zero f.rs2; .ok (.eclr (← reg3 f.rd))
  | 1 => .ok (.eins (← reg3 f.rd) (← reg4 f.rs1) (← reg4 f.rs2))
  | 2 => .ok (.eld (← reg3 f.rd) (← reg4 f.rs1) (← reg4 f.rs2))
  | 3 => zero f.rd; .ok (.est (← reg3 f.rs2) (← reg4 f.rs1))
  | 4 => .ok (.emax (← reg3 f.rd) (← reg3 f.rs1) (← reg3 f.rs2))
  | 5 => .ok (.eadd (← reg3 f.rd) (← reg3 f.rs1) (← reg3 f.rs2))
  | 6 => .ok (.einf (← reg3 f.rd) (← reg3 f.rs1) (← reg3 f.rs2))
  | 7 => zero f.rs2; .ok (.econj (← reg3 f.rd) (← reg3 f.rs1))
  | 8 => .ok (.eeval (← reg4 f.rd) (← reg3 f.rs1) (← reg4 f.rs2))
  | 9 => zero f.rs2; .ok (.ecnt (← reg4 f.rd) (← reg3 f.rs1))
  | _ => .error .minor

/-- SCAN (R216). -/
def decScan (f : Fields) : Except Illegal Instr := do
  zero f.f3
  match f.f7.toNat with
  | 0 => zero f.rd; zero f.rs2; .ok (.scfg (← reg4 f.rs1))
  | 1 => zero f.rd; .ok (.slocal (← reg4 f.rs1) (← reg4 f.rs2))
  | 2 => zero f.rd; zero f.rs2; .ok (.spass (← reg4 f.rs1))
  | 3 => zero f.rd; .ok (.sapply (← reg4 f.rs1) (← reg4 f.rs2))
  | 4 => zero f.rd; zero f.rs1; zero f.rs2; .ok .sclose
  | 5 => zero f.rs1; zero f.rs2; .ok (.swait f.rd)
  | _ => .error .minor

/-- MESSAGE (R217). -/
def decMessage (f : Fields) : Except Illegal Instr := do
  zero f.f7
  match f.f3.toNat with
  | 0 => zero f.rd; .ok (.sndh f.rs1 f.rs2)
  | 1 => zero f.rd; .ok (.snd f.rs1 f.rs2)
  | 2 => zero f.rs1; .ok (.rcv f.rd (← reg2 f.rs2))
  | 3 => zero f.rs1; .ok (.rcvn f.rd (← reg2 f.rs2))
  | 4 => zero f.rd; zero f.rs1; zero f.rs2; .ok .wmsg
  | 5 => zero f.rs1; .ok (.mbxpop f.rd f.rs2)
  | _ => .error .minor

/-- COPY (R217). -/
def decCopy (f : Fields) : Except Illegal Instr := do
  zero f.f7; zero f.rs2
  match f.f3.toNat with
  | 0 => .ok (.cpset (← reg3 f.rd) f.rs1)
  | 1 => zero f.rs1; .ok (.cplaunch f.rd)
  | 2 => .ok (.cpstat f.rd f.rs1)
  | _ => .error .minor

/-- SYNC (R217). -/
def decSync (f : Fields) : Except Illegal Instr := do
  zero f.f7
  match f.f3.toNat with
  | 0 => zero f.rd; zero f.rs1; zero f.rs2; .ok .wait
  | 1 => zero f.rs2; .ok (.waitv f.rd f.rs1)
  | 2 => zero f.rs1; zero (f.rs2.extractLsb' 4 1); .ok (.fence f.rd (f.rs2.extractLsb' 0 4))
  | 3 => zero f.rd; zero f.rs2; .ok (.fwait f.rs1)
  | _ => .error .minor

/-- The width field of ATOMIC (R218). -/
def awOf (b : BitVec 3) : Except Illegal AWidth :=
  match b.toNat with
  | 2 => .ok .w32 | 3 => .ok .w64 | _ => .error .minor

/-- ATOMIC (R218). -/
def decAtomic (f : Fields) : Except Illegal Instr := do
  let w ← awOf f.f3
  match f.f7.toNat with
  | 0 => .ok (.amoadd w f.rd f.rs1 f.rs2)
  | 1 => .ok (.amoand w f.rd f.rs1 f.rs2)
  | 2 => .ok (.amoor w f.rd f.rs1 f.rs2)
  | 3 => .ok (.amoxor w f.rd f.rs1 f.rs2)
  | 4 => .ok (.amomin w f.rd f.rs1 f.rs2)
  | 5 => .ok (.amomax w f.rd f.rs1 f.rs2)
  | 6 => .ok (.amoswap w f.rd f.rs1 f.rs2)
  | 7 => .ok (.amocas w f.rd f.rs1 f.rs2)
  | 8 => .ok (.damoadd w f.rd f.rs1 f.rs2)
  | 9 => .ok (.damomin w f.rd f.rs1 f.rs2)
  | 10 => .ok (.damomax w f.rd f.rs1 f.rs2)
  | _ => .error .minor

/-- TASK (R217). -/
def decTask (f : Fields) : Except Illegal Instr := do
  zero f.f7; zero f.rs1; zero f.rs2
  match f.f3.toNat with
  | 0 => .ok (.next f.rd)
  | 1 => zero f.rd; .ok .tdone
  | _ => .error .minor

/-- The scalar register of MFS and MTS, of the class its slice marker gives (R219). -/
def scalarOf (s : BitVec 1) (b : BitVec 5) : Except Illegal Scalar :=
  if s = 0#1 then .ok (.x b) else do .ok (.y (← reg4 b))

/-- SYSTEM (R219). -/
def decSystem (f : Fields) : Except Illegal Instr :=
  match f.f3.toNat with
  | 0 => do zero f.rs1; .ok (.mfs (← scalarOf f.s f.rd) f.immI)
  | 1 => do zero f.rd; .ok (.mts f.immI (← scalarOf f.s f.rs1))
  | 7 => do slice f 0#1; zero f.immI; zero f.rd; .ok (.frameinv f.rs1)
  | k => do
    slice f 0#1; zero f.immI; zero f.rd; zero f.rs1
    match k with
    | 2 => .ok .ecall | 3 => .ok .eret | 4 => .ok .brk | 5 => .ok .idle | _ => .ok .halt

/-- The group of MAJ, with the slice marker its group allows (R205). -/
def decodeFields (f : Fields) : Except Illegal Instr :=
  match f.maj.toNat with
  | 0x01 => do slice f 0#1; decLoad f
  | 0x02 => do slice f 0#1; decStore f
  | 0x03 => do slice f 0#1; decOpImm f
  | 0x04 => do slice f 0#1; decOp f
  | 0x05 => do slice f 0#1; .ok (.lui f.rd f.immU)
  | 0x06 => do slice f 0#1; .ok (.auipc f.rd f.immU)
  | 0x07 => do slice f 0#1; decBranch f
  | 0x08 => do slice f 0#1; .ok (.jal f.rd f.immU)
  | 0x09 => do slice f 0#1; if f.f3 = 0#3 then .ok (.jalr f.rd f.rs1 f.immI) else .error .minor
  | 0x0A => do slice f 0#1; decPBranch f
  | 0x0B => do slice f 0#1; decLoops f
  | 0x0C => do slice f 0#1; decVMem f
  | 0x0D => do slice f 1#1; decVInt f
  | 0x0E => do slice f 1#1; decVFlt f
  | 0x0F => do slice f 1#1; decVPerm f
  | 0x10 => do slice f 1#1; decVMisc f
  | 0x11 => do slice f 1#1; decSFlt f
  | 0x12 => do slice f 1#1; decMatrix f
  | 0x13 => do slice f 1#1; decEnvelope f
  | 0x14 => do slice f 1#1; decScan f
  | 0x15 => do slice f 0#1; decMessage f
  | 0x16 => do slice f 0#1; decCopy f
  | 0x17 => do slice f 0#1; decSync f
  | 0x18 => do slice f 0#1; decAtomic f
  | 0x19 => do slice f 0#1; decTask f
  | 0x1A => decSystem f
  | _ => .error .major

/-- The instruction of a word, or why it is none (R220). -/
def decode (w : IWord) : Except Illegal Instr := do
  let i ← decodeFields (Fields.unpack w)
  if i.wf then .ok i else .error .form

/-- The fields of an instruction word (R201 to R219); an event has none. -/
def encodeFields : Instr → Option Fields
  | .lb rd rs1 imm => some ⟨hi7 imm, lo5 imm, rs1, 0#3, rd, 0#1, 0x01#6⟩
  | .lh rd rs1 imm => some ⟨hi7 imm, lo5 imm, rs1, 1#3, rd, 0#1, 0x01#6⟩
  | .lw rd rs1 imm => some ⟨hi7 imm, lo5 imm, rs1, 2#3, rd, 0#1, 0x01#6⟩
  | .ld rd rs1 imm => some ⟨hi7 imm, lo5 imm, rs1, 3#3, rd, 0#1, 0x01#6⟩
  | .lbu rd rs1 imm => some ⟨hi7 imm, lo5 imm, rs1, 4#3, rd, 0#1, 0x01#6⟩
  | .lhu rd rs1 imm => some ⟨hi7 imm, lo5 imm, rs1, 5#3, rd, 0#1, 0x01#6⟩
  | .lwu rd rs1 imm => some ⟨hi7 imm, lo5 imm, rs1, 6#3, rd, 0#1, 0x01#6⟩
  | .sb rs2 rs1 imm => some ⟨hi7 imm, rs2, rs1, 0#3, lo5 imm, 0#1, 0x02#6⟩
  | .sh rs2 rs1 imm => some ⟨hi7 imm, rs2, rs1, 1#3, lo5 imm, 0#1, 0x02#6⟩
  | .sw rs2 rs1 imm => some ⟨hi7 imm, rs2, rs1, 2#3, lo5 imm, 0#1, 0x02#6⟩
  | .sd rs2 rs1 imm => some ⟨hi7 imm, rs2, rs1, 3#3, lo5 imm, 0#1, 0x02#6⟩
  | .lbY yd rs1 imm => some ⟨8#4 ++ imm.extractLsb' 5 3, imm.extractLsb' 0 5, rs1, 0#3, y5 yd, 0#1, 0x0C#6⟩
  | .lhY yd rs1 imm => some ⟨8#4 ++ imm.extractLsb' 5 3, imm.extractLsb' 0 5, rs1, 1#3, y5 yd, 0#1, 0x0C#6⟩
  | .lwY yd rs1 imm => some ⟨8#4 ++ imm.extractLsb' 5 3, imm.extractLsb' 0 5, rs1, 2#3, y5 yd, 0#1, 0x0C#6⟩
  | .ldY yd rs1 imm => some ⟨8#4 ++ imm.extractLsb' 5 3, imm.extractLsb' 0 5, rs1, 3#3, y5 yd, 0#1, 0x0C#6⟩
  | .lbuY yd rs1 imm => some ⟨8#4 ++ imm.extractLsb' 5 3, imm.extractLsb' 0 5, rs1, 4#3, y5 yd, 0#1, 0x0C#6⟩
  | .lhuY yd rs1 imm => some ⟨8#4 ++ imm.extractLsb' 5 3, imm.extractLsb' 0 5, rs1, 5#3, y5 yd, 0#1, 0x0C#6⟩
  | .lwuY yd rs1 imm => some ⟨8#4 ++ imm.extractLsb' 5 3, imm.extractLsb' 0 5, rs1, 6#3, y5 yd, 0#1, 0x0C#6⟩
  | .sbY yd rs1 imm => some ⟨9#4 ++ imm.extractLsb' 5 3, imm.extractLsb' 0 5, rs1, 0#3, y5 yd, 0#1, 0x0C#6⟩
  | .shY yd rs1 imm => some ⟨9#4 ++ imm.extractLsb' 5 3, imm.extractLsb' 0 5, rs1, 1#3, y5 yd, 0#1, 0x0C#6⟩
  | .swY yd rs1 imm => some ⟨9#4 ++ imm.extractLsb' 5 3, imm.extractLsb' 0 5, rs1, 2#3, y5 yd, 0#1, 0x0C#6⟩
  | .sdY yd rs1 imm => some ⟨9#4 ++ imm.extractLsb' 5 3, imm.extractLsb' 0 5, rs1, 3#3, y5 yd, 0#1, 0x0C#6⟩
  | .addi rd rs1 imm => some ⟨hi7 imm, lo5 imm, rs1, 0#3, rd, 0#1, 0x03#6⟩
  | .slli rd rs1 sh => some ⟨0#6 ++ sh.extractLsb' 5 1, sh.extractLsb' 0 5, rs1, 1#3, rd, 0#1, 0x03#6⟩
  | .srli rd rs1 sh => some ⟨1#6 ++ sh.extractLsb' 5 1, sh.extractLsb' 0 5, rs1, 1#3, rd, 0#1, 0x03#6⟩
  | .srai rd rs1 sh => some ⟨2#6 ++ sh.extractLsb' 5 1, sh.extractLsb' 0 5, rs1, 1#3, rd, 0#1, 0x03#6⟩
  | .slti rd rs1 imm => some ⟨hi7 imm, lo5 imm, rs1, 2#3, rd, 0#1, 0x03#6⟩
  | .sltiu rd rs1 imm => some ⟨hi7 imm, lo5 imm, rs1, 3#3, rd, 0#1, 0x03#6⟩
  | .xori rd rs1 imm => some ⟨hi7 imm, lo5 imm, rs1, 4#3, rd, 0#1, 0x03#6⟩
  | .ori rd rs1 imm => some ⟨hi7 imm, lo5 imm, rs1, 5#3, rd, 0#1, 0x03#6⟩
  | .andi rd rs1 imm => some ⟨hi7 imm, lo5 imm, rs1, 6#3, rd, 0#1, 0x03#6⟩
  | .addiw rd rs1 imm => some ⟨hi7 imm, lo5 imm, rs1, 7#3, rd, 0#1, 0x03#6⟩
  | .add rd rs1 rs2 => some ⟨0x00#7, rs2, rs1, 0#3, rd, 0#1, 0x04#6⟩
  | .sub rd rs1 rs2 => some ⟨0x01#7, rs2, rs1, 0#3, rd, 0#1, 0x04#6⟩
  | .and rd rs1 rs2 => some ⟨0x02#7, rs2, rs1, 0#3, rd, 0#1, 0x04#6⟩
  | .or rd rs1 rs2 => some ⟨0x03#7, rs2, rs1, 0#3, rd, 0#1, 0x04#6⟩
  | .xor rd rs1 rs2 => some ⟨0x04#7, rs2, rs1, 0#3, rd, 0#1, 0x04#6⟩
  | .sll rd rs1 rs2 => some ⟨0x05#7, rs2, rs1, 0#3, rd, 0#1, 0x04#6⟩
  | .srl rd rs1 rs2 => some ⟨0x06#7, rs2, rs1, 0#3, rd, 0#1, 0x04#6⟩
  | .sra rd rs1 rs2 => some ⟨0x07#7, rs2, rs1, 0#3, rd, 0#1, 0x04#6⟩
  | .slt rd rs1 rs2 => some ⟨0x08#7, rs2, rs1, 0#3, rd, 0#1, 0x04#6⟩
  | .sltu rd rs1 rs2 => some ⟨0x09#7, rs2, rs1, 0#3, rd, 0#1, 0x04#6⟩
  | .min rd rs1 rs2 => some ⟨0x0A#7, rs2, rs1, 0#3, rd, 0#1, 0x04#6⟩
  | .max rd rs1 rs2 => some ⟨0x0B#7, rs2, rs1, 0#3, rd, 0#1, 0x04#6⟩
  | .minu rd rs1 rs2 => some ⟨0x0C#7, rs2, rs1, 0#3, rd, 0#1, 0x04#6⟩
  | .maxu rd rs1 rs2 => some ⟨0x0D#7, rs2, rs1, 0#3, rd, 0#1, 0x04#6⟩
  | .mul rd rs1 rs2 => some ⟨0x0E#7, rs2, rs1, 0#3, rd, 0#1, 0x04#6⟩
  | .mulh rd rs1 rs2 => some ⟨0x0F#7, rs2, rs1, 0#3, rd, 0#1, 0x04#6⟩
  | .mulhu rd rs1 rs2 => some ⟨0x10#7, rs2, rs1, 0#3, rd, 0#1, 0x04#6⟩
  | .div rd rs1 rs2 => some ⟨0x11#7, rs2, rs1, 0#3, rd, 0#1, 0x04#6⟩
  | .divu rd rs1 rs2 => some ⟨0x12#7, rs2, rs1, 0#3, rd, 0#1, 0x04#6⟩
  | .rem rd rs1 rs2 => some ⟨0x13#7, rs2, rs1, 0#3, rd, 0#1, 0x04#6⟩
  | .remu rd rs1 rs2 => some ⟨0x14#7, rs2, rs1, 0#3, rd, 0#1, 0x04#6⟩
  | .addw rd rs1 rs2 => some ⟨0x15#7, rs2, rs1, 0#3, rd, 0#1, 0x04#6⟩
  | .subw rd rs1 rs2 => some ⟨0x16#7, rs2, rs1, 0#3, rd, 0#1, 0x04#6⟩
  | .sllw rd rs1 rs2 => some ⟨0x17#7, rs2, rs1, 0#3, rd, 0#1, 0x04#6⟩
  | .srlw rd rs1 rs2 => some ⟨0x18#7, rs2, rs1, 0#3, rd, 0#1, 0x04#6⟩
  | .sraw rd rs1 rs2 => some ⟨0x19#7, rs2, rs1, 0#3, rd, 0#1, 0x04#6⟩
  | .clz rd rs1 => some ⟨0x1A#7, 0#5, rs1, 0#3, rd, 0#1, 0x04#6⟩
  | .ctz rd rs1 => some ⟨0x1B#7, 0#5, rs1, 0#3, rd, 0#1, 0x04#6⟩
  | .cnt rd rs1 => some ⟨0x1C#7, 0#5, rs1, 0#3, rd, 0#1, 0x04#6⟩
  | .sel rd rs1 rs2 => some ⟨0x1D#7, rs2, rs1, 0#3, rd, 0#1, 0x04#6⟩
  | .lui rd imm => some ⟨imm.extractLsb' 13 7, imm.extractLsb' 8 5, imm.extractLsb' 3 5, imm.extractLsb' 0 3, rd, 0#1, 0x05#6⟩
  | .auipc rd imm => some ⟨imm.extractLsb' 13 7, imm.extractLsb' 8 5, imm.extractLsb' 3 5, imm.extractLsb' 0 3, rd, 0#1, 0x06#6⟩
  | .beq rs1 rs2 off => some ⟨hi7 off, rs2, rs1, 0#3, lo5 off, 0#1, 0x07#6⟩
  | .bne rs1 rs2 off => some ⟨hi7 off, rs2, rs1, 1#3, lo5 off, 0#1, 0x07#6⟩
  | .blt rs1 rs2 off => some ⟨hi7 off, rs2, rs1, 4#3, lo5 off, 0#1, 0x07#6⟩
  | .bge rs1 rs2 off => some ⟨hi7 off, rs2, rs1, 5#3, lo5 off, 0#1, 0x07#6⟩
  | .bltu rs1 rs2 off => some ⟨hi7 off, rs2, rs1, 6#3, lo5 off, 0#1, 0x07#6⟩
  | .bgeu rs1 rs2 off => some ⟨hi7 off, rs2, rs1, 7#3, lo5 off, 0#1, 0x07#6⟩
  | .jal rd off => some ⟨off.extractLsb' 13 7, off.extractLsb' 8 5, off.extractLsb' 3 5, off.extractLsb' 0 3, rd, 0#1, 0x08#6⟩
  | .jalr rd rs1 imm => some ⟨hi7 imm, lo5 imm, rs1, 0#3, rd, 0#1, 0x09#6⟩
  | .pbr jd off => some ⟨off.extractLsb' 10 7, off.extractLsb' 5 5, off.extractLsb' 0 5, 0#3, j5 jd, 0#1, 0x0A#6⟩
  | .bj js => some ⟨0#7, 0#5, 0#5, 1#3, j5 js, 0#1, 0x0A#6⟩
  | .bjz js rs1 => some ⟨0#7, 0#5, rs1, 2#3, j5 js, 0#1, 0x0A#6⟩
  | .bjnz js rs1 => some ⟨0#7, 0#5, rs1, 3#3, j5 js, 0#1, 0x0A#6⟩
  | .loop lvl rs1 fin => some ⟨hi7 fin, lo5 fin, rs1, 0#3, 0#4 ++ lvl.code, 0#1, 0x0B#6⟩
  | .loopi lvl cnt fin => some ⟨hi7 fin, lo5 fin, cnt.extractLsb' 0 5, 1#3, cnt.extractLsb' 5 4 ++ lvl.code, 0#1, 0x0B#6⟩
  | .lclr lvl => some ⟨0#7, 0#5, 0#5, 2#3, 0#4 ++ lvl.code, 0#1, 0x0B#6⟩
  | .vld ty vm vd rs1 imm => some ⟨0#4 ++ vm, imm, rs1, ty.code, vd, 0#1, 0x0C#6⟩
  | .vst ty vm vd rs1 imm => some ⟨1#4 ++ vm, imm, rs1, ty.code, vd, 0#1, 0x0C#6⟩
  | .vlds ty vm vd rs1 rs2 => some ⟨2#4 ++ vm, rs2, rs1, ty.code, vd, 0#1, 0x0C#6⟩
  | .vsts ty vm vd rs1 rs2 => some ⟨3#4 ++ vm, rs2, rs1, ty.code, vd, 0#1, 0x0C#6⟩
  | .vgather ty vm vd rs1 vs2 => some ⟨4#4 ++ vm, vs2, rs1, ty.code, vd, 0#1, 0x0C#6⟩
  | .vscatter ty vm vd rs1 vs2 => some ⟨5#4 ++ vm, vs2, rs1, ty.code, vd, 0#1, 0x0C#6⟩
  | .vldb ty vm vd rs1 imm => some ⟨6#4 ++ vm, imm, rs1, ty.code, vd, 0#1, 0x0C#6⟩
  | .vadd ty vm vd vs1 vs2 => some ⟨0#4 ++ vm, vs2, vs1, ty.code, vd, 1#1, 0x0D#6⟩
  | .vsub ty vm vd vs1 vs2 => some ⟨1#4 ++ vm, vs2, vs1, ty.code, vd, 1#1, 0x0D#6⟩
  | .vmul ty vm vd vs1 vs2 => some ⟨2#4 ++ vm, vs2, vs1, ty.code, vd, 1#1, 0x0D#6⟩
  | .vmulh ty vm vd vs1 vs2 => some ⟨3#4 ++ vm, vs2, vs1, ty.code, vd, 1#1, 0x0D#6⟩
  | .vmin ty vm vd vs1 vs2 => some ⟨4#4 ++ vm, vs2, vs1, ty.code, vd, 1#1, 0x0D#6⟩
  | .vmax ty vm vd vs1 vs2 => some ⟨5#4 ++ vm, vs2, vs1, ty.code, vd, 1#1, 0x0D#6⟩
  | .vabs ty vm vd vs1 => some ⟨6#4 ++ vm, 0#5, vs1, ty.code, vd, 1#1, 0x0D#6⟩
  | .vand ty vm vd vs1 vs2 => some ⟨7#4 ++ vm, vs2, vs1, ty.code, vd, 1#1, 0x0D#6⟩
  | .vor ty vm vd vs1 vs2 => some ⟨8#4 ++ vm, vs2, vs1, ty.code, vd, 1#1, 0x0D#6⟩
  | .vxor ty vm vd vs1 vs2 => some ⟨9#4 ++ vm, vs2, vs1, ty.code, vd, 1#1, 0x0D#6⟩
  | .vsll ty vm vd vs1 vs2 => some ⟨10#4 ++ vm, vs2, vs1, ty.code, vd, 1#1, 0x0D#6⟩
  | .vsrl ty vm vd vs1 vs2 => some ⟨11#4 ++ vm, vs2, vs1, ty.code, vd, 1#1, 0x0D#6⟩
  | .vsra ty vm vd vs1 vs2 => some ⟨12#4 ++ vm, vs2, vs1, ty.code, vd, 1#1, 0x0D#6⟩
  | .vcmpeq ty vm md vs1 vs2 => some ⟨13#4 ++ vm, vs2, vs1, ty.code, m5 md, 1#1, 0x0D#6⟩
  | .vcmplt ty vm md vs1 vs2 => some ⟨14#4 ++ vm, vs2, vs1, ty.code, m5 md, 1#1, 0x0D#6⟩
  | .vsel ty vm vd vs1 vs2 => some ⟨15#4 ++ vm, vs2, vs1, ty.code, vd, 1#1, 0x0D#6⟩
  | .vfadd ty vm vd vs1 vs2 => some ⟨0#4 ++ vm, vs2, vs1, ty.code, vd, 1#1, 0x0E#6⟩
  | .vfsub ty vm vd vs1 vs2 => some ⟨1#4 ++ vm, vs2, vs1, ty.code, vd, 1#1, 0x0E#6⟩
  | .vfmul ty vm vd vs1 vs2 => some ⟨2#4 ++ vm, vs2, vs1, ty.code, vd, 1#1, 0x0E#6⟩
  | .vfma ty vm vd vs1 vs2 => some ⟨3#4 ++ vm, vs2, vs1, ty.code, vd, 1#1, 0x0E#6⟩
  | .vfms ty vm vd vs1 vs2 => some ⟨4#4 ++ vm, vs2, vs1, ty.code, vd, 1#1, 0x0E#6⟩
  | .vfmin ty vm vd vs1 vs2 => some ⟨5#4 ++ vm, vs2, vs1, ty.code, vd, 1#1, 0x0E#6⟩
  | .vfmax ty vm vd vs1 vs2 => some ⟨6#4 ++ vm, vs2, vs1, ty.code, vd, 1#1, 0x0E#6⟩
  | .vfabs ty vm vd vs1 => some ⟨7#4 ++ vm, 0#5, vs1, ty.code, vd, 1#1, 0x0E#6⟩
  | .vfneg ty vm vd vs1 => some ⟨8#4 ++ vm, 0#5, vs1, ty.code, vd, 1#1, 0x0E#6⟩
  | .vfcmpeq ty vm md vs1 vs2 => some ⟨9#4 ++ vm, vs2, vs1, ty.code, m5 md, 1#1, 0x0E#6⟩
  | .vfcmplt ty vm md vs1 vs2 => some ⟨10#4 ++ vm, vs2, vs1, ty.code, m5 md, 1#1, 0x0E#6⟩
  | .vfcmple ty vm md vs1 vs2 => some ⟨11#4 ++ vm, vs2, vs1, ty.code, m5 md, 1#1, 0x0E#6⟩
  | .vrsqrt ty vm vd vs1 => some ⟨12#4 ++ vm, 0#5, vs1, ty.code, vd, 1#1, 0x0E#6⟩
  | .vrecip ty vm vd vs1 => some ⟨13#4 ++ vm, 0#5, vs1, ty.code, vd, 1#1, 0x0E#6⟩
  | .vsqrt ty vm vd vs1 => some ⟨14#4 ++ vm, 0#5, vs1, ty.code, vd, 1#1, 0x0E#6⟩
  | .vexp2 ty vm vd vs1 => some ⟨15#4 ++ vm, 0#5, vs1, ty.code, vd, 1#1, 0x0E#6⟩
  | .vperm ty vm vd vs1 vs2 => some ⟨0#4 ++ vm, vs2, vs1, ty.code, vd, 1#1, 0x0F#6⟩
  | .vshuf ty vm vd vs1 vs2 => some ⟨1#4 ++ vm, vs2, vs1, ty.code, vd, 1#1, 0x0F#6⟩
  | .vbcast ty vm vd vs1 ys2 => some ⟨2#4 ++ vm, y5 ys2, vs1, ty.code, vd, 1#1, 0x0F#6⟩
  | .vslideup ty vm vd vs1 ys2 => some ⟨3#4 ++ vm, y5 ys2, vs1, ty.code, vd, 1#1, 0x0F#6⟩
  | .vslidedn ty vm vd vs1 ys2 => some ⟨4#4 ++ vm, y5 ys2, vs1, ty.code, vd, 1#1, 0x0F#6⟩
  | .vzip ty vm vd vs1 vs2 => some ⟨5#4 ++ vm, vs2, vs1, ty.code, vd, 1#1, 0x0F#6⟩
  | .vunzip ty vm vd vs1 vs2 => some ⟨6#4 ++ vm, vs2, vs1, ty.code, vd, 1#1, 0x0F#6⟩
  | .vcvt dst src rm sat vd vs1 => some ⟨7#4 ++ dst.code.extractLsb' 1 3, dst.code.extractLsb' 0 1 ++ src.code, vs1, rm.code ++ b1 sat, vd, 1#1, 0x0F#6⟩
  | .vpack ty vm vd vs1 vs2 => some ⟨8#4 ++ vm, vs2, vs1, ty.code, vd, 1#1, 0x0F#6⟩
  | .vwiden ty vm vd vs1 half => some ⟨9#4 ++ vm, 0#4 ++ b1 half, vs1, ty.code, vd, 1#1, 0x0F#6⟩
  | .vredsum ty vm vd vs1 => some ⟨0#4 ++ vm, 0#5, vs1, ty.code, vd, 1#1, 0x10#6⟩
  | .vredmax ty vm vd vs1 => some ⟨1#4 ++ vm, 0#5, vs1, ty.code, vd, 1#1, 0x10#6⟩
  | .vredmin ty vm vd vs1 => some ⟨2#4 ++ vm, 0#5, vs1, ty.code, vd, 1#1, 0x10#6⟩
  | .vinsy ty vd ys1 ys2 => some ⟨3#4 ++ 0#3, y5 ys2, y5 ys1, ty.code, vd, 1#1, 0x10#6⟩
  | .vexty ty yd vs1 ys2 => some ⟨4#4 ++ 0#3, y5 ys2, vs1, ty.code, y5 yd, 1#1, 0x10#6⟩
  | .vsplat ty vm vd ys1 => some ⟨5#4 ++ vm, 0#5, y5 ys1, ty.code, vd, 1#1, 0x10#6⟩
  | .mand md ms1 ms2 => some ⟨6#4 ++ 0#3, m5 ms2, m5 ms1, 7#3, m5 md, 1#1, 0x10#6⟩
  | .mor md ms1 ms2 => some ⟨7#4 ++ 0#3, m5 ms2, m5 ms1, 7#3, m5 md, 1#1, 0x10#6⟩
  | .mxor md ms1 ms2 => some ⟨8#4 ++ 0#3, m5 ms2, m5 ms1, 7#3, m5 md, 1#1, 0x10#6⟩
  | .mnot md ms1 => some ⟨9#4 ++ 0#3, 0#5, m5 ms1, 7#3, m5 md, 1#1, 0x10#6⟩
  | .mpop yd ms1 => some ⟨10#4 ++ 0#3, 0#5, m5 ms1, 7#3, y5 yd, 1#1, 0x10#6⟩
  | .mfirst yd ms1 => some ⟨11#4 ++ 0#3, 0#5, m5 ms1, 7#3, y5 yd, 1#1, 0x10#6⟩
  | .fadd ty yd ys1 ys2 => some ⟨0#4 ++ 0#3, y5 ys2, y5 ys1, ty.code, y5 yd, 1#1, 0x11#6⟩
  | .fsub ty yd ys1 ys2 => some ⟨1#4 ++ 0#3, y5 ys2, y5 ys1, ty.code, y5 yd, 1#1, 0x11#6⟩
  | .fmul ty yd ys1 ys2 => some ⟨2#4 ++ 0#3, y5 ys2, y5 ys1, ty.code, y5 yd, 1#1, 0x11#6⟩
  | .fdiv ty yd ys1 ys2 => some ⟨3#4 ++ 0#3, y5 ys2, y5 ys1, ty.code, y5 yd, 1#1, 0x11#6⟩
  | .fsqrt ty yd ys1 => some ⟨4#4 ++ 0#3, 0#5, y5 ys1, ty.code, y5 yd, 1#1, 0x11#6⟩
  | .fmin ty yd ys1 ys2 => some ⟨5#4 ++ 0#3, y5 ys2, y5 ys1, ty.code, y5 yd, 1#1, 0x11#6⟩
  | .fmax ty yd ys1 ys2 => some ⟨6#4 ++ 0#3, y5 ys2, y5 ys1, ty.code, y5 yd, 1#1, 0x11#6⟩
  | .fmadd ty yd ys1 ys2 => some ⟨7#4 ++ 0#3, y5 ys2, y5 ys1, ty.code, y5 yd, 1#1, 0x11#6⟩
  | .fcmp ty cc yd ys1 ys2 => some ⟨8#4 ++ cc.code, y5 ys2, y5 ys1, ty.code, y5 yd, 1#1, 0x11#6⟩
  | .fcvt dst src rm sat yd ys1 => some ⟨9#4 ++ (b1 sat ++ 0#2), src.code ++ rm.code, y5 ys1, dst.code, y5 yd, 1#1, 0x11#6⟩
  | .fclass ty yd ys1 => some ⟨10#4 ++ 0#3, 0#5, y5 ys1, ty.code, y5 yd, 1#1, 0x11#6⟩
  | .mcfg ys1 => some ⟨0x00#7, 0#5, y5 ys1, 0#3, 0#5, 1#1, 0x12#6⟩
  | .mldb ys1 ys2 => some ⟨0x01#7, y5 ys2, y5 ys1, 0#3, 0#5, 1#1, 0x12#6⟩
  | .mma acc ys1 ys2 => some ⟨0x02#7, y5 ys2, y5 ys1, 0#3, m5 acc, 1#1, 0x12#6⟩
  | .mrot => some ⟨0x03#7, 0#5, 0#5, 0#3, 0#5, 1#1, 0x12#6⟩
  | .mscale ys1 ys2 => some ⟨0x04#7, y5 ys2, y5 ys1, 0#3, 0#5, 1#1, 0x12#6⟩
  | .mzero acc int64 => some ⟨0x05#7, 0#5, 0#5, 0#2 ++ b1 int64, m5 acc, 1#1, 0x12#6⟩
  | .mrdacc acc ys1 ys2 => some ⟨0x06#7, y5 ys2, y5 ys1, 0#3, m5 acc, 1#1, 0x12#6⟩
  | .mwracc acc ys1 ys2 => some ⟨0x07#7, y5 ys2, y5 ys1, 0#3, m5 acc, 1#1, 0x12#6⟩
  | .mcmd ys1 => some ⟨0x08#7, 0#5, y5 ys1, 0#3, 0#5, 1#1, 0x12#6⟩
  | .mstat yd => some ⟨0x09#7, 0#5, 0#5, 0#3, y5 yd, 1#1, 0x12#6⟩
  | .eclr ed => some ⟨0x00#7, 0#5, 0#5, 0#3, m5 ed, 1#1, 0x13#6⟩
  | .eins ed ys1 ys2 => some ⟨0x01#7, y5 ys2, y5 ys1, 0#3, m5 ed, 1#1, 0x13#6⟩
  | .eld ed ys1 ys2 => some ⟨0x02#7, y5 ys2, y5 ys1, 0#3, m5 ed, 1#1, 0x13#6⟩
  | .est es ys1 => some ⟨0x03#7, m5 es, y5 ys1, 0#3, 0#5, 1#1, 0x13#6⟩
  | .emax ed ea eb => some ⟨0x04#7, m5 eb, m5 ea, 0#3, m5 ed, 1#1, 0x13#6⟩
  | .eadd ed ea eb => some ⟨0x05#7, m5 eb, m5 ea, 0#3, m5 ed, 1#1, 0x13#6⟩
  | .einf ed ea eb => some ⟨0x06#7, m5 eb, m5 ea, 0#3, m5 ed, 1#1, 0x13#6⟩
  | .econj ed ea => some ⟨0x07#7, 0#5, m5 ea, 0#3, m5 ed, 1#1, 0x13#6⟩
  | .eeval yd es ys2 => some ⟨0x08#7, y5 ys2, m5 es, 0#3, y5 yd, 1#1, 0x13#6⟩
  | .ecnt yd es => some ⟨0x09#7, 0#5, m5 es, 0#3, y5 yd, 1#1, 0x13#6⟩
  | .scfg ys1 => some ⟨0x00#7, 0#5, y5 ys1, 0#3, 0#5, 1#1, 0x14#6⟩
  | .slocal ys1 ys2 => some ⟨0x01#7, y5 ys2, y5 ys1, 0#3, 0#5, 1#1, 0x14#6⟩
  | .spass ys1 => some ⟨0x02#7, 0#5, y5 ys1, 0#3, 0#5, 1#1, 0x14#6⟩
  | .sapply ys1 ys2 => some ⟨0x03#7, y5 ys2, y5 ys1, 0#3, 0#5, 1#1, 0x14#6⟩
  | .sclose => some ⟨0x04#7, 0#5, 0#5, 0#3, 0#5, 1#1, 0x14#6⟩
  | .swait vd => some ⟨0x05#7, 0#5, 0#5, 0#3, vd, 1#1, 0x14#6⟩
  | .sndh rs1 rs2 => some ⟨0#7, rs2, rs1, 0#3, 0#5, 0#1, 0x15#6⟩
  | .snd rs1 rs2 => some ⟨0#7, rs2, rs1, 1#3, 0#5, 0#1, 0x15#6⟩
  | .rcv rd q => some ⟨0#7, j5q q, 0#5, 2#3, rd, 0#1, 0x15#6⟩
  | .rcvn rd q => some ⟨0#7, j5q q, 0#5, 3#3, rd, 0#1, 0x15#6⟩
  | .wmsg => some ⟨0#7, 0#5, 0#5, 4#3, 0#5, 0#1, 0x15#6⟩
  | .mbxpop rd rs2 => some ⟨0#7, rs2, 0#5, 5#3, rd, 0#1, 0x15#6⟩
  | .cpset which rs1 => some ⟨0#7, 0#5, rs1, 0#3, m5 which, 0#1, 0x16#6⟩
  | .cplaunch rd => some ⟨0#7, 0#5, 0#5, 1#3, rd, 0#1, 0x16#6⟩
  | .cpstat rd rs1 => some ⟨0#7, 0#5, rs1, 2#3, rd, 0#1, 0x16#6⟩
  | .wait => some ⟨0#7, 0#5, 0#5, 0#3, 0#5, 0#1, 0x17#6⟩
  | .waitv rd rs1 => some ⟨0#7, 0#5, rs1, 1#3, rd, 0#1, 0x17#6⟩
  | .fence rd scope => some ⟨0#7, 0#1 ++ scope, 0#5, 2#3, rd, 0#1, 0x17#6⟩
  | .fwait rs1 => some ⟨0#7, 0#5, rs1, 3#3, 0#5, 0#1, 0x17#6⟩
  | .amoadd w rd rs1 rs2 => some ⟨0x00#7, rs2, rs1, w.code, rd, 0#1, 0x18#6⟩
  | .amoand w rd rs1 rs2 => some ⟨0x01#7, rs2, rs1, w.code, rd, 0#1, 0x18#6⟩
  | .amoor w rd rs1 rs2 => some ⟨0x02#7, rs2, rs1, w.code, rd, 0#1, 0x18#6⟩
  | .amoxor w rd rs1 rs2 => some ⟨0x03#7, rs2, rs1, w.code, rd, 0#1, 0x18#6⟩
  | .amomin w rd rs1 rs2 => some ⟨0x04#7, rs2, rs1, w.code, rd, 0#1, 0x18#6⟩
  | .amomax w rd rs1 rs2 => some ⟨0x05#7, rs2, rs1, w.code, rd, 0#1, 0x18#6⟩
  | .amoswap w rd rs1 rs2 => some ⟨0x06#7, rs2, rs1, w.code, rd, 0#1, 0x18#6⟩
  | .amocas w rd rs1 rs2 => some ⟨0x07#7, rs2, rs1, w.code, rd, 0#1, 0x18#6⟩
  | .damoadd w rd rs1 rs2 => some ⟨0x08#7, rs2, rs1, w.code, rd, 0#1, 0x18#6⟩
  | .damomin w rd rs1 rs2 => some ⟨0x09#7, rs2, rs1, w.code, rd, 0#1, 0x18#6⟩
  | .damomax w rd rs1 rs2 => some ⟨0x0A#7, rs2, rs1, w.code, rd, 0#1, 0x18#6⟩
  | .next rd => some ⟨0#7, 0#5, 0#5, 0#3, rd, 0#1, 0x19#6⟩
  | .tdone => some ⟨0#7, 0#5, 0#5, 1#3, 0#5, 0#1, 0x19#6⟩
  | .mfs rd spr => some ⟨hi7 spr, lo5 spr, 0#5, 0#3, rd.field, rd.slice, 0x1A#6⟩
  | .mts spr rs1 => some ⟨hi7 spr, lo5 spr, rs1.field, 1#3, 0#5, rs1.slice, 0x1A#6⟩
  | .ecall => some ⟨0#7, 0#5, 0#5, 2#3, 0#5, 0#1, 0x1A#6⟩
  | .eret => some ⟨0#7, 0#5, 0#5, 3#3, 0#5, 0#1, 0x1A#6⟩
  | .brk => some ⟨0#7, 0#5, 0#5, 4#3, 0#5, 0#1, 0x1A#6⟩
  | .idle => some ⟨0#7, 0#5, 0#5, 5#3, 0#5, 0#1, 0x1A#6⟩
  | .halt => some ⟨0#7, 0#5, 0#5, 6#3, 0#5, 0#1, 0x1A#6⟩
  | .frameinv rs1 => some ⟨0#7, 0#5, rs1, 7#3, 0#5, 0#1, 0x1A#6⟩
  | .rqRegionWrite _ _ _ _ => none
  | .tickcmpWrite _ _ => none
  | .capreqWrite _ _ => none
  | .capabilityMinted _ => none
  | .queueRearm _ _ => none
  | .mailboxRearm _ => none
  | .overflowAreaRestart _ => none
  | .lostClear _ => none
  | .intpendClear _ _ => none
  | .merrlogClear _ _ => none
  | .delayedLoopWriteLand _ => none
  | .interruptTake _ => none
  | .engineCommandStart _ _ => none
  | .matrixCommandComplete _ => none
  | .rotationSendArrival _ => none
  | .rotationSwap _ => none
  | .ringCreditArrival _ => none
  | .mcmdRecordArrival _ => none
  | .envelopeCommandComplete _ => none
  | .scanCommandComplete _ => none
  | .carryArrival _ => none
  | .spassComplete _ => none
  | .scloseComplete _ => none
  | .chainRelease _ _ => none
  | .cueEntryFetch _ _ => none
  | .barrierFire _ _ _ => none
  | .readyReport _ _ _ => none
  | .readyReportArrival _ => none
  | .barrierRelease _ _ => none
  | .pkgReadyReport _ => none
  | .pkgRelease _ _ => none
  | .gangBoundaryCommit _ => none
  | .taskMerge _ => none
  | .gangBoundaryPublish _ => none
  | .damoRequestRecord _ => none
  | .barrierStallEvent _ => none
  | .longReceiveEvent _ => none
  | .packetArrival _ => none
  | .retryResend _ => none
  | .packetAckArrival _ => none
  | .streamSlotReturn _ => none
  | .noteArrival _ => none
  | .localMailboxDelivery _ => none
  | .escapeMove _ => none
  | .parkedReinject _ => none
  | .remoteStoreArrival _ => none
  | .remoteStoreAck _ => none
  | .refusalArrival _ => none
  | .remoteLoadArrival _ => none
  | .remoteLoadResponse _ => none
  | .globalLoadResponse _ _ => none
  | .amoAction _ => none
  | .amoResponse _ => none
  | .copyStart _ _ => none
  | .copyComplete _ _ => none
  | .translationWalk _ _ _ => none
  | .walkComplete _ _ => none
  | .invalidationAck _ => none
  | .serviceShootdown _ _ => none
  | .fwaitDone _ => none
  | .rcvWake _ => none
  | .wmsgWake _ => none
  | .idleWake _ => none
  | .gangStart _ => none
  | .timeSliceEnd _ => none
  | .gangSwitchStop _ => none
  | .switchPark _ => none
  | .gangResume _ => none
  | .sliceAbort _ => none
  | .uncorrectableConsumption _ _ _ => none
  | .rollbackStop _ => none
  | .rollbackResume _ => none
  | .serialReexecution _ => none
  | .touchmarkExchange _ => none
  | .touchmarkArrival _ => none
  | .patternApply _ _ => none
  | .rampStep _ => none
  | .rampEnd _ => none
  | .temperatureRead _ _ => none
  | .thermalThrottleStep _ => none
  | .migrationStart _ => none
  | .migrationResume _ => none
  | .wearCharge _ _ _ => none
  | .monitorRead _ _ _ _ => none
  | .frameRetire _ _ => none
  | .frameLineCopy _ _ _ => none
  | .mirrorClear _ _ => none
  | .memoryScrubError _ _ _ _ => none
  | .attest _ _ _ => none
  | .partitionCreate _ _ => none
  | .partitionResize _ _ => none
  | .partitionDelete _ => none
  | .partitionRoot _ _ => none
  | .partitionPattern _ _ _ _ _ => none
  | .load _ _ _ _ => none
  | .launch _ _ _ _ _ _ _ => none
  | .preemptStop _ _ _ => none
  | .preemptResume _ _ _ => none
  | .queryTrace _ => none
  | .queryAssay _ => none
  | .queryErrorLog _ => none
  | .queryEventCounts _ => none
  | .resync _ => none
  | .freeze _ _ => none
  | .shutdownImmediate _ => none
  | .shutdownAtBoundary _ => none
  | .coordinatorFailover _ => none
  | .boot _ _ _ _ => none
  | .tapReadout _ => none
  | .tickCompare _ => none
  | .ieee1588Sync _ => none
  | .dieRestart _ => none

/-- The word of an instruction; none for an event. -/
def encode (i : Instr) : Option IWord := (encodeFields i).map Fields.pack

/-- The word of four bytes in memory order: little-endian (R4, R200). -/
def wordOfBytes : List Byte → Option IWord
  | [b0, b1, b2, b3] => some (b3 ++ b2 ++ b1 ++ b0)
  | _ => none

/-- The four bytes of a word as memory holds them, lowest address first (R4). -/
def bytesOfWord (w : IWord) : List Byte :=
  [w.extractLsb' 0 8, w.extractLsb' 8 8, w.extractLsb' 16 8, w.extractLsb' 24 8]

/-- The decoder on bytes: exactly four make an instruction word. -/
def decodeBytes (bs : List Byte) : Except Illegal Instr :=
  match wordOfBytes bs with
  | some w => decode w
  | none => .error .form

/-- What the decoder reads from the bits `w` of an opcode-table row, every bit above `nbits` zero. -/
def decodeTableWord (nbits w : Nat) : Option Instr :=
  match decodeBytes (bytesOfWord (BitVec.ofNat 32 (w % 2 ^ nbits))) with
  | .ok i => some i
  | .error _ => none

end Sys2Proof
end

