-- ==== Sys2Proof/Machine/Flags.lean ====
section
/-! DEFINITION. Flags: the floating-point formats, every rounding and conversion, and the FFLAGS bits they raise
(04_number_formats). A finite value is a sign, a natural mantissa and a power of two, so every sum and product is exact. -/

namespace Sys2Proof.Machine

/-- The FFLAGS bits [5:0] an operation raises (R53). -/
abbrev Fl := BitVec 6

def flInexact : Fl := 1
def flUnderflow : Fl := 2
def flOverflow : Fl := 4
def flDivZero : Fl := 8
def flInvalid : Fl := 16
def flMovf : Fl := 32

/-- `f` when the condition holds. -/
def flIf (c : Bool) (f : Fl) : Fl := if c then f else 0

/-! ## Formats (R58, R59) -/

/-- The floating-point formats. -/
inductive FFmt where
  | f64 | f32 | bf16 | e5m2 | e4m3 | e2m1
  deriving DecidableEq, Repr

def FFmt.bits : FFmt → Nat
  | .f64 => 64 | .f32 => 32 | .bf16 => 16 | .e5m2 => 8 | .e4m3 => 8 | .e2m1 => 4
def FFmt.frac : FFmt → Nat
  | .f64 => 52 | .f32 => 23 | .bf16 => 7 | .e5m2 => 2 | .e4m3 => 3 | .e2m1 => 1
def FFmt.bias : FFmt → Nat
  | .f64 => 1023 | .f32 => 127 | .bf16 => 127 | .e5m2 => 15 | .e4m3 => 7 | .e2m1 => 1
/-- Whether the exponent field of all ones holds infinities and NaNs. -/
def FFmt.ieee : FFmt → Bool
  | .f64 | .f32 | .bf16 | .e5m2 => true
  | .e4m3 | .e2m1 => false
/-- The code of the largest finite magnitude. -/
def FFmt.maxCode : FFmt → Nat
  | .f64 => 0x7FEF_FFFF_FFFF_FFFF | .f32 => 0x7F7F_FFFF | .bf16 => 0x7F7F | .e5m2 => 0x7B | .e4m3 => 0x7E | .e2m1 => 0x7
/-- The canonical NaN (R60); E2M1 has none and gives +0 (R70). -/
def FFmt.nan : FFmt → Nat
  | .f64 => 0x7FF8_0000_0000_0000 | .f32 => 0x7FC0_0000 | .bf16 => 0x7FC0 | .e5m2 => 0x7F | .e4m3 => 0x7F | .e2m1 => 0
/-- The code of +infinity, where the format has one. -/
def FFmt.inf (f : FFmt) : Nat := (2 ^ (f.bits - 1 - f.frac) - 1) * 2 ^ f.frac
/-- The exponent of a unit of the last place of a subnormal. -/
def FFmt.qmin (f : FFmt) : Int := 1 - (f.bias : Int) - f.frac
/-- A magnitude code with a sign. -/
def FFmt.signed (f : FFmt) (neg : Bool) (c : Nat) : Nat := if neg then 2 ^ (f.bits - 1) + c else c

/-- A decoded value; `fin neg m e` is (-1)^neg x m x 2^e. -/
inductive FVal where
  | nan (signalling : Bool)
  | inf (neg : Bool)
  | fin (neg : Bool) (m : Nat) (e : Int)
  deriving DecidableEq, Repr

/-- The value a code stands for (R58, R60). -/
def FFmt.dec (f : FFmt) (code : Nat) : FVal :=
  let c := code % 2 ^ f.bits
  let neg := decide (2 ^ (f.bits - 1) ≤ c)
  let a := c % 2 ^ (f.bits - 1)
  let ex := a / 2 ^ f.frac
  let fr := a % 2 ^ f.frac
  if f.ieee && ex == 2 ^ (f.bits - 1 - f.frac) - 1 then
    if fr = 0 then .inf neg
    else .nan (f != .e5m2 && fr < 2 ^ (f.frac - 1))
  else if f == .e4m3 && a == 0x7F then .nan false
  else if ex = 0 then .fin neg fr f.qmin
  else .fin neg (2 ^ f.frac + fr) (f.qmin + ex - 1)

/-- Whether a value is a signalling NaN. -/
def FVal.snan : FVal → Bool
  | .nan s => s
  | _ => false
def FVal.isNan : FVal → Bool
  | .nan _ => true
  | _ => false
def FVal.neg : FVal → FVal
  | .nan s => .nan s
  | .inf n => .inf (!n)
  | .fin n m e => .fin (!n) m e
def FVal.isNeg : FVal → Bool
  | .nan _ => false
  | .inf n => n
  | .fin n _ _ => n

/-! ## Rounding (R66, R67, R70) -/

/-- Whether a remainder rounds the magnitude up: `odd` the quotient's last bit, `r` the remainder of `2^sh`. -/
def roundsUp (rm : RMode) (neg odd : Bool) (r half : Nat) : Bool :=
  match rm with
  | .rne => half < r || (r == half && odd)
  | .rtz => false
  | .rdn => neg && r != 0
  | .rup => !neg && r != 0

/-- m x 2^e as a multiple of 2^q: the rounded multiple and whether it is inexact. -/
def roundAt (rm : RMode) (neg : Bool) (m : Nat) (e q : Int) : Nat × Bool :=
  if q ≤ e then (m * 2 ^ (e - q).toNat, false)
  else
    let sh := (q - e).toNat
    let d := m / 2 ^ sh
    let r := m % 2 ^ sh
    (if roundsUp rm neg (d % 2 == 1) r (2 ^ (sh - 1)) then d + 1 else d, r != 0)

/-- a x 2^ea < b x 2^eb. -/
def scaledLt (a : Nat) (ea : Int) (b : Nat) (eb : Int) : Bool :=
  let q := min ea eb
  a * 2 ^ (ea - q).toNat < b * 2 ^ (eb - q).toNat

/-- What a rounded magnitude beyond the largest finite one gives (R70). -/
def overflowCode (f : FFmt) (rm : RMode) (sat neg : Bool) : Nat :=
  match f with
  | .e2m1 => f.signed neg f.maxCode
  | .e4m3 => f.signed neg (if sat then f.maxCode else f.nan)
  | _ =>
    let toMax := sat || (match rm with
      | .rne => false
      | .rtz => true
      | .rdn => !neg
      | .rup => neg)
    f.signed neg (if toMax then f.maxCode else f.inf)

/-- The exact value (-1)^neg x m x 2^e rounded to a format, with the flags of R67 and R70. -/
def roundTo (f : FFmt) (rm : RMode) (sat neg : Bool) (m : Nat) (e : Int) : Nat × Fl :=
  if m = 0 then (f.signed neg 0, 0)
  else
    let E : Int := Nat.log2 m + e
    let qu := E - f.frac
    let (ru, _) := roundAt rm neg m e qu
    match f.dec f.maxCode with
    | .fin _ mm me =>
      if scaledLt mm me ru qu then (overflowCode f rm sat neg, flOverflow ||| flInexact)
      else
        let tiny := scaledLt ru qu (2 ^ f.frac) f.qmin
        let q := max qu f.qmin
        let (r, inex) := roundAt rm neg m e q
        (f.signed neg ((q - f.qmin).toNat * 2 ^ f.frac + r), flIf inex flInexact ||| flIf (tiny && inex) flUnderflow)
    | _ => (0, 0)

/-- Rounding of arithmetic: to nearest, ties to even (R66). -/
def rnd (f : FFmt) (neg : Bool) (m : Nat) (e : Int) : Nat × Fl := roundTo f .rne false neg m e

/-- An infinity of a format by sign. -/
def FFmt.infS (f : FFmt) (neg : Bool) : Nat := f.signed neg f.inf

/-! ## Exact sums (R68, R75) -/

/-- A signed multiple of a power of two. -/
structure Term where
  neg : Bool
  m : Nat
  e : Int
  deriving DecidableEq, Repr

def Term.int (t : Term) (q : Int) : Int :=
  let v : Int := (t.m * 2 ^ (t.e - q).toNat : Nat)
  if t.neg then -v else v

/-- The least exponent of the terms. -/
def minExp : List Term → Int
  | [] => 0
  | [t] => t.e
  | t :: r => min t.e (minExp r)

/-- The exact sum of terms as a signed multiple of 2^q; a zero sum is -0 only when every addend is -0 (R68). -/
def sumTerms (ts : List Term) : Term :=
  let q := minExp ts
  let v : Int := ts.foldl (fun a t => a + t.int q) 0
  if v = 0 then ⟨ts.all (·.neg), 0, 0⟩ else ⟨decide (v < 0), v.natAbs, q⟩

/-! ## Arithmetic (R261, R276, R277) -/

/-- The NaN result of an operation on NaN operands. -/
def nanOut (f : FFmt) (vs : List FVal) : Nat × Fl := (f.nan, flIf (vs.any FVal.snan) flInvalid)

/-- a + b on decoded values. -/
def addV (f : FFmt) (a b : FVal) : Nat × Fl :=
  match a, b with
  | .nan _, _ => nanOut f [a, b]
  | _, .nan _ => nanOut f [a, b]
  | .inf n, .inf n' => if n = n' then (f.infS n, 0) else (f.nan, flInvalid)
  | .inf n, .fin _ _ _ => (f.infS n, 0)
  | .fin _ _ _, .inf n => (f.infS n, 0)
  | .fin n m e, .fin n' m' e' =>
    let t := sumTerms [⟨n, m, e⟩, ⟨n', m', e'⟩]
    rnd f t.neg t.m t.e

def fAdd (f : FFmt) (a b : Nat) : Nat × Fl := addV f (f.dec a) (f.dec b)
def fSub (f : FFmt) (a b : Nat) : Nat × Fl := addV f (f.dec a) (f.dec b).neg

/-- An exact product: a NaN with INVALID when the product is invalid. -/
def mulV (a b : FVal) : FVal × Fl :=
  match a, b with
  | .nan s, b => (.nan s, flIf (s || b.snan) flInvalid)
  | a, .nan s => (.nan s, flIf (s || a.snan) flInvalid)
  | .inf n, .inf n' => (.inf (n != n'), 0)
  | .inf n, .fin n' m _ => if m = 0 then (.nan false, flInvalid) else (.inf (n != n'), 0)
  | .fin n m _, .inf n' => if m = 0 then (.nan false, flInvalid) else (.inf (n != n'), 0)
  | .fin n m e, .fin n' m' e' => (.fin (n != n') (m * m') (e + e'), 0)

/-- A decoded value rounded once. -/
def roundV (f : FFmt) : FVal → Nat × Fl
  | .nan _ => (f.nan, 0)
  | .inf n => (f.infS n, 0)
  | .fin n m e => rnd f n m e

def fMul (f : FFmt) (a b : Nat) : Nat × Fl :=
  let (p, fl) := mulV (f.dec a) (f.dec b)
  let (r, fl') := roundV f p
  (r, fl ||| fl')

/-- a x b + c with one rounding. -/
def fmaV (f : FFmt) (a b c : FVal) : Nat × Fl :=
  let (p, fl) := mulV a b
  let (r, fl') := addV f p c
  (r, fl ||| fl')

def fMadd (f : FFmt) (a b c : Nat) : Nat × Fl := fmaV f (f.dec a) (f.dec b) (f.dec c)
def fMsub (f : FFmt) (a b c : Nat) : Nat × Fl := fmaV f (f.dec a) (f.dec b) (f.dec c).neg

/-- a / b of finite nonzero magnitudes, rounded: enough quotient bits and a sticky last bit. -/
def divMag (f : FFmt) (neg : Bool) (m : Nat) (e : Int) (m' : Nat) (e' : Int) : Nat × Fl :=
  let k := f.frac + 4 + Nat.log2 m'
  let q := m * 2 ^ k / m'
  let s := if m * 2 ^ k % m' = 0 then 0 else 1
  rnd f neg (2 * q + s) (e - e' - k - 1)

def fDiv (f : FFmt) (a b : Nat) : Nat × Fl :=
  match f.dec a, f.dec b with
  | .nan s, y => (f.nan, flIf (s || y.snan) flInvalid)
  | _, .nan s => (f.nan, flIf s flInvalid)
  | .inf _, .inf _ => (f.nan, flInvalid)
  | .inf n, .fin n' _ _ => (f.infS (n != n'), 0)
  | .fin n _ _, .inf n' => (f.signed (n != n') 0, 0)
  | .fin n m e, .fin n' m' e' =>
    if m' = 0 then if m = 0 then (f.nan, flInvalid) else (f.infS (n != n'), flDivZero)
    else if m = 0 then (f.signed (n != n') 0, 0)
    else divMag f (n != n') m e m' e'

/-- 1 / a (R79). -/
def fRecip (f : FFmt) (a : Nat) : Nat × Fl := fDiv f (f.bias * 2 ^ f.frac) a

/-- Bits of the integer square root of n from bit `b` down: r is the root so far. -/
def isqrtFrom (n : Nat) : Nat → Nat → Nat
  | 0, r => if (r + 1) * (r + 1) ≤ n then r + 1 else r
  | b + 1, r =>
    let c := r + 2 ^ (b + 1)
    isqrtFrom n b (if c * c ≤ n then c else r)

/-- The floor of the square root. -/
def isqrt (n : Nat) : Nat := isqrtFrom n (Nat.log2 n / 2 + 1) 0

/-- The square root, rounded (R79). -/
def fSqrt (f : FFmt) (a : Nat) : Nat × Fl :=
  match f.dec a with
  | .nan s => (f.nan, flIf s flInvalid)
  | .inf true => (f.nan, flInvalid)
  | .inf false => (f.infS false, 0)
  | .fin n m e =>
    if m = 0 then (f.signed n 0, 0)
    else if n then (f.nan, flInvalid)
    else
      let k := f.frac + 4
      let m1 := if e % 2 = 0 then m else 2 * m
      let e1 := if e % 2 = 0 then e else e - 1
      let s := isqrt (m1 * 4 ^ k)
      rnd f false (2 * s + (if s * s = m1 * 4 ^ k then 0 else 1)) (e1 / 2 - k - 1)

/-- The reciprocal square root, rounded (R79). -/
def fRsqrt (f : FFmt) (a : Nat) : Nat × Fl :=
  match f.dec a with
  | .nan s => (f.nan, flIf s flInvalid)
  | .inf true => (f.nan, flInvalid)
  | .inf false => (f.signed false 0, 0)
  | .fin n m e =>
    if m = 0 then (f.infS n, flDivZero)
    else if n then (f.nan, flInvalid)
    else
      let m1 := if e % 2 = 0 then m else 2 * m
      let e1 := if e % 2 = 0 then e else e - 1
      let k := f.frac + 4 + Nat.log2 m1
      let s := isqrt (4 ^ k / m1)
      rnd f false (2 * s + (if s * s * m1 = 4 ^ k then 0 else 1)) (-(e1 / 2) - k - 1)

/-! ## Comparison, minimum and maximum (R77, R262, R263) -/

/-- a < b of values that are no NaN; +0 equals -0. -/
def ltV (a b : FVal) : Bool :=
  match a, b with
  | .inf n, .inf n' => n && !n'
  | .inf n, .fin _ _ _ => n
  | .fin _ _ _, .inf n' => !n'
  | .fin n m e, .fin n' m' e' =>
    let q := min e e'
    decide ((Term.mk n m e).int q < (Term.mk n' m' e').int q)
  | _, _ => false

def eqV (a b : FVal) : Bool := !a.isNan && !b.isNan && !ltV a b && !ltV b a

/-- A relation of FCMP and the vector compares with its flags (R262). -/
def fCmp (f : FFmt) (cc : Cond) (a b : Nat) : Bool × Fl :=
  let x := f.dec a
  let y := f.dec b
  if x.isNan || y.isNan then
    (false, match cc with
      | .eq => flIf (x.snan || y.snan) flInvalid
      | .lt => flInvalid
      | .le => flInvalid)
  else
    (match cc with
      | .eq => eqV x y
      | .lt => ltV x y
      | .le => ltV x y || eqV x y, 0)

/-- a before b in the order of minimumNumber: -0 counts as smaller than +0. -/
def minBefore (x y : FVal) : Bool := ltV x y || (eqV x y && x.isNeg && !y.isNeg)

/-- minimumNumber and maximumNumber (R77). -/
def fMinMax (f : FFmt) (maxi : Bool) (a b : Nat) : Nat × Fl :=
  let x := f.dec a
  let y := f.dec b
  let fl := flIf (x.snan || y.snan) flInvalid
  let r :=
    if x.isNan && y.isNan then f.nan
    else if x.isNan then b
    else if y.isNan then a
    else if maxi then (if minBefore x y then b else a)
    else (if minBefore y x then b else a)
  (r % 2 ^ f.bits, fl)

/-- The one-hot class of FCLASS (R263). -/
def fClass (f : FFmt) (a : Nat) : Nat :=
  match f.dec a with
  | .inf true => 0x1
  | .inf false => 0x80
  | .nan true => 0x100
  | .nan false => 0x200
  | .fin n m _ =>
    if m = 0 then (if n then 0x8 else 0x10)
    else if m < 2 ^ f.frac then (if n then 0x4 else 0x20)
    else (if n then 0x2 else 0x40)

/-! ## Conversions (R65, R69 to R73) -/

/-- A signed integer of w bits from its code. -/
def intOf (w c : Nat) : Int := (BitVec.ofNat w c).toInt
/-- The w-bit code of an integer, modulo 2^w. -/
def codeOf (w : Nat) (v : Int) : Nat := (BitVec.ofInt w v).toNat
/-- Saturation to the w-bit signed range. -/
def satInt (w : Nat) (v : Int) : Int :=
  if v < -(2 ^ (w - 1) : Nat) then -(2 ^ (w - 1) : Nat) else if (2 ^ (w - 1) : Nat) ≤ v then (2 ^ (w - 1) : Nat) - 1 else v

/-- Floating point to a w-bit signed integer (R71). -/
def fltToInt (v : FVal) (w : Nat) (rm : RMode) : Int × Fl :=
  match v with
  | .nan _ => (0, flInvalid)
  | .inf n => (if n then -(2 ^ (w - 1) : Nat) else (2 ^ (w - 1) : Nat) - 1, flInvalid)
  | .fin n m e =>
    let (r, inex) := roundAt rm n m e 0
    let i : Int := if n then -(r : Int) else r
    let s := satInt w i
    if s = i then (i, flIf inex flInexact) else (s, flInvalid)

/-- Floating point to a float format (R69, R70). -/
def fltToFlt (v : FVal) (f : FFmt) (rm : RMode) (sat : Bool) : Nat × Fl :=
  match v with
  | .nan s =>
    if f == .e2m1 || (f == .e4m3 && sat) then (0, flInvalid) else (f.nan, flIf s flInvalid)
  | .inf n =>
    match f with
    | .e2m1 => (f.signed n f.maxCode, flInvalid)
    | .e4m3 => (f.signed n (if sat then f.maxCode else f.nan), flInvalid)
    | _ => (f.infS n, 0)
  | .fin n m e => roundTo f rm sat n m e

/-- An integer to a float format (R72). -/
def intToFlt (v : Int) (f : FFmt) (rm : RMode) (sat : Bool) : Nat × Fl := roundTo f rm sat (decide (v < 0)) v.natAbs 0

/-- The kinds of an element format. -/
inductive NKind where
  | int (w : Nat)
  | flt (f : FFmt)
  | e8m0
  deriving DecidableEq, Repr

def nfKind : NFmt → NKind
  | .i8 => .int 8 | .i16 => .int 16 | .i32 => .int 32 | .i64 => .int 64
  | .bf16 => .flt .bf16 | .f32 => .flt .f32 | .f64 => .flt .f64
  | .e4m3 => .flt .e4m3 | .e5m2 => .flt .e5m2 | .e2m1 => .flt .e2m1 | .e8m0 => .e8m0

def nfBits : NFmt → Nat
  | .i8 => 8 | .i16 => 16 | .i32 => 32 | .i64 => 64 | .bf16 => 16 | .f32 => 32 | .f64 => 64
  | .e4m3 => 8 | .e5m2 => 8 | .e2m1 => 4 | .e8m0 => 8

/-- The format of a lane type. -/
def laneFmt : LTy → NFmt
  | .i8 => .i8 | .i16 => .i16 | .i32 => .i32 | .i64 => .i64 | .bf16 => .bf16 | .f32 => .f32 | .f64 => .f64

/-- An E8M0 scale expanded to FP32 (R65). -/
def e8m0ToF32 (c : Nat) : Nat × Fl :=
  if c = 255 then (0x7FC0_0000, flInvalid) else if c = 0 then (0x0040_0000, 0) else (c * 2 ^ 23, 0)

/-- Conversion of one element (R69 to R73, R264, R280). -/
def convert (dst src : NFmt) (rm : RMode) (sat : Bool) (c : Nat) : Nat × Fl :=
  match nfKind src, nfKind dst with
  | .int w, .int w' => (codeOf w' (satInt w' (intOf w c)), 0)
  | .int w, .flt f => intToFlt (intOf w c) f rm sat
  | .flt f, .int w' =>
    let (i, fl) := fltToInt (f.dec c) w' rm
    (codeOf w' i, fl)
  | .flt f, .flt f' => fltToFlt (f.dec c) f' rm sat
  | .e8m0, .flt .f32 => e8m0ToF32 c
  | _, _ => (c % 2 ^ nfBits dst, 0)

/-! ## The base-2 exponential (R80, R81) -/

/-- C1, C2 and C3 of R80: ln 2, (ln 2)^2 / 2 and (ln 2)^3 / 6, each rounded to nearest. -/
def expC1 : Nat := 0x3FE6_2E42_FEFA_39EF
def expC2 : Nat := 0x3FCE_BFBD_FF82_C58F
def expC3 : Nat := 0x3FAC_6B08_D704_A0C0

/-- T[j], 2^(j/64) rounded to nearest binary64 (R80). -/
def expTable : List Nat :=
  [0x3FF0000000000000, 0x3FF02C9A3E778061, 0x3FF059B0D3158574, 0x3FF0874518759BC8,
   0x3FF0B5586CF9890F, 0x3FF0E3EC32D3D1A2, 0x3FF11301D0125B51, 0x3FF1429AAEA92DE0,
   0x3FF172B83C7D517B, 0x3FF1A35BEB6FCB75, 0x3FF1D4873168B9AA, 0x3FF2063B88628CD6,
   0x3FF2387A6E756238, 0x3FF26B4565E27CDD, 0x3FF29E9DF51FDEE1, 0x3FF2D285A6E4030B] ++
  [0x3FF306FE0A31B715, 0x3FF33C08B26416FF, 0x3FF371A7373AA9CB, 0x3FF3A7DB34E59FF7,
   0x3FF3DEA64C123422, 0x3FF4160A21F72E2A, 0x3FF44E086061892D, 0x3FF486A2B5C13CD0,
   0x3FF4BFDAD5362A27, 0x3FF4F9B2769D2CA7, 0x3FF5342B569D4F82, 0x3FF56F4736B527DA,
   0x3FF5AB07DD485429, 0x3FF5E76F15AD2148, 0x3FF6247EB03A5585, 0x3FF6623882552225] ++
  [0x3FF6A09E667F3BCD, 0x3FF6DFB23C651A2F, 0x3FF71F75E8EC5F74, 0x3FF75FEB564267C9,
   0x3FF7A11473EB0187, 0x3FF7E2F336CF4E62, 0x3FF82589994CCE13, 0x3FF868D99B4492ED,
   0x3FF8ACE5422AA0DB, 0x3FF8F1AE99157736, 0x3FF93737B0CDC5E5, 0x3FF97D829FDE4E50,
   0x3FF9C49182A3F090, 0x3FFA0C667B5DE565, 0x3FFA5503B23E255D, 0x3FFA9E6B5579FDBF] ++
  [0x3FFAE89F995AD3AD, 0x3FFB33A2B84F15FB, 0x3FFB7F76F2FB5E47, 0x3FFBCC1E904BC1D2,
   0x3FFC199BDD85529C, 0x3FFC67F12E57D14B, 0x3FFCB720DCEF9069, 0x3FFD072D4A07897C,
   0x3FFD5818DCFBA487, 0x3FFDA9E603DB3285, 0x3FFDFC97337B9B5F, 0x3FFE502EE78B3FF6,
   0x3FFEA4AFA2A490DA, 0x3FFEFA1BEE615A27, 0x3FFF50765B6E4540, 0x3FFFA7C1819E90D8]

/-- VEXP2 of one lane (R81). -/
def fExp2 (f : FFmt) (a : Nat) : Nat × Fl :=
  match f.dec a with
  | .nan s => (f.nan, flIf s flInvalid)
  | .inf true => (0, 0)
  | .inf false => (f.infS false, 0)
  | .fin n m e =>
    if !n && !scaledLt m e 128 0 then (f.infS false, flOverflow ||| flInexact)
    else if n && scaledLt 160 0 m e then (0, flUnderflow ||| flInexact)
    else
      let (km, inex) := roundAt .rne n m (e + 6) 0
      let k : Int := if n then -(km : Int) else km
      let j := (k % 64).toNat
      let t := sumTerms [⟨n, m, e⟩, ⟨!n, km, -6⟩]
      let fc := (rnd .f64 t.neg t.m t.e).1
      let mul := fun x y => (fMul .f64 x y).1
      let add := fun x y => (fAdd .f64 x y).1
      let q1 := add expC2 (mul expC3 fc)
      let q2 := add expC1 (mul q1 fc)
      let p := add 0x3FF0_0000_0000_0000 (mul q2 fc)
      match FFmt.dec .f64 (mul (expTable.getD j 0) p) with
      | .fin zn zm ze =>
        let (y, fl) := rnd f zn zm (ze + k / 64)
        (y, fl ||| flIf inex flInexact)
      | _ => (f.nan, 0)

end Sys2Proof.Machine
end

