-- ==== Sys2Proof/Config.lean ====
section
/-! DEFINITION. Config: what an implementation of the HXD8 fixes, and the values the spec leaves to a random source or
to secret keys. Each free value is an opaque constant: no proof can see it, so a claim holds for every value of it. -/

namespace Sys2Proof.Config

/-- The 128-bit gang key the service draws at the n-th LAUNCH (R118, R381). Free value, log 7. -/
opaque gangKey : Nat → BitVec 128

/-- The 128-bit capability key of the n-th draw (R171, R362, R439). Free value, log 7. -/
opaque capKey : Nat → BitVec 128

/-- The AES-256-XTS key and the AES-256-CMAC key of the n-th draw: those of a partition's lines or of a saved context (R389, R439). Free value,
log 7. -/
opaque dataKeys : Nat → BitVec 512 × BitVec 256

/-- The SHA-384 measurement of firmware or microcode image n: the service firmware of core n, 8 for the V-mode microcode (R437, R438). Free value,
log 7. -/
opaque measurement : Nat → BitVec 384

/-- The device identity certificate, as words (R438, R441). Free value, log 7. -/
opaque identity : List Word

/-- The n-th fresh device ECDH P-384 public key, uncompressed (R438). Free value, log 7. -/
opaque deviceKey : Nat → BitVec 776

/-- The ECDSA P-384 signature of a report with the device's identity key (R438). Free value, log 7. -/
opaque ecdsa : List Word → BitVec 768

/-- The LMS signature of a report, by the state counter it uses (R438). Free value, log 7. -/
opaque lms : Nat → List Word → List Word

/-- Whether a wear charge that is no whole number of units of 2^-16 is rounded up, by the enabled slots, the mean junction temperature and the
mean voltage (R423, R425). The formula fixes no rounding: free value, log 8. -/
opaque wearUp : Nat → Nat → Nat → Bool

/-- The SEQ field in the element of a remote matrix command, which has no push count of its own (R169, R172). Free value, log 16. -/
opaque remoteSeq : Nat → BitVec 16

/-- The package that the coordinator names as late when it aborts a slice (R392), which only it can tell. Free value, log 20. -/
opaque latePackage : Nat → Nat

/-- How much later than 512 ticks the coordinator of a TOP 5 gang names the stop tick of a rollback (R398), which only it can tell. Free
value, log 20. -/
opaque coordDelay : Nat → Nat

/-- How long after a resumption tick the last package of a TOP 5 gang has started (R392), which only the coordinator can tell. Free value,
log 20. -/
opaque lateStart : Nat → Nat

/-- The route seed of a tile in a DET gang, from the gang key and the logical index (R42). The spec gives no derivation: free value, log 21. -/
opaque detSeed : BitVec 128 → Nat → BitVec 16

/-- The operator's key, installed at manufacture (R431). Free value, log 7. -/
opaque operatorKey : BitVec 776

/-- Tiles of one compute die, of the package, of a group and of a cluster (R16, R19). -/
abbrev tilesPerDie : Nat := 192
abbrev tiles : Nat := 1536
abbrev tilesPerGroup : Nat := 16
abbrev tilesPerCluster : Nat := 4

/-- Bytes of a scratchpad (R19). -/
abbrev scratchBytes : Nat := 0x20_0000

/-- Bytes of a frame (R363). -/
abbrev frameBytes : Nat := 0x1_0000

/-- First byte of the self window and of the remote windows; bytes of one remote window; end of global memory (R82). -/
abbrev selfBase : Nat := 0x200_0000_0000
abbrev selfTop : Nat := 0x200_4000_0000
abbrev remoteBase : Nat := 0x400_0000_0000
abbrev remoteTop : Nat := 0x430_0000_0000
abbrev remoteSpan : Nat := 0x800_0000
abbrev globalTop : Nat := 0x80_0000_0000

/-- How many times its size a store-buffer area may grow by (R109, log 41). -/
abbrev areaGrowth : Nat := 3

/-- First byte offset of the schedule-table region (R36). -/
abbrev schedBase : Nat := 0x1E_0000

/-- The TSTAMP of the background task (R35). -/
abbrev bgStamp : Nat := 0xFFFF_FFFF_FFFF

/-- Depth of an engine's command FIFO, of a queue port, of the X issue queue, and the A words fetch may hold (R22, R24, R44). -/
abbrev fifoDepth : Nat := 8
abbrev portDepth : Nat := 8
abbrev xqDepth : Nat := 64
abbrev aqDepth : Nat := 8

/-- Journal entries, outstanding copies, replay and reorder packets, mailbox entries, refusal entries (R92, R138, R144, R147, R152, R358). -/
abbrev journalDepth : Nat := 32
abbrev copyDepth : Nat := 32
abbrev replayDepth : Nat := 16
abbrev reorderDepth : Nat := 16
abbrev mailboxDepth : Nat := 32
abbrev refusalDepth : Nat := 8

/-- Where a program image is placed by default (R236, key TEXT). -/
abbrev textBase : Nat := 0x10_0000


/-- How many further elements the copy with an identifier moves next, after a number of them (R104: at any time until it
completes); 0 stands for all (log 76). -/
opaque copyChunk : Nat → Nat → Nat

/-- What a silent error puts into the touchmark of a pair's follower at a step (R407, R408): nothing, as a rule. Free value, log 22. -/
opaque silentError : Nat → List (BitVec 8)

/-- A byte of an undo-region record, by a serial number and its place: the spec gives the records no layout (R395). Free value, log 42. -/
opaque undoByte : Nat → Nat → BitVec 8

/-- A choice among several outcomes that the spec leaves open, by a serial number and a place (log 76). -/
opaque choice : Nat → Nat → Nat

/-- Whether a reading of the BTI and EM monitors lies in their calibrated range (R424), which the spec does not give. Free value, log 8. -/
opaque calibrated : Nat → Nat → Bool

end Sys2Proof.Config
end

