-- ==== Sys2Proof/Machine/State.lean ====
section
/-! DEFINITION. Machine/State: everything the spec gives the package, as plain data, and the state after package reset. -/

namespace Sys2Proof.Machine

/-! ## Sparse maps and memory -/

/-- Data by key, keys strictly rising. -/
abbrev SMap (α : Type) := List (Nat × α)

/-- Bytes by address; an unlisted address reads as 0 (log 4). -/
abbrev Memory := List Host.Cell

/-- What an unlisted byte of a scratchpad or of HBM4E reads as (log 4, DESIGN CHOICE). -/
def unlistedByte : Byte := 0#8

/-- The canonical form: addresses strictly rising, no entry equal to `unlistedByte`. -/
def Memory.wf : Memory → Bool
  | [] => true
  | [(_, b)] => b != unlistedByte
  | (a, b) :: (a', b') :: r => b != unlistedByte && a < a' && Memory.wf ((a', b') :: r)

/-! ## Registers of a thread (R11, R47) -/

/-- One hardware loop level: count, start, end (R254). -/
structure Loop where
  lc : Word
  ls : Word
  le : Word
  deriving DecidableEq, Repr

/-- A register of a loop level. -/
inductive LoopField where
  | lc | ls | le
  deriving DecidableEq, Repr

/-- A delayed loop-register write and how many further instructions still see the old value (R258). -/
structure LoopWrite where
  lvl : Level
  field : LoopField
  val : Word
  left : Nat
  deriving DecidableEq, Repr

/-- Both loop levels and the delayed writes to them (R254, R258). -/
structure Loops where
  l0 : Loop
  l1 : Loop
  lw : List LoopWrite
  deriving DecidableEq, Repr

/-- The register files, loop registers and queue ports (R11, R24, R47). -/
structure Regs where
  x : Vector Word 32
  y : Vector Word 16
  v : Vector Vec 32
  m : Vector Word 8
  j : Vector Word 4
  loop : Loops
  qax0 : List Word
  qax1 : List Word
  qxa0 : List Word
  qxa1 : List Word
  deriving DecidableEq, Repr

/-- The user special registers and the cursor that the shadow bank keeps (R52, R56, R37). -/
structure URegs where
  fflags : Word
  pstride : Word
  rqbase : Vector Word 4
  rqsize : Vector Word 4
  estat : Word
  etol : Word
  elimit : Word
  mring : Word
  scancfg : Word
  cursor : Nat
  deriving DecidableEq, Repr

/-- The special registers that rollback leaves (R52, R56). -/
structure IRegs where
  tileid : Word
  domain : Word
  tstamp : Word
  permit : Word
  merrlog : Word
  chainpos : Word
  netstat : Word
  relstat : Word
  wearacc : Word
  deriving DecidableEq, Repr

/-- The system registers of the S range (R361), the running route LFSR (R151), the capability being minted (R362) and the
value each latched interrupt source reports, by its bit (R357). -/
structure SRegs where
  status : Word
  cause : Word
  epc : Word
  tval : Word
  tvec : Word
  ssave : Vector Word 4
  inten : Word
  intpend : Word
  tickcmp : Word
  bwlimit : Word
  rslimit : Word
  bhkey : Word
  lfsrseed : Word
  lfsr : BitVec 16
  ovfbase : Word
  ovfsize : Word
  ovfstat : Word
  capval : Word
  minting : Option Word
  srcs : SMap Word
  deriving DecidableEq, Repr

/-! ## Engines -/

/-- An envelope register (R50, R176): lines in slope order, stored breakpoints, proper flag, bounds. -/
structure Env where
  proper : Bool
  lo : Word
  hi : Word
  lines : List (Word × Word)
  bps : List Word
  deriving DecidableEq, Repr

/-- A piece of an element in a scratchpad: byte offset, first bit in the byte, number of bits. An element is its pieces
from the least significant upward, which gives E2M1 nibbles, PLANE bits and whole bytes one form (R59, R86, R87). -/
structure Piece where
  off : Nat
  bit : Nat
  n : Nat
  deriving DecidableEq, Repr

/-- A scratchpad byte of a result that has not been written yet: its place, the bits of it that the result has, their values (R102). -/
structure OutByte where
  place : Nat
  mask : Byte
  val : Byte
  deriving DecidableEq, Repr

/-- The operation of an envelope command (R182, R299). -/
inductive EnvOp where
  | eclr (ed : EReg)
  | eins (ed : EReg) (m c : Word)
  | eld (ed : EReg) (addr : Word) (count : Nat)
  | est (es : EReg) (addr : Word)
  | emax (ed ea eb : EReg)
  | eadd (ed ea eb : EReg)
  | einf (ed ea eb : EReg)
  | econj (ed ea : EReg)
  | eeval (yd : YReg) (es : EReg) (x : Word)
  | ecnt (yd : YReg) (es : EReg)
  deriving DecidableEq, Repr

/-- A pushed envelope command with the registers it took (R54), the place of its word and the word, which may have to execute again
(R191); an EST that has begun to write, with the bytes left (R102). -/
structure EnvCmd where
  op : EnvOp
  etol : Word
  elimit : Word
  bhkey : Word
  pc : Word
  seq : Nat
  loops : Loops
  id : Nat
  word : Instr
  out : Option (List OutByte)
  deriving DecidableEq, Repr

/-- The format tag of a latch half or matrix operand (R157, R161). -/
inductive LFmt where
  | bf16 | e4m3 | e5m2 | e2m1
  | plane (k : Nat)
  deriving DecidableEq, Repr

/-- One half of the operand latch (R161): element codes by k x 32 + j; a PLANE element as its k-bit code. -/
structure Half where
  kb : Nat
  fmt : Option LFmt
  origin : Option Nat
  elems : SMap Word
  deriving DecidableEq, Repr

/-- The matrix commands (R289, R169). -/
inductive MxOp where
  | mcfg | mldb | mma | mrot | mscale | mzero | mrdacc | mwracc | remote
  deriving DecidableEq, Repr

/-- A pushed matrix command with the registers it took (R54, R159); a remote one names its sender and journal entry (R170). -/
structure MxCmd where
  op : MxOp
  acc : AccReg
  word : Word
  addr : Word
  pstride : Word
  mring : Word
  bhkey : Word
  scales : List (BitVec 32)
  int64 : Bool
  seq : Nat
  id : Nat
  sender : Option (Nat × Nat)
  deriving DecidableEq, Repr

/-- The command the matrix unit is performing (R163, R168): its start fault, whether it has computed, whether its
rotation step has swapped, its flags, its operand bytes found uncorrectable, whether one was used and the elements that it
records in MERRLOG when it completes (R54, R174), the result bytes not yet written (R102), the tick its step began and whether its stall
event has been raised. -/
structure MxRun where
  cmd : MxCmd
  fault : Bool
  computed : Bool
  swapped : Bool
  flags : BitVec 6
  bad : List Nat
  merr : Bool
  errs : List (Nat × Nat × Nat)
  out : List OutByte
  since : Nat
  raised : Bool
  deriving DecidableEq, Repr

/-- The matrix unit (R157 to R175): accumulator words by acc x 1024 + 32 i + j; `ring` is the MRING of the last MCFG to
run, `sending` a send that has not begun, `sent` that the own send of the step has arrived, `backIn` that the predecessor's has. -/
structure Matrix where
  ring : Word
  acc : SMap Word
  modes : BitVec 8
  xmodes : BitVec 8
  fifo : List MxCmd
  remote : List MxCmd
  lastRemote : Bool
  run : Option MxRun
  front : Half
  back : Half
  backIn : Bool
  sending : Bool
  sent : Bool
  credit : Bool
  fills : Nat
  nb : Nat
  scales : List (BitVec 32)
  cf : List (BitVec 32)
  pushes : Nat
  owed : Nat
  deriving DecidableEq, Repr

/-- The scan commands (R302). -/
inductive ScOp where
  | slocal | spass | sapply | sclose
  deriving DecidableEq, Repr

/-- A pushed scan command with the SCANCFG it took (R54). -/
structure ScCmd where
  op : ScOp
  cfg : Word
  addr : Word
  word : Word
  bhkey : Word
  seq : Nat
  id : Nat
  deriving DecidableEq, Repr

/-- The scan engine and the round state of its chain (R192 to R199). `ready`: the running command has computed; `out`: the result
bytes that it has not written yet (R102), with its flags. -/
structure Scan where
  fifo : List ScCmd
  run : Option ScCmd
  ready : Bool
  out : List OutByte
  fl : BitVec 6
  pushes : Nat
  sumCfg : Option Word
  lastLocal : Option Word
  sumA : List Word
  sumB : List Word
  carry : List Word
  final : List Word
  finalCfg : Word
  carryIn : Option (Word × List Word)
  everSpass : Bool
  spassPushed : Bool
  spassDone : Bool
  sclosed : Bool
  closedAt : Nat
  deriving DecidableEq, Repr

/-! ## Copies, messages, fences -/

/-- The copy shadow registers (R146). -/
structure CpRegs where
  csrc : Word
  cdst : Word
  clen : Word
  crows : Word
  csstr : Word
  cdstr : Word
  cflags : Word
  deriving DecidableEq, Repr

/-- The states of an outstanding copy (R311). -/
inductive CpState where
  | waiting | moving | complete
  deriving DecidableEq, Repr

/-- An outstanding copy: its snapshot, the mode, task and place it was launched in and the number of its instruction (R406), its progress
(R147 to R149, R311), the elements that it has read ahead, by their number (R104), the tick since which its requests wait (R154). -/
structure Copy where
  id : Nat
  regs : CpRegs
  user : Bool
  bhkey : Word
  task : Option Nat
  place : Nat
  nth : Nat
  state : CpState
  moved : Nat
  got : SMap Nat
  status : Nat
  flags : BitVec 5
  since : Nat
  deriving DecidableEq, Repr

/-- A packet, with the ring direction of its header (R136, R139, R151). -/
structure Pkt where
  src : Nat
  queue : Nat
  timed : Bool
  rdir : Nat
  seq : Nat
  tag : Word
  data : List Word
  deriving DecidableEq, Repr

/-- A packet under assembly (R137). -/
structure OpenPkt where
  hdr : Word
  tag : Word
  data : List Word
  deriving DecidableEq, Repr

/-- A packet as it stands in a receive queue: offset of its descriptor and bytes (R139). -/
structure RqEnt where
  off : Nat
  size : Nat
  src : Nat
  deriving DecidableEq, Repr

/-- The record of one receive queue (R139, R140, R319). -/
structure RecvQ where
  stream : Bool
  wr : Nat
  ents : List RqEnt
  delivered : Option RqEnt
  deriving DecidableEq, Repr

/-- A journal entry (R92): its number, the access's serial, the destination and the address. -/
structure JEnt where
  num : Nat
  id : Nat
  dst : Nat
  va : Word
  deriving DecidableEq, Repr

/-- A refusal of a remote access (R358). -/
structure Refusal' where
  va : Word
  low : BitVec 5
  load : Bool
  scatter : Bool
  deriving DecidableEq, Repr

/-- A free-slot count a stream's sender keeps (R40). -/
structure Slots where
  dst : Nat
  queue : Nat
  free : Nat
  deriving DecidableEq, Repr

/-- The network interface of a tile (R92, R136 to R144, R152, R358). -/
structure NetIf where
  journal : List JEnt
  refusals : List Refusal'
  opens : Vector (Option OpenPkt) 3
  replay : List (Nat × Nat × Nat)
  seqs : SMap Nat
  expect : SMap Nat
  reorder : List Pkt
  streams : List Slots
  timedWin : Bool
  mbox : List (Word × Word)
  held : List (Word × Word)
  rq : Vector RecvQ 4
  deriving DecidableEq, Repr

/-- What a fence token still waits for (R105): accesses and commands by serial, split X parts and engine pushes not yet issued by place. -/
inductive Cover where
  | access (id : Nat)
  | place (seq : Nat)
  deriving DecidableEq, Repr

/-- A slot of the fence token table (R106, R315). -/
structure Token where
  gen : Nat
  held : Bool
  engine : Bool
  covers : List Cover
  deriving DecidableEq, Repr

/-! ## Split accesses and outstanding loads -/

/-- Which elements the lanes of a vector access name (R269). -/
inductive VForm where
  | unit
  | stride (k : Int)
  | index (vs : VReg)
  | bcast
  deriving DecidableEq, Repr

/-- A vector access as its A part fixed it (R270, R55, R89); `got`: bytes of the own scratchpad that a load under way has read, by place; `done`: the 16 B units
that a store under way has written (R272). -/
structure VAcc where
  base : Word
  ty : LTy
  vm : MReg
  form : VForm
  pstride : Word
  bhkey : Word
  user : Bool
  sched : Bool
  id : Nat
  got : List (Nat × Byte)
  done : List Nat
  deriving DecidableEq, Repr

/-- Where a split store's bytes go: own scratchpad, a journal entry of a remote tile, or the GSB of the task open at the A part (none: the background task) at fixed physical places (R246, R273, R373). -/
inductive StoreTo where
  | self
  | remote (dst ent : Nat)
  | global (pas : List Nat) (task : Option Nat)
  deriving DecidableEq, Repr

/-- The X part of a split instruction (R221, R271). A y load from the own scratchpad has no access number. -/
inductive XPart where
  | loadY (yd : YReg) (size : Nat) (signed : Bool) (id : Option Nat) (data : Option (List Byte))
  | storeY (ys : YReg) (size : Nat) (va bhkey : Word) (tgt : StoreTo) (id : Nat)
  | loadV (vd : VReg) (a : VAcc) (data : Option (List Word))
  | storeV (vs : VReg) (a : VAcc) (tgt : StoreTo)
  deriving DecidableEq, Repr

/-- What an entry of a slice's queue is: a word, the X part of a split word, the place in X order of a split word whose A part
has not issued (R22, R221), or a result that A has still to push to a full port (R24, R313). -/
inductive Work where
  | word (i : Instr)
  | part (p : XPart)
  | split
  | push (rd : XReg) (v : Word)
  deriving DecidableEq, Repr

/-- An entry of a slice's queue: its place in program order, its address, the loop registers before its end test, and what it is (R22, R256). -/
structure Slot where
  seq : Nat
  pc : Word
  loops : Loops
  work : Work
  deriving DecidableEq, Repr

/-- A split load that X has issued and whose data it has still to write: its place, its part, the mask it has supplied (R23, R221,
R246). -/
structure OutLoad where
  seq : Nat
  part : XPart
  mask : Word
  deriving DecidableEq, Repr

/-- What an A word that has issued does only after an earlier split store to the same place has its data: a remote store or load to
the same tile, a global store, a global load (R100, R107, R246). -/
inductive Late where
  | store (dst ent id : Nat) (va bhkey : Word) (ws : List (Piece × Nat)) (timed : Bool) (due : Nat)
  | fetch (dst id : Nat) (va bhkey : Word) (places : List (List Piece)) (low : BitVec 5)
  | gsb (task : Option Nat) (bytes : List (Nat × Nat × Byte))
  | read (id : Nat) (task : Option Nat) (pas : List Nat)
  deriving DecidableEq, Repr

/-- A late effect with the place of its word. -/
structure LateEnt where
  seq : Nat
  what : Late
  deriving DecidableEq, Repr

/-- The port values that the word at an address has popped before it stalled, in a mode (R336). -/
structure Kept where
  pc : Word
  mode : Nat
  vals : List Word
  deriving DecidableEq, Repr

/-- What an X word finds that issues ahead of an A word which has not: the y, v and m registers, with the results still in flight, FFLAGS, the entries that it
pops and the numbers of those that it pushes; all of it stands again where that A word takes a trap (R354, log 10). -/
structure Before where
  y : Vector Word 16
  v : Vector Vec 32
  m : Vector Word 8
  fflags : Word
  pop0 : List Word
  pop1 : List Word
  push0 : Nat
  push1 : Nat
  deriving DecidableEq, Repr

/-- An X word that has issued ahead of A: its number, its address, and what it found, when its effect can be undone (R22, R24, R354). -/
structure Ahead where
  seq : Nat
  pc : Word
  before : Option Before
  deriving DecidableEq, Repr

/-- What a result in flight writes when it is delivered: a register, or an entry of the port with that number (R24, R223). -/
inductive Write where
  | x (r : XReg) (v : Word)
  | y (r : YReg) (v : Word)
  | v (r : VReg) (w : Vec)
  | m (r : MReg) (v : Word)
  | portX (r : XReg) (v : Word)
  | portY (r : YReg) (v : Word)
  deriving DecidableEq, Repr

/-- The units that one instruction holds until it delivers: those of the classes AD and XS (R224). -/
inductive OneUnit where
  | ad | xs
  deriving DecidableEq, Repr

/-- The result of a word that has issued and is within the latency of its class: its place, what it writes, the flags that it raises, whether its
form can raise any, the unit that it holds, and the tick of its delivery (R223, R224, R265). -/
structure Result where
  seq : Nat
  writes : List Write
  fflags : Word
  flagged : Bool
  unit : Option OneUnit
  due : Nat
  deriving DecidableEq, Repr

/-- An X word that issued ahead of an A word at which a trap or interrupt was then taken, and whose effect stays: the mode and address of that A word, and
its own address; it is not executed again (R22, R336, log 10). -/
structure Skip where
  mode : Nat
  base : Word
  pc : Word
  deriving DecidableEq, Repr

/-- The kinds of an outstanding response (R223, R246, R323). -/
inductive LoadKind where
  | global (bytes : List (Nat × Option Byte)) (task : Option Nat)
  | remote
  | amo
  deriving DecidableEq, Repr

/-- An outstanding load or AMO and the register it writes; none: a split load, whose data goes to its X part (R223, R246).
A global load keeps each byte's physical address, the byte where its task's GSB held it at issue, and the task (none: the
background task, R107, R108). `dead`: the serial number at which a later word wrote the register, so that the response no longer does;
`since`: the tick from which its request waits on the network (R154). -/
structure Load where
  id : Nat
  kind : LoadKind
  rd : Option XReg
  size : Nat
  signed : Bool
  va : Word
  lanes : Nat
  dead : Option Nat
  since : Nat
  deriving DecidableEq, Repr

/-- The deterministic atomic operations (R117). -/
inductive DForm where
  | add | min | max
  deriving DecidableEq, Repr

/-- The atomic operations that act at once (R323). -/
inductive AForm where
  | add | and | or | xor | min | max | swap | cas
  deriving DecidableEq, Repr

/-- A DAMO request (R116, R325). -/
structure Damo where
  id : Nat
  seq : Nat
  pa : Nat
  w : AWidth
  form : DForm
  b : Word
  rd : XReg
  recorded : Bool
  old : Word
  deriving DecidableEq, Repr

/-! ## Tasks, undo, snapshot -/

/-- A task of the current stretch between gang boundaries (R34 to R39, R96, R107); `sliced`: the slices that have merged it, while not all have
(R112). The GSB maps a physical byte to its virtual address and value (R373). -/
structure Task where
  ts : Nat
  pos : Nat
  bg : Bool
  skipped : Bool
  final : Bool
  merged : Bool
  pred : Option (Word × Word)
  gsb : SMap (Nat × Byte)
  reads : List Nat
  ck : Nat
  sliced : List Nat
  deriving DecidableEq, Repr

/-- A task checkpoint (R110): what an abort restores (R114). -/
structure Ckpt where
  pc : Word
  rd : XReg
  regs : Regs
  ur : URegs
  tstamp : Word
  mbox : List (Word × Word)
  spad : Memory
  acc : SMap Word
  modes : BitVec 8
  env : Vector Env 8
  front : Half
  back : Half
  fills : Nat
  nb : Nat
  scales : List (BitVec 32)
  bgGsb : SMap (Nat × Byte)
  damos : List Damo
  serial : Nat
  deriving DecidableEq, Repr

/-- The task state of a tile (R36, R37, R96, R110): `area` bytes of store-buffer area, from the virtual address `abase` when the service
has given one (R385); the timestamps and positions of the aborted tasks that have not run again (R112, R114). -/
structure TaskSt where
  hasSched : Bool
  opened : Bool
  region : Bool
  tasks : List Task
  bg : Task
  cks : List Ckpt
  area : Nat
  abase : Option Nat
  redo : List (Nat × Nat)
  deriving DecidableEq, Repr

/-- A record of an AMO, for replay (R395, R401): its address is the thread's own, which its frame's move leaves as it is (R376). -/
structure AmoRec where
  va : Word
  w : AWidth
  form : AForm
  b : Word
  c : Word
  old : Word
  deriving DecidableEq, Repr

/-- The undo region's use (R395, R397): bytes, lines, accumulator rows, envelope registers and latch items logged, whether
logging has stopped and whether that event has been raised; the AMOs issued in the superstep, the records of those that have acted by their
number in it, and those still to match in a replay (R401). The region starts at the virtual address `base` when the service has given
one, and `written` bytes of its records stand in committed memory. -/
structure Undo where
  base : Option Nat
  size : Nat
  used : Nat
  written : Nat
  lines : List Nat
  accRows : List Nat
  envs : List Nat
  full : Bool
  raised : Bool
  latch : List Nat
  calls : List Nat
  amos : SMap AmoRec
  replay : SMap AmoRec
  deriving DecidableEq, Repr

/-- The snapshot of a gang boundary (R56, R396). -/
structure Snap where
  regs : Regs
  ur : URegs
  spad : Memory
  acc : SMap Word
  modes : BitVec 8
  env : Vector Env 8
  front : Half
  back : Half
  fills : Nat
  nb : Nat
  scales : List (BitVec 32)
  ni : NetIf
  cpNext : Nat
  scan : Scan
  pc : Word
  status : Word
  serial : Nat
  passedTerm : Bool
  ring : Word
  pushes : Nat
  xl : List OutLoad
  owed : List (XReg × Word)
  skip : List Skip
  deriving DecidableEq, Repr

/-! ## A tile -/

/-- What fetch does after the instruction just executed: pass to the next word, already redirected, held at the word with nothing
done, stalled at it with its ports popped (R336), waiting at it, or trapped. -/
inductive Flow where
  | seq | jump | hold | stall | wait | trap
  deriving DecidableEq, Repr

/-- Fetch and issue (R22): fetch address, the word being executed, unissued A words, the X issue queue, the split loads that X has
issued and whose data is outstanding, what waits behind split stores, the ports popped by stalled words, the X words that have issued
ahead of A, and those not to be executed again; the results in flight; the ticks before which A, X and fetch stand still (R22, R249); how many words
A has issued, and the number of the last to write each j register (R253). -/
structure Fetch where
  pc : Word
  ipc : Word
  seq : Nat
  iseq : Nat
  flow : Flow
  loops : Loops
  aq : List Slot
  xq : List Slot
  xl : List OutLoad
  late : List LateEnt
  kept : List Kept
  ahead : List Ahead
  skip : List Skip
  res : List Result
  aAt : Nat
  xAt : Nat
  fAt : Nat
  an : Nat
  jat : Vector (Option Nat) 4
  deriving DecidableEq, Repr

/-- The waits of R45, IDLE (R333), and FRAMEINV with the tiles that have not acknowledged (R335). -/
inductive Wait where
  | barrier (rd : Option XReg) (val : Word)
  | rcv (q : QNum) (rd : XReg)
  | stream (dst q : Nat)
  | wmsg
  | swait (vd : VReg)
  | fwait (slot : Nat)
  | idle
  | inval (va : Nat) (left : List Nat)
  deriving DecidableEq, Repr

/-- Where the thread of a tile stands. -/
inductive Stat where
  | idle
  | launched
  | running
  | waiting (w : Wait)
  | halted
  | stopped (back : Option Wait)
  | moving (back : Option Wait)
  deriving DecidableEq, Repr

/-- Thread control (R45, R131, R133); whether MERR became 1 in this superstep, whether an element failed in it (R402); the spare that a migration under way has chosen, and
the tick at which the context has moved (R419). -/
structure Ctl where
  stat : Stat
  since : Nat
  raised : Bool
  passedTerm : Bool
  serial : Nat
  poisoned : Bool
  failed : Bool
  moveTo : Option Nat
  moveEnd : Option Nat
  deriving DecidableEq, Repr

/-- A translation-buffer entry (R370): 64 KiB frames covered from the virtual frame `vf`, the leaf bits, the grant. -/
structure TlbEnt where
  vf : Nat
  frames : Nat
  pfn : Nat
  pfi : Nat
  r : Bool
  w : Bool
  x : Bool
  u : Bool
  deriving DecidableEq, Repr

/-- Redundant pairing (R405 to R407): the partner, the running touchmark, the instructions retired, those of them up to the last
exchange, those agreed on, the touchmark sent in the exchange under way and its arrival tick, the touchmark received, disagreements in
this superstep, and whether one has still to roll the gang back (R408). -/
structure Pair where
  partner : Option Nat
  leader : Bool
  mark : Word
  count : Nat
  upTo : Nat
  agreed : Nat
  sent : Word
  due : Nat
  inbox : Option Word
  bad : Nat
  split : Bool
  deriving DecidableEq, Repr

/-- Wear states (R427). -/
inductive WearState where
  | service | derated | drained | retired
  deriving DecidableEq, Repr

/-- The assay record and last temperature reading of a physical tile (R418, R425); whether it has been vacated and has not cooled since
(R420); failed reads of its monitors in a row (R424). -/
structure Assay where
  w : Nat
  bti : Nat
  em : Nat
  state : WearState
  mflt : Bool
  susp : Bool
  stick : Nat
  temp : Nat
  hot : Bool
  misses : Nat
  deriving DecidableEq, Repr

/-- A physical tile with the thread it holds (R21): gang identifier and logical index when it holds one; `latent`: scratchpad bytes in
which scrubbing has found an uncorrectable error (R398, R410). -/
structure Tile where
  gang : Option Nat
  lidx : Nat
  ctl : Ctl
  regs : Regs
  ur : URegs
  ir : IRegs
  sr : SRegs
  fe : Fetch
  spad : Memory
  latent : List Nat
  env : Vector Env 8
  envq : List EnvCmd
  mx : Matrix
  scan : Scan
  cp : CpRegs
  cpBank : CpRegs
  cpBankS : CpRegs
  copies : List Copy
  cpNext : Nat
  ni : NetIf
  tokens : Vector Token 8
  loads : List Load
  damos : List Damo
  task : TaskSt
  undo : Undo
  snap : Option Snap
  tlb : List TlbEnt
  pair : Pair
  assay : Assay
  deriving DecidableEq, Repr

/-! ## Dies, partitions, gangs -/

/-- A trace-buffer entry (R416). -/
structure TraceEnt where
  tick : Nat
  pat : BitVec 16
  why : Nat
  deriving DecidableEq, Repr

/-- A cluster's swallow pattern and trace buffer (R411, R416). -/
structure Cluster where
  pat : BitVec 16
  trace : List TraceEnt
  lost : Nat
  deriving DecidableEq, Repr

/-- A pattern request not yet applied, of one cluster: whether the voltage at its arrival suffices; a gang's request names
it (R413, R414). -/
structure PatReq where
  cluster : Nat
  pat : BitVec 16
  gang : Option Nat
  why : Nat
  atOnce : Bool
  deriving DecidableEq, Repr

/-- An error-log record (R410). -/
structure ErrRec where
  kind : Nat
  pidx : Nat
  component : UcUnit
  rcount : Nat
  addr : Word
  tick : Nat
  deriving DecidableEq, Repr

/-- A frame grant (R365). -/
structure Grant where
  pfn : Nat
  gv : Bool
  mir : Bool
  lg : Bool
  mpfn : Nat
  deriving DecidableEq, Repr

/-- A translation walk queued at a die's walkers (R371). -/
structure Walk where
  part : Nat
  vf : Nat
  waiters : List (Nat × Word × Access)
  deriving DecidableEq, Repr

/-- What the walkers of a die keep (R371): a valid non-leaf entry of a table of a partition, by its partition address; a valid grant, by
its partition frame. -/
inductive WalkEnt where
  | table (part ea e : Nat)
  | grant (part pfi : Nat) (g : Grant)
  deriving DecidableEq, Repr

/-- A compute die with its base die's error log (R14, R411 to R416, R422). Voltage in mV; a ramp's target, and the tick of
the ramp's start or last step. -/
structure Die where
  clusters : Vector Cluster 48
  mv : Nat
  ramp : Option Nat
  rampAt : Nat
  reqs : List PatReq
  errlog : List ErrRec
  powered : Bool
  dltimeout : BitVec 16
  walks : List Walk
  wcache : List WalkEnt
  deriving DecidableEq, Repr

/-- A partition (R363, R365, R378): its physical groups (12 d + g, in the order they joined), the level-1 table address, the
grants that differ from its first placement (R366), the frames at its end that the service has taken for its own use and the
virtual frames that it has mapped for itself (log 18); `key` is the draw that its keys are (R171, R439). -/
structure Partition where
  id : Nat
  shape : Shape
  groups : List Nat
  root : Word
  grants : SMap Grant
  svc : Nat
  sva : Nat
  key : Nat
  deriving DecidableEq, Repr

/-- A cue entry in a window (R121, R123): its stream index, its number among the die's cross-die entries of its XTAG (R130),
whether it is well formed, its fields, and whether this die reported it ready. -/
structure Cue where
  idx : Nat
  k : Nat
  ok : Bool
  xtag : BitVec 8
  vote : BitVec 8
  s : Bool
  v : Bool
  term : Bool
  timed : Bool
  pkg : Bool
  dies : BitVec 8
  member : BitVec 192
  reported : Bool
  deriving DecidableEq, Repr

/-- A ready report: the die it is from, its entry, the values its members contribute, its tick (R130). -/
structure Report where
  die : Nat
  cue : Cue
  votes : List Word
  tick : Nat
  deriving DecidableEq, Repr

/-- The barrier mask unit's records of one gang on one logical die (R121, R130): the stream, the cross-die entries fetched
so far by XTAG, the window, arrivals with their vote values, the ready reports received. -/
structure Bmu where
  base : Word
  count : Nat
  next : Nat
  seen : SMap Nat
  win : List Cue
  arrived : SMap (Option Word)
  reports : List Report
  deriving DecidableEq, Repr

/-- A fired entry awaiting its release (R129): per die its members; the vote result; the earliest release tick. -/
structure Fired where
  members : List (Nat × BitVec 192)
  result : Word
  timed : Bool
  term : Bool
  pkg : Bool
  reportedPkg : Bool
  boundary : Bool
  due : Nat
  deriving DecidableEq, Repr

/-- A gang boundary in progress (R112): the window entries that meet there, by logical die and stream index, and whether
they are cross-die. -/
structure Commit where
  keys : List (Nat × Nat)
  cross : Bool
  deriving DecidableEq, Repr

/-- The stages of a gang (R43, R387, R390, R394, R399): `resuming` is stopped with its resumption asked for. -/
inductive GStat where
  | placed | running | stopping | stopped | resuming | rolling | ended | failed
  deriving DecidableEq, Repr

/-! ## The network -/

/-- What travels (R92, R136 to R152, R163, R170 to R172, R197, R130, R323). A remote access of several 16 B units may stand with some of them performed: a
store keeps the writes left, a load the bytes that it has read (R97, R272). -/
inductive Msg where
  | store (ent id : Nat) (va bhkey : Word) (writes : List (Piece × Nat)) (timed begun : Bool)
  | storeAck (ent : Nat)
  | refusal (r : Refusal') (ent : Option Nat) (load : Option Nat)
  | load (id : Nat) (va bhkey : Word) (places : List (List Piece)) (low : BitVec 5) (got : List (Nat × Byte))
  | loadResp (id : Nat) (data : List Word) (ok : Bool)
  | packet (p : Pkt)
  | ack (queue seq : Nat)
  | retry (p : Pkt)
  | retryCmd (ent id : Nat) (cap : Word) (cmd : MxCmd) (clean : Bool)
  | slotBack (queue : Nat) (lost : Option Nat)
  | mail (w0 w1 : Word)
  | mcmd (ent id : Nat) (cap : Word) (cmd : MxCmd) (clean : Bool)
  | carry (cfg : Word) (lanes : List Word)
  | ring (h : Half) (logl : Nat)
  | credit
  | ready (r : Report)
  | amo (id pa : Nat) (w : AWidth) (form : AForm) (b c : Word)
  | amoResp (id stack : Nat) (old : Word)
  | damo (id : Nat)
  deriving DecidableEq, Repr

/-- A network item of gang `g` from one logical index to another (for a ready report, between logical dies); `due` is the earliest tick of its arrival, `since` the tick from which it waits on the network (R154), `nth` the number of instructions its thread had retired when it was sent (R406). -/
structure Flight where
  g : Nat
  src : Nat
  dst : Nat
  msg : Msg
  due : Nat
  parked : Bool
  since : Nat
  nth : Nat
  deriving DecidableEq, Repr

/-! ## Gangs -/

/-- The saved contexts of a gang (R387 to R389): its tiles and their clusters' patterns by logical
index, the pair records of followers by their leader's logical index (R405), its parked items, its barrier records, its records of the superstep
(R392); `key` is the draw that its own keys are (R439). -/
structure Context where
  tiles : SMap Tile
  pats : SMap (BitVec 16)
  follow : SMap Pair
  net : List Flight
  bmus : List Bmu
  fired : List Fired
  step : Nat
  commit : Option Commit
  staged : SMap Byte
  consumed : Nat
  poisonRolled : Bool
  serial : Nat
  bcause : Nat
  btake : List Nat
  suspect : Nat
  key : Nat
  deriving DecidableEq, Repr

/-- A gang (R25 to R29, R42, R121, R381). `bcause` and `suspect`: the B cause of this superstep and the tile it names; `btake`: the members
that take it when they arrive again (R356);
`hcount`: entries of the hallmark table written or compared; `rolling`: the tick and LASTERR of a scheduled rollback; `ate`: the tile, unit and address of
the consumption that a scheduled rollback is for (R399); `sealed`: the contexts are saved; `slice`: no commit since they were (R392); `auto`: the service stopped the gang of its own accord
and resumes it so; `emerg`: the dies whose emergency save it has still to end (R421); `prior`: the gangs whose place this slice took; `rings`: its
ring table, by first slot and LOGL (R382); `wake`: the resumption tick T1 once it is named (R390); `resumeAt`: the
tick that a PREEMPT asks for before the gang is saved (R431); `anew`: its partition has given up its old places (R379);
`asked`: the PREEMPT requests that wait for its T1 (R431). -/
structure Gang where
  id : Nat
  part : Nat
  dies : List Nat
  groups : Nat
  det : Bool
  hsub : Nat
  poison : Bool
  gsblog2 : Nat
  htab : Word
  evring : Word
  evlog2 : Nat
  evlost : Nat
  pkg : Nat
  npkg : Nat
  key : Nat
  l2p : SMap Nat
  stat : GStat
  t0 : Nat
  ts : Nat
  t1 : Nat
  step : Nat
  bmus : List Bmu
  bmuSnap : List Bmu
  fired : List Fired
  commit : Option Commit
  staged : SMap Byte
  undo : Nat
  consumed : Nat
  poisonRolled : Bool
  serial : Nat
  bcause : Nat
  btake : List Nat
  suspect : Nat
  hcount : Nat
  rolling : Option (Nat × Nat)
  ate : Option (Nat × UcUnit × Word)
  sealed : Bool
  saved : Option Context
  slice : Bool
  auto : Bool
  emerg : List Nat
  prior : List Nat
  rings : List (Nat × Nat)
  wake : Option Nat
  endAtBoundary : Bool
  resumeAt : Option Nat
  anew : Bool
  asked : List Request
  deriving DecidableEq, Repr

/-! ## The service -/

/-- A reply (R432): the header, status, reason, further body. -/
structure Reply extends Header where
  status : Nat
  reason : Nat
  body : List Word
  deriving DecidableEq, Repr

/-- A session (R430, R431): whether it is the operator's, its partition, last processed SEQ (none at first) and the stored
reply, the nonce and the public key that opened it (R434, R438). Session 0 is that of the ATTEST requests. -/
structure Session where
  id : Word
  operator : Bool
  part : Option Nat
  last : Option Nat
  reply : Option Reply
  nonce : BitVec 256
  pub : BitVec 776
  deriving DecidableEq, Repr

/-- Boot (R437): not begun, done, or halted with a code. -/
inductive Boot where
  | cold
  | up
  | halted (code : Nat)
  deriving DecidableEq, Repr

/-- What the service reports of its own accord (R375, R392, R394, R399, R422). -/
inductive Notice where
  | complete (g : Nat)
  | failed (g : Nat) (pidx : Nat) (addr : Word)
  | aborted (g latePkg amos : Nat)
  | trip (d : Nat)
  | frameKept (pfn : Nat)
  deriving DecidableEq, Repr

/-- A granted frame that is being replaced (R376): its lines copied, whether PFN has moved, whether its shootdown is complete, and the
commit step of each gang of the partition at that time; `scrap`: the old frame joins the scrap list, one that a LOAD has moved elsewhere is free
again (R366). -/
structure FrameMove where
  part : Nat
  pfi : Nat
  old : Nat
  new : Nat
  lines : List Nat
  switched : Bool
  shot : Bool
  steps : SMap Nat
  scrap : Bool
  deriving DecidableEq, Repr

/-- The state of a tile in a read-out: in clear where it is no tenant's; else encrypted under a key derived from the exchange with the tenant's ATTEST key
`pub`, which opens it alone; with no such key nobody opens it (R434, R441). The ciphertext is kept as what it encrypts. -/
inductive Readout where
  | clear (p : Nat) (tile : Tile)
  | sealed (p part : Nat) (pub : Option (BitVec 776)) (tile : Tile)
  deriving DecidableEq, Repr

/-- The service's own records (28_service_boot_and_security; R375 to R377, R444): `retired` frames are out of use until the
next boot; `corrected` holds the ticks of a frame's corrected errors; `bad` the 64 B lines of memory whose integrity tag is bad (R376); `ppm` is the trim of
the master clock; `draws` counts the keys drawn from the base dies' random-number source (R439); `image`: the tiles as a freeze stopped them, `readout`: what
the last read-out returned, `tap`: the boot halt code and the device identity as last read (R434, R441). -/
structure Svc where
  boot : Boot
  frozen : Option Nat
  down : Bool
  coord : Nat
  sessions : List Session
  replies : List Reply
  notices : List Notice
  attests : Nat
  launches : Nat
  version : Nat
  scrap : List Nat
  retired : List Nat
  degraded : List Nat
  corrected : SMap (List Nat)
  bad : List Nat
  moves : List FrameMove
  ppm : Int
  shutdown : Bool
  draws : Nat
  image : Option (SMap Tile)
  readout : List Readout
  tap : List Word
  deriving DecidableEq, Repr

/-! ## The package -/

/-- A turn: a thread may issue, a named move is made, or ticks pass (R96; the model's own, log 1). -/
inductive Turn where
  | thread (p : Nat)
  | move (i : Instr)
  | ticks (n : Nat)
  deriving DecidableEq, Repr

/-- The whole package. `turns`, `cur`, `pos` and `steps` are the model's own (log 1, log 2). -/
structure State where
  turns : List Turn
  cur : Nat
  pos : Nat
  steps : Nat
  tick : Nat
  tiles : SMap Tile
  dies : Vector Die 8
  parts : List Partition
  gangs : List Gang
  mem : Memory
  net : List Flight
  svc : Svc
  deriving DecidableEq, Repr

/-- Why the machine stops. -/
inductive Fault where
  /-- Raised by step: a shutdown has powered the package down, so nothing steps (R435, log 72). Safe. -/
  | noPower
  deriving DecidableEq, Repr

/-- Why an instruction has no meaning in the model. -/
inductive Refusal where
  /-- Raised by exec for an instruction not modelled yet. Safe. -/
  | notModelled (mnemonic : String)
  deriving DecidableEq, Repr

/-- What a meaning answers. -/
abbrev Out := Host.Outcome State Fault Refusal

/-! ## Reset -/

def Loop.reset : Loop := ⟨0, 0, 0⟩

def Loops.reset : Loops := ⟨.reset, .reset, []⟩

/-- R47, column "Value at launch", and R7. -/
def Regs.reset : Regs where
  x := .replicate 32 0
  y := .replicate 16 0
  v := .replicate 32 0
  m := .replicate 8 0
  j := .replicate 4 0
  loop := .reset
  qax0 := []
  qax1 := []
  qxa0 := []
  qxa1 := []

/-- R52, R53. -/
def URegs.reset : URegs where
  fflags := 0
  pstride := 0
  rqbase := .replicate 4 0
  rqsize := .replicate 4 0
  estat := 0
  etol := 0
  elimit := 256
  mring := 0
  scancfg := 0
  cursor := 0

/-- R52; TILEID, DOMAIN and CHAINPOS before a launch: log 3. -/
def IRegs.reset : IRegs where
  tileid := 0
  domain := 0
  tstamp := 0xFFFF_FFFF_FFFF
  permit := 0
  merrlog := 0
  chainpos := 0
  netstat := 0
  relstat := 1
  wearacc := 0

/-- R361; the LFSR of a zero seed, R151. -/
def SRegs.reset : SRegs where
  status := 0
  cause := 0
  epc := 0
  tval := 0
  tvec := 0
  ssave := .replicate 4 0
  inten := 0
  intpend := 0
  tickcmp := 0xFFFF_FFFF_FFFF_FFFF
  bwlimit := 0
  rslimit := 0
  bhkey := 0
  lfsrseed := 0
  lfsr := 0xACE1
  ovfbase := 0
  ovfsize := 0
  ovfstat := 0
  capval := 0
  minting := none
  srcs := []

/-- The empty proper envelope on [-inf, +inf] (R47, R177). -/
def Env.empty : Env := ⟨true, 0x8000_0000_0000_0000, 0x7FFF_FFFF_FFFF_FFFF, [], []⟩

def Half.empty : Half := ⟨0, none, none, []⟩

def Matrix.reset : Matrix where
  ring := 0
  acc := []
  modes := 0
  xmodes := 0
  fifo := []
  remote := []
  lastRemote := true
  run := none
  front := .empty
  back := .empty
  backIn := false
  sending := false
  sent := false
  credit := true
  fills := 0
  nb := 0
  scales := []
  cf := []
  pushes := 0
  owed := 0

def Scan.reset : Scan where
  fifo := []
  run := none
  ready := false
  out := []
  fl := 0
  pushes := 0
  sumCfg := none
  lastLocal := none
  sumA := []
  sumB := []
  carry := []
  final := []
  finalCfg := 0
  carryIn := none
  everSpass := false
  spassPushed := false
  spassDone := false
  sclosed := false
  closedAt := 0

def CpRegs.reset : CpRegs := ⟨0, 0, 0, 0, 0, 0, 0⟩

def RecvQ.reset : RecvQ := ⟨false, 0, [], none⟩

def NetIf.reset : NetIf where
  journal := []
  refusals := []
  opens := .replicate 3 none
  replay := []
  seqs := []
  expect := []
  reorder := []
  streams := []
  timedWin := false
  mbox := []
  held := []
  rq := .replicate 4 .reset

/-- The background task at the start of a stretch (R35). -/
def Task.background : Task where
  ts := Config.bgStamp
  pos := 4096
  bg := true
  skipped := false
  final := false
  merged := false
  pred := none
  gsb := []
  reads := []
  ck := 0
  sliced := []

def TaskSt.reset : TaskSt where
  hasSched := false
  opened := false
  region := false
  tasks := []
  bg := .background
  cks := []
  area := 0x10_0000
  abase := none
  redo := []

def Undo.reset : Undo := ⟨none, 0x1_0000, 0, 0, [], [], [], false, true, [], [], [], []⟩

def Fetch.reset : Fetch where
  pc := 0
  ipc := 0
  seq := 0
  iseq := 0
  flow := .seq
  loops := .reset
  aq := []
  xq := []
  xl := []
  late := []
  kept := []
  ahead := []
  skip := []
  res := []
  aAt := 0
  xAt := 0
  fAt := 0
  an := 0
  jat := .replicate 4 none

def Ctl.reset : Ctl := ⟨.idle, 0, false, false, 0, false, false, none, none⟩

def Pair.reset : Pair := ⟨none, false, 0, 0, 0, 0, 0, 0, none, 0, false⟩

def Assay.reset : Assay := ⟨0, 0, 0, .service, false, false, 0, 25, false, 0⟩

def Tile.reset : Tile where
  gang := none
  lidx := 0
  ctl := .reset
  regs := .reset
  ur := .reset
  ir := .reset
  sr := .reset
  fe := .reset
  spad := []
  latent := []
  env := .replicate 8 .empty
  envq := []
  mx := .reset
  scan := .reset
  cp := .reset
  cpBank := .reset
  cpBankS := .reset
  copies := []
  cpNext := 1
  ni := .reset
  tokens := .replicate 8 ⟨0, false, false, []⟩
  loads := []
  damos := []
  task := .reset
  undo := .reset
  snap := none
  tlb := []
  pair := .reset
  assay := .reset

/-- R411, R412, R361: the reset pattern, its voltage (log 6), DLTIMEOUT. -/
def Die.reset : Die where
  clusters := .replicate 48 ⟨0xFFFF, [], 0⟩
  mv := 850
  ramp := none
  rampAt := 0
  reqs := []
  errlog := []
  powered := true
  dltimeout := 1024
  walks := []
  wcache := []

def Svc.reset : Svc where
  boot := .cold
  frozen := none
  down := false
  coord := 0
  sessions := []
  replies := []
  notices := []
  attests := 0
  launches := 0
  version := 0
  scrap := []
  retired := []
  degraded := []
  corrected := []
  bad := []
  moves := []
  ppm := 0
  shutdown := false
  draws := 0
  image := none
  readout := []
  tap := []

/-- The package right after reset (R7): no gang, no partition, every tile at its reset values, TICK 0. -/
def State.reset : State where
  turns := []
  cur := 0
  pos := 0
  steps := 0
  tick := 0
  tiles := []
  dies := .replicate 8 .reset
  parts := []
  gangs := []
  mem := []
  net := []
  svc := .reset

end Sys2Proof.Machine
end

