-- ==== Sys2Proof/Machine/Operands.lean ====
section
/-! DEFINITION. Operands: bytes and words, the address map, windows and swizzle, the places of elements, and the lanes of a
vector register (05_scratchpad_and_address_windows; R61, R62, R266, R269). -/

namespace Sys2Proof.Machine

/-! ## Sparse maps and memory -/

/-- The value at a key, or `d`. -/
def smGet {α : Type} (d : α) (k : Nat) : SMap α → α
  | [] => d
  | (k', v) :: r => if k' = k then v else smGet d k r

/-- Sets the value at a key. -/
def smPut {α : Type} (k : Nat) (v : α) : SMap α → SMap α
  | [] => [(k, v)]
  | (k', v') :: r => if k < k' then (k, v) :: (k', v') :: r else if k = k' then (k, v) :: r else (k', v') :: smPut k v r

/-- Drops a key. -/
def smDel {α : Type} (k : Nat) (m : SMap α) : SMap α := m.filter (fun e => e.1 != k)

/-- One byte of a memory. -/
def memRead (a : Nat) : Memory → Byte
  | [] => unlistedByte
  | (a', b) :: r => if a' = a then b else memRead a r

/-- Writes one byte, keeping the canonical form: the byte an unlisted address reads as is not listed. -/
def memWrite (a : Nat) (b : Byte) : Memory → Memory
  | [] => if b = unlistedByte then [] else [(a, b)]
  | (a', b') :: r =>
    if a < a' then (if b = unlistedByte then (a', b') :: r else (a, b) :: (a', b') :: r)
    else if a = a' then (if b = unlistedByte then r else (a, b) :: r)
    else (a', b') :: memWrite a b r

/-- Writes bytes at listed addresses in order. -/
def memWrites (ws : List (Nat × Byte)) (m : Memory) : Memory := ws.foldl (fun m w => memWrite w.1 w.2 m) m

/-! ## Little-endian values (R4) -/

def leNat : List Byte → Nat
  | [] => 0
  | b :: r => b.toNat + 256 * leNat r

def leBytes : Nat → Nat → List Byte
  | 0, _ => []
  | n + 1, v => BitVec.ofNat 8 v :: leBytes n (v / 256)

/-- A field [hi:lo] of a word as a number. -/
def bitsOf (w : Word) (hi lo : Nat) : Nat := w.toNat / 2 ^ lo % 2 ^ (hi + 1 - lo)

/-- A loaded value extended to 64 bits (R247). -/
def extend (signed : Bool) (size v : Nat) : Word :=
  if signed then BitVec.ofInt 64 (intOf (8 * size) v) else BitVec.ofNat 64 v

/-! ## The address map (R82 to R85) -/

/-- What an address names. `fmt`, `span` and `pln` are the fields of R84. -/
inductive Region where
  | self (off fmt span pln : Nat)
  | remote (l off fmt span : Nat)
  | global (va : Nat)
  deriving DecidableEq, Repr

/-- The region of an address, none outside the three. -/
def region (a : Word) : Option Region :=
  let n := a.toNat
  if n < Config.globalTop then some (.global n)
  else if Config.selfBase ≤ n ∧ n < Config.selfTop then
    some (.self (bitsOf a 20 0) (bitsOf a 23 21) (bitsOf a 26 24) (bitsOf a 29 27))
  else if Config.remoteBase ≤ n ∧ n < Config.remoteTop then
    let k := n - Config.remoteBase
    some (.remote (k / Config.remoteSpan) (bitsOf a 20 0) (bitsOf a 23 21) (bitsOf a 26 24))
  else none

/-! ## Banks and swizzle (R88, R89) -/

/-- H(a) of R89 for row a[20:10]. -/
def keyedHash (bhkey : Word) (row : Nat) : Nat :=
  let mul := (bhkey.toNat % 2 ^ 16) ||| 1
  (row * mul + bitsOf bhkey 31 16) % 2 ^ 16 / 2 ^ 10

/-- The bank of offset a under a span code (R88). -/
def bankOf (span : Nat) (bhkey : Word) (a : Nat) : Nat :=
  let b := a / 16 % 64
  if span = 0 then b
  else if span = 7 then b ^^^ keyedHash bhkey (a / 1024 % 2048)
  else b ^^^ (a / 1024 % 64 * 2 ^ (span - 1) % 64)

/-- The place of a scratchpad byte: row x 1,024 + bank x 16 + byte of its unit. -/
def placeOf (span : Nat) (bhkey : Word) (a : Nat) : Nat :=
  a / 1024 % 2048 * 1024 + bankOf span bhkey a * 16 + a % 16

/-! ## Windows and elements (R86, R87, R269) -/

/-- The element format of a window: none for RAW; PLANE has its own rule. -/
def winFmt : Nat → Option NFmt
  | 2 => some .e2m1
  | 3 => some .e4m3
  | 4 => some .e5m2
  | 5 => some .bf16
  | 6 => some .f32
  | 7 => some .i8
  | _ => none

def laneBits (t : LTy) : Nat := nfBits (laneFmt t)

/-- The storage width in bits of a window for a lane type. -/
def winBits (fmt : Nat) (t : LTy) : Nat :=
  match winFmt fmt with
  | some f => nfBits f
  | none => laneBits t

/-- The pieces of an element of s bits at element position e from an offset (R59, R269). -/
def elemPieces (off : Int) (s : Nat) (e : Int) : List Piece :=
  if s = 4 then
    let q := 2 * off + e
    [⟨(q / 2).toNat, (q % 2).toNat * 4, 4⟩]
  else (List.range (s / 8)).map fun i => ⟨(off + e * (s / 8 : Nat)).toNat + i, 0, 8⟩

/-- The pieces of PLANE element i of k planes, the least significant plane first (R61, R62). -/
def planePieces (off : Nat) (pstride : Nat) (k i : Nat) : List Piece :=
  (List.range k).map fun j => ⟨off + (k - 1 - j) * pstride + i / 8, i % 8, 1⟩

/-- The number the pieces of an element hold, each byte read by `rd`. -/
def readPieces (rd : Nat → Byte) : List Piece → Nat
  | [] => 0
  | p :: r => (rd p.off).toNat / 2 ^ p.bit % 2 ^ p.n + 2 ^ p.n * readPieces rd r

/-- A byte with one piece of it replaced. -/
def setBits (b : Byte) (bit n v : Nat) : Byte :=
  if n = 8 then BitVec.ofNat 8 v
  else BitVec.ofNat 8 (b.toNat - b.toNat / 2 ^ bit % 2 ^ n * 2 ^ bit + v % 2 ^ n * 2 ^ bit)

/-- The pieces of an element with the bits each receives. -/
def writePieces (v : Nat) : List Piece → List (Piece × Nat)
  | [] => []
  | p :: r => (p, v % 2 ^ p.n) :: writePieces (v / 2 ^ p.n) r

/-- A stored element in a window to a lane (R73, R87): PLANE elements are k-bit integers. -/
def convertIn (fmt k : Nat) (t : LTy) (c : Nat) : Nat × Fl :=
  if fmt = 1 then
    let v := intOf k c
    match nfKind (laneFmt t) with
    | .int w => (codeOf w (satInt w v), 0)
    | .flt f => intToFlt v f .rne true
    | .e8m0 => (0, 0)
  else match winFmt fmt with
    | none => (c, 0)
    | some f => convert (laneFmt t) f .rne true c

/-- A lane to a stored element in a window (R73, R87). -/
def convertOut (fmt k : Nat) (t : LTy) (c : Nat) : Nat × Fl :=
  if fmt = 1 then
    match nfKind (laneFmt t) with
    | .int w => (codeOf k (satInt k (intOf w c)), 0)
    | .flt f =>
      match f.dec c with
      | .nan _ => (0, flInvalid)
      | .inf n => (codeOf k (if n then -(2 ^ (k - 1) : Nat) else (2 ^ (k - 1) : Nat) - 1), flInvalid)
      | .fin n m e =>
        let (r, inex) := roundAt .rne n m e 0
        (codeOf k (satInt k (if n then -(r : Int) else r)), flIf inex flInexact)
    | .e8m0 => (0, 0)
  else match winFmt fmt with
    | none => (c, 0)
    | some f => convert f (laneFmt t) .rne true c

/-! ## Lanes (R49, R266) -/

/-- Lanes of a type. -/
def lanesOf (t : LTy) : Nat := 512 / laneBits t

/-- Lane i of w bits. -/
def laneGet (w : Nat) (v : Vec) (i : Nat) : Nat := v.toNat / 2 ^ (w * i) % 2 ^ w

/-- A vector from its lanes of w bits, lane 0 first. -/
def ofLanes (w : Nat) (ls : List Nat) : Vec :=
  BitVec.ofNat 512 (ls.foldr (fun c acc => c % 2 ^ w + 2 ^ w * acc) 0)

/-- The lanes of w bits. -/
def lanes (w : Nat) (v : Vec) : List Nat := (List.range (512 / w)).map (laneGet w v)

/-- Whether a mask lets lane i of b bytes through (R49). -/
def laneOn (b : Nat) (m : Word) (i : Nat) : Bool := m.getLsbD (b * i)

/-- A mask with the b bits of element i set to c (R49). -/
def maskPut (b i : Nat) (c : Bool) (m : Word) : Word :=
  let ones : Word := BitVec.ofNat 64 ((2 ^ b - 1) * 2 ^ (b * i))
  if c then m ||| ones else m &&& ~~~ones

/-- Lane by lane under a write mask: new lanes where it is on, old lanes elsewhere; flags of the lanes that are on. -/
def maskedLanes (w : Nat) (m : Word) (old : Vec) (new : Nat → Nat × Fl) : Vec × Fl :=
  let rs := (List.range (512 / w)).map fun i =>
    if laneOn (w / 8) m i then new i else (laneGet w old i, 0)
  (ofLanes w (rs.map (·.1)), rs.foldl (fun a r => a ||| r.2) 0)

/-! ## Domains of logical indices (R25, R28, R29) -/

/-- Whether a logical index is in a gang of `k` dies of `groups` groups. -/
def inGang (k groups l : Nat) : Bool := l / 192 < k && l % 192 < 16 * groups

/-- The narrowest level whose domain holds both logical indices (R28). -/
def domLevel (a b : Nat) : Nat :=
  if a = b then 0
  else if a / 192 = b / 192 then
    if a % 192 / 4 = b % 192 / 4 then 1 else if a % 192 / 16 = b % 192 / 16 then 2 else 3
  else 4

/-- The router of a physical tile: row and column (R16). -/
def routerOf (p : Nat) : Nat × Nat := (p % 192 / 16 / 3, p % 192 / 16 % 3)
/-- Hops between two routers of one die (R15). -/
def butterfly (a b : Nat × Nat) : Nat := (if a.1 = b.1 then 0 else 1) + (if a.2 = b.2 then 0 else 1)
/-- Router hops h between two physical tiles; between dies, through R(0,3) of both (R134). -/
def routerHops (p q : Nat) : Nat :=
  if p / 192 = q / 192 then butterfly (routerOf p) (routerOf q)
  else butterfly (routerOf p) (0, 3) + butterfly (0, 3) (routerOf q)
/-- Ring hops g between two dies in a direction: 1 clockwise, 2 counterclockwise, else the shortest (R18, R136). -/
def ringHops (a b dir : Nat) : Nat :=
  let cw := (b + 8 - a) % 8
  let ccw := (a + 8 - b) % 8
  if dir = 1 then cw else if dir = 2 then ccw else min cw ccw
/-- Ticks from issue to performing on the TIMED class, without payload (R134, R143). -/
def timedTicks (p q dir : Nat) : Nat := 5 + 3 * routerHops p q + 12 * ringHops (p / 192) (q / 192) dir

end Sys2Proof.Machine
end

