-- ==== Sys2Proof/Machine/Crypto.lean ====
section
/-! DEFINITION. Crypto: SipHash-2-4 of hallmarks and capabilities (R118, R171) and the CRC-64 of touchmarks (R407). -/

namespace Sys2Proof.Machine

/-- The four words of SipHash's state. -/
structure Sip where
  a : Word
  b : Word
  c : Word
  d : Word
  deriving DecidableEq, Repr

/-- One SipRound. -/
def Sip.round (s : Sip) : Sip :=
  let a := s.a + s.b
  let b := s.b.rotateLeft 13 ^^^ a
  let a := a.rotateLeft 32
  let c := s.c + s.d
  let d := s.d.rotateLeft 16 ^^^ c
  let a := a + d
  let d := d.rotateLeft 21 ^^^ a
  let c := c + b
  let b := b.rotateLeft 17 ^^^ c
  let c := c.rotateLeft 32
  ⟨a, b, c, d⟩

/-- Absorbs one message word with two rounds. -/
def Sip.absorb (s : Sip) (m : Word) : Sip :=
  let r := ({ s with d := s.d ^^^ m } : Sip).round.round
  { r with a := r.a ^^^ m }

/-- The 64-bit words of a message of n bytes, the last with the length in its top byte. -/
def sipWords (n : Nat) : Nat → List Byte → List Word
  | 0, bs => [BitVec.ofNat 64 (leNat (bs.take 7) + n % 256 * 2 ^ 56)]
  | k + 1, bs => BitVec.ofNat 64 (leNat (bs.take 8)) :: sipWords n k (bs.drop 8)

/-- SipHash-2-4 of a message under a 128-bit key, little-endian (R118). -/
def sipHash (key : BitVec 128) (msg : List Byte) : Word :=
  let k0 : Word := key.setWidth 64
  let k1 : Word := (key >>> 64).setWidth 64
  let s : Sip := ⟨k0 ^^^ 0x736f6d6570736575, k1 ^^^ 0x646f72616e646f6d, k0 ^^^ 0x6c7967656e657261, k1 ^^^ 0x7465646279746573⟩
  let s := (sipWords msg.length (msg.length / 8) msg).foldl Sip.absorb s
  let r := ({ s with c := s.c ^^^ 0xff } : Sip).round.round.round.round
  r.a ^^^ r.b ^^^ r.c ^^^ r.d

/-- One byte of the CRC-64 with polynomial 0x42F0_E1EB_A9EA_3693, no reflection (R407). -/
def crcByte (c : Word) (b : Byte) : Word :=
  (List.range 8).foldl (fun c _ => if c.getLsbD 63 then (c <<< 1) ^^^ 0x42F0_E1EB_A9EA_3693 else c <<< 1)
    (c ^^^ (b.setWidth 64 <<< 56))

/-- The CRC-64 of bytes from a running value. -/
def crc64 (c : Word) (bs : List Byte) : Word := bs.foldl crcByte c

end Sys2Proof.Machine
end

