-- ==== Sys2Proof/Machine/Ops.lean ====
section
/-! DEFINITION. Ops: the named operations over a tile and the package: registers and ports, interlocks, trap entry and
return, interrupts, scratchpad and undo, translation, committed memory and store buffers, the event ring, the network. -/

namespace Sys2Proof.Machine

/-! ## Tiles and gangs of a package -/

def State.tile (s : State) (p : Nat) : Tile := smGet Tile.reset p s.tiles
def State.setTile (s : State) (p : Nat) (t : Tile) : State := { s with tiles := smPut p t s.tiles }
/-- The tile whose thread executes. -/
def State.t (s : State) : Tile := s.tile s.cur
def State.setT (s : State) (t : Tile) : State := s.setTile s.cur t
def State.onTile (s : State) (p : Nat) (f : Tile → Tile) : State := s.setTile p (f (s.tile p))

/-- The same for an event, which names one of the package's tiles (R16, R19); any other number names none. -/
def State.atTile (s : State) (p : Nat) (f : Tile → Tile) : State := if p < Config.tiles then s.onTile p f else s

def smFind {α : Type} (k : Nat) : SMap α → Option α
  | [] => none
  | (k', v) :: r => if k' = k then some v else smFind k r

def State.gang? (s : State) (g : Nat) : Option Gang := s.gangs.find? fun h => h.id == g
def State.setGang (s : State) (g : Gang) : State := { s with gangs := s.gangs.map fun h => if h.id == g.id then g else h }
def State.part? (s : State) (n : Nat) : Option Partition := s.parts.find? fun q => q.id == n
def State.setPart (s : State) (q : Partition) : State := { s with parts := s.parts.map fun r => if r.id == q.id then q else r }
/-- The gang of a tile's thread. -/
def State.gangOf (s : State) (t : Tile) : Option Gang :=
  match t.gang with
  | none => none
  | some g => s.gang? g
def State.partOf (s : State) (t : Tile) : Option Partition :=
  match s.gangOf t with
  | none => none
  | some g => s.part? g.part
/-- The physical tile of a logical index (R26). -/
def Gang.phys (g : Gang) (l : Nat) : Option Nat := smFind l g.l2p
/-- Whether a logical index is in the gang of the thread (R27). -/
def State.hasIndex (s : State) (t : Tile) (l : Nat) : Bool :=
  match s.gangOf t with
  | none => false
  | some g => inGang g.dies.length g.groups l
/-- The top level of a gang (R28). -/
def Gang.top (g : Gang) : Nat :=
  if 0 < g.npkg then 5 else if 1 < g.dies.length then 4 else if 1 < g.groups then 3 else 2
/-- Whether a gang's threads and barriers go on at a tick: it runs, its stop tick is still to come (R387). -/
def Gang.goes (g : Gang) (tick : Nat) : Bool := g.stat == .running || (g.stat == .stopping && decide (tick < g.ts))
/-- The logical indices of a gang, in order. -/
def Gang.members (g : Gang) : List Nat := g.l2p.map (·.1)

/-- A physical die. -/
def State.die (s : State) (d : Nat) : Die := s.dies.toList.getD d .reset
def State.onDie (s : State) (d : Nat) (f : Die → Die) : State := { s with dies := s.dies.setIfInBounds d (f (s.die d)) }

/-! ## Modes and causes -/

/-- STATUS.MODE: 0 U, 1 S, 2 V (R361). -/
def Tile.mode (t : Tile) : Nat := bitsOf t.sr.status 1 0
def Tile.user (t : Tile) : Bool := t.mode == 0

/-- A cause of R356: its code, whether it is asynchronous, DETAIL and TVAL. -/
structure Cause where
  code : Nat
  async : Bool
  detail : Nat
  tval : Word
  deriving DecidableEq, Repr

/-- A precise cause. -/
def trapOf (code : Nat) (tval : Word := 0) (detail : Nat := 0) : Cause := ⟨code, false, detail, tval⟩

/-- A cause of a gang boundary, of kind B (R356, R361). -/
def boundaryCause (code : Nat) (tval : Word) (detail : Nat) : Cause := ⟨code, true, detail, tval⟩

def cIllegal (w : Word) : Cause := trapOf 0x01 w
def cPrivInstr (w : Word) : Cause := trapOf 0x02 w
def cPrivReg (n : Nat) : Cause := trapOf 0x03 (BitVec.ofNat 64 n)
def cAddress (a : Word) : Cause := trapOf 0x04 a
def cStorePerm (a : Word) : Cause := trapOf 0x05 a
def cBadDest (l : Nat) : Cause := trapOf 0x06 (BitVec.ofNat 64 l)
def cBadHeader (h : Word) : Cause := trapOf 0x07 h
def cPktSeq : Cause := trapOf 0x08
def cTaskOpen : Cause := trapOf 0x09
def cTaskRegion : Cause := trapOf 0x0A
def cNoTerm : Cause := trapOf 0x0B
def cNondet (a : Word) : Cause := trapOf 0x0C a
def cPremature (r : Nat) : Cause := trapOf 0x0D 0 r
def cSched (i : Nat) : Cause := trapOf 0x0E (BitVec.ofNat 64 i)
def cGsbFull (a : Word) : Cause := trapOf 0x0F a
def cBadScale (a : Word) : Cause := trapOf 0x10 a
def cMatrixShape : Cause := trapOf 0x11
def cEnvCapacity (need : Nat) : Cause := trapOf 0x12 0 need
def cEnvRange : Cause := trapOf 0x13
def cBadCopy : Cause := trapOf 0x14
def cEcall (mode : Nat) : Cause := trapOf 0x15 0 mode
def cBreak : Cause := trapOf 0x16
def cFetch (a : Word) : Cause := trapOf 0x17 a
def cTranslation (a : Word) (detail : Nat) : Cause := trapOf 0x18 a detail

/-- CAUSE as a word (R361). -/
def Cause.word (c : Cause) : Word :=
  BitVec.ofNat 64 (c.code % 256 + (if c.async then 256 else 0) + c.detail % 2 ^ 32 * 2 ^ 16)

/-- A field [hi:lo] of a word replaced. -/
def setField (w : Word) (hi lo v : Nat) : Word :=
  let m := 2 ^ (hi + 1 - lo)
  BitVec.ofNat 64 (w.toNat - w.toNat / 2 ^ lo % m * 2 ^ lo + v % m * 2 ^ lo)

/-! ## Hardware loops (R254 to R258) -/

def Loops.get (l : Loops) : Level → Loop
  | .zero => l.l0
  | .one => l.l1
def Loops.put (l : Loops) (n : Level) (v : Loop) : Loops :=
  match n with
  | .zero => { l with l0 := v }
  | .one => { l with l1 := v }
/-- One register of a level written at once. -/
def Loops.write (l : Loops) (n : Level) (f : LoopField) (v : Word) : Loops :=
  let r := l.get n
  l.put n (match f with
    | .lc => { r with lc := v }
    | .ls => { r with ls := v }
    | .le => { r with le := v })
/-- A write made by the instruction at `pc`: delayed inside the armed body (R258). `old` holds the registers before the instruction. -/
def Loops.writeAt (l old : Loops) (pc : Word) (n : Level) (f : LoopField) (v : Word) : Loops :=
  let r := old.get n
  if r.lc != 0 && r.ls.toNat ≤ pc.toNat && pc.toNat ≤ r.le.toNat then { l with lw := l.lw ++ [⟨n, f, v, 4⟩] }
  else l.write n f v
/-- Lands every pending delayed write (R258, R352). -/
def Loops.landAll (l : Loops) : Loops := { l.lw.foldl (fun a w => a.write w.lvl w.field w.val) l with lw := [] }
/-- Lands the delayed writes that are due. -/
def Loops.landDue (l : Loops) : Loops :=
  let done := l.lw.filter fun w => w.left == 0
  { done.foldl (fun a w => a.write w.lvl w.field w.val) l with lw := l.lw.filter fun w => w.left != 0 }
/-- One more instruction has passed (R258). -/
def Loops.count (l : Loops) : Loops := { l with lw := l.lw.map fun w => { w with left := w.left - 1 } }
/-- LoopDisarm(t) on one level (R257). -/
def Loop.disarm (r : Loop) (t : Word) : Loop :=
  if r.lc != 0 && (t.toNat < r.ls.toNat || r.le.toNat < t.toNat) then { r with lc := 0 } else r
/-- LoopDisarm(t) (R257). -/
def Loops.disarm (l : Loops) (t : Word) : Loops := { l with l0 := l.l0.disarm t, l1 := l.l1.disarm t }
/-- The end test for the word at p and the next fetch address (R256). -/
def Loops.endTest (l : Loops) (p : Word) : Loops × Word :=
  let hit1 := l.l1.lc != 0 && p == l.l1.le
  let c1 := l.l1.lc - 1
  let la := if hit1 then { l with l1 := { l.l1 with lc := c1 } } else l
  if hit1 && c1 != 0 then (la, l.l1.ls)
  else
    let hit0 := l.l0.lc != 0 && p == l.l0.le
    let c0 := l.l0.lc - 1
    let lb := if hit0 then { la with l0 := { l.l0 with lc := c0 } } else la
    if hit0 && c0 != 0 then (lb, l.l0.ls) else (lb, p + 4)

/-! ## Flow of the executing word -/

def Tile.flow (t : Tile) (f : Flow) : Tile := { t with fe := { t.fe with flow := f } }
/-- The word does not issue yet. -/
def Tile.hold (t : Tile) : Tile := t.flow .hold
/-- A taken branch or jump (R257). -/
def Tile.jump (t : Tile) (target : Word) : Tile :=
  { t with regs := { t.regs with loop := t.regs.loop.disarm target }, fe := { t.fe with pc := target, flow := .jump } }
/-- The thread waits at the word (R45). -/
def State.wait (s : State) (w : Wait) : State :=
  let t := s.t
  s.setT { t with ctl := { t.ctl with stat := .waiting w, since := s.tick, raised := false }, fe := { t.fe with flow := .wait } }
/-- The next word in sequence: the end test, one more instruction passed (R256, R258). -/
def Tile.pass (t : Tile) (p : Word) : Tile :=
  let (l, n) := t.regs.loop.endTest p
  { t with regs := { t.regs with loop := l.count }, fe := { t.fe with pc := n } }
/-- A redirected fetch also counts as an instruction passed. -/
def Tile.passed (t : Tile) : Tile := { t with regs := { t.regs with loop := t.regs.loop.count } }
/-- A waiting thread runs on after its word: the first one that A holds, or else the one at the fetch address. -/
def Tile.resume (t : Tile) : Tile :=
  let u := { t with ctl := { t.ctl with stat := .running } }
  match t.fe.aq with
  | [] => u.pass t.fe.pc
  | _ :: r => { u with fe := { u.fe with aq := r } }

/-! ## X words that have issued ahead of A (R22, R24, R354) -/

/-- How many entries of a port that X fills a result holds. -/
def Result.pushes (o : Result) (r : YReg) : Nat := o.writes.countP fun w => match w with
  | .portY q _ => q == r
  | _ => false
/-- How many entries are in flight to a port that X fills, of word n alone or of all (R24). -/
def Tile.inY (t : Tile) (r : YReg) : Nat := t.fe.res.foldl (fun a o => a + o.pushes r) 0
def Tile.inYOf (t : Tile) (n : Nat) (r : YReg) : Nat := (t.fe.res.filter fun o => o.seq == n).foldl (fun a o => a + o.pushes r) 0

/-- The tile without the effect of the X word of place n, the last to have issued: its registers and FFLAGS as it found them, what it popped back in
its ports, what it pushed taken out; none where A has popped an entry that it pushed, or has filled the place of one that it popped (R354, log 10). -/
def Tile.unrun (t : Tile) (n : Nat) (b : Before) : Option Tile :=
  let k0 := b.push0 - t.inYOf n 12
  let k1 := b.push1 - t.inYOf n 13
  if k0 ≤ t.regs.qxa0.length ∧ k1 ≤ t.regs.qxa1.length ∧ t.regs.qax0.length + b.pop0.length ≤ 8 ∧ t.regs.qax1.length + b.pop1.length ≤ 8 then
    some { t with
      regs := { t.regs with
        y := b.y, v := b.v, m := b.m
        qax0 := b.pop0 ++ t.regs.qax0
        qax1 := b.pop1 ++ t.regs.qax1
        qxa0 := t.regs.qxa0.take (t.regs.qxa0.length - k0)
        qxa1 := t.regs.qxa1.take (t.regs.qxa1.length - k1) }
      ur := { t.ur with fflags := b.fflags }
      fe := { t.fe with res := t.fe.res.filter fun o => o.seq != n } }
  else none

/-- Undoes X words, the last first, as far as they can be undone; what stays, in order. -/
def Tile.unrunAll (t : Tile) : List Ahead → Tile × List Ahead
  | [] => (t, [])
  | a :: r => match a.before.bind (t.unrun a.seq) with
    | some u => u.unrunAll r
    | none => (t, (a :: r).reverse)

/-- The tile without the effects of the X words behind place n that have issued: a trap at n finds none of them made (R354). -/
def Tile.rewind (t : Tile) (n : Nat) : Tile × List Ahead := t.unrunAll (t.fe.ahead.filter fun a => decide (n < a.seq)).reverse

/-! ## Trap entry and return (R352, R353) -/

/-- Trap entry into S: the saved pc, status and cause, the copy registers banked, fetch from TVEC, every unissued word discarded. What X words behind the
word trapped at have done is undone (R354); those of which that is not possible are not executed again (R22, R336, log 10). -/
def Tile.enter (t : Tile) (epc : Word) (c : Cause) : Tile :=
  let sie := bitsOf t.sr.status 4 4
  let u := t.user
  let r := t.rewind t.fe.iseq
  { r.1 with
    regs := { r.1.regs with loop := t.fe.loops.landAll }
    sr := { t.sr with
      status := BitVec.ofNat 64 (1 + t.mode * 4 + sie * 32)
      cause := c.word
      epc := epc
      tval := c.tval }
    cpBank := if u then t.cp else t.cpBank
    cpBankS := if u then t.cpBankS else t.cp
    fe := { r.1.fe with
      pc := t.sr.tvec, flow := .trap, aq := [], xq := [], ahead := []
      skip := t.fe.skip ++ r.2.map fun a => ⟨t.mode, epc, a.pc⟩ } }

/-- A precise trap of the executing word. -/
def Tile.trap (t : Tile) (c : Cause) : Tile := t.enter t.fe.ipc c

/-- ERET in S (R332, R353). Port values kept for a word of the mode returned to are of use at that word alone (R336), as are the X words
that issued ahead of it, or of one just before it (R22). -/
def Tile.eret (t : Tile) : Tile :=
  let pm := bitsOf t.sr.status 3 2
  { t with
    sr := { t.sr with status := BitVec.ofNat 64 (pm + bitsOf t.sr.status 5 5 * 16) }
    cp := if pm = 0 then t.cpBank else t.cpBankS
    fe := { t.fe with
      pc := t.sr.epc, flow := .jump, kept := t.fe.kept.filter (fun k => k.mode != pm || k.pc == t.sr.epc)
      skip := t.fe.skip.filter fun k => k.mode != pm || (decide (k.base.toNat ≤ t.sr.epc.toNat) && decide (t.sr.epc.toNat ≤ k.pc.toNat)) } }

/-! ## Interrupts (R357) -/

def Tile.level (t : Tile) (tick : Nat) : Nat :=
  (if t.sr.tickcmp.toNat ≤ tick then 1 else 0) + (if t.ni.mbox.isEmpty then 0 else 2) +
  (List.range 4).foldl (fun a n => a + (if (t.ni.rq.toList.map (·.ents)).getD n [] == [] then 0 else 4 * 2 ^ n)) 0 +
  (if t.ni.refusals.isEmpty then 0 else 256)

/-- INTPEND as it reads: latched bits and level bits. -/
def Tile.pending (t : Tile) (tick : Nat) : Word := t.sr.intpend ||| BitVec.ofNat 64 (t.level tick)

/-- The source taken in the current mode: the highest-numbered enabled pending one. -/
def Tile.takeable (t : Tile) (tick : Nat) : Option Nat :=
  let ok := t.user || (t.mode == 1 && t.sr.status.getLsbD 4)
  let b := (t.pending tick &&& t.sr.inten).toNat % 2 ^ 14
  if ok && b != 0 then some (Nat.log2 b) else none

/-- A latched source becomes pending with the value it reports; while it is pending a further event leaves that value (R357 says so of MFAULT only: for the
others a DESIGN CHOICE, log 83). -/
def Tile.raise (t : Tile) (bit : Nat) (v : Word) : Tile :=
  if t.sr.intpend.getLsbD bit then t
  else { t with sr := { t.sr with intpend := t.sr.intpend ||| BitVec.ofNat 64 (2 ^ bit), srcs := smPut bit v t.sr.srcs } }

/-- RELSTAT.LASTERR and INTPEND.ERROR (R409). -/
def Tile.error (t : Tile) (why : Nat) : Tile :=
  { t with ir := { t.ir with relstat := setField t.ir.relstat 51 48 why } }.raise 13 0

/-- A refusal enters the 8-entry queue; one that finds it full sets REFLOST (R358). -/
def Tile.refuse (t : Tile) (r : Refusal') : Tile :=
  if t.ni.refusals.length < Config.refusalDepth then { t with ni := { t.ni with refusals := t.ni.refusals ++ [r] } }
  else { t with sr := { t.sr with intpend := t.sr.intpend ||| 0x1_0000#64 } }

/-- Accepts source n with EPC as given: CODE 0x40 + n, TVAL and DETAIL by source (R357, R358). -/
def Tile.takeIrq (t : Tile) (n : Nat) (epc : Word) : Tile :=
  let v := smGet 0 n t.sr.srcs
  let code := 0x40 + n
  let clear := fun (u : Tile) => { u with sr := { u.sr with intpend := u.sr.intpend &&& ~~~BitVec.ofNat 64 (2 ^ n), srcs := smDel n u.sr.srcs } }
  if n < 6 then t.enter epc ⟨code, true, 0, 0⟩
  else if n = 8 then
    match t.ni.refusals with
    | [] => t
    | r :: rest =>
      let d := r.low.toNat + (if r.load then 32 else 0) + (if r.scatter then 64 else 0)
      { t with ni := { t.ni with refusals := rest } }.enter epc ⟨code, true, d, r.va⟩
  else if n = 7 ∨ n = 9 then (clear t).enter epc ⟨code, true, v.toNat, 0⟩
  else if n = 11 then (clear t).enter epc ⟨code, true, bitsOf t.sr.ovfstat 4 0, 0⟩
  else (clear t).enter epc ⟨code, true, 0, v⟩

/-! ## Registers, ports and the interlock (R24, R47, R223, R326) -/

/-- The port values that the executing word popped before it stalled (R336). -/
def Tile.keptVals (t : Tile) : List Word :=
  match t.fe.kept.find? fun k => k.pc == t.fe.ipc && k.mode == t.mode with
  | none => []
  | some k => k.vals
/-- Takes the first of them. -/
def Tile.dropKept (t : Tile) : Tile :=
  { t with fe := { t.fe with kept := (t.fe.kept.map fun k =>
      if k.pc == t.fe.ipc && k.mode == t.mode then { k with vals := k.vals.tail } else k).filter fun k => !k.vals.isEmpty } }
/-- Keeps the port values that a stalled word has popped, under its address and mode (R336). -/
def Tile.keep (t : Tile) (vals : List Word) : Tile :=
  if vals.isEmpty then t else { t with fe := { t.fe with kept := ⟨t.fe.ipc, t.mode, vals⟩ :: t.fe.kept } }

/-- Whether a result in flight writes a register. -/
def Result.hasX (o : Result) (r : XReg) : Bool := o.writes.any fun w => match w with
  | .x q _ => q == r
  | _ => false
def Result.hasY (o : Result) (r : YReg) : Bool := o.writes.any fun w => match w with
  | .y q _ => q == r
  | _ => false
def Result.hasV (o : Result) (r : VReg) : Bool := o.writes.any fun w => match w with
  | .v q _ => q == r
  | _ => false
def Result.hasM (o : Result) (r : MReg) : Bool := o.writes.any fun w => match w with
  | .m q _ => q == r
  | _ => false
/-- How many entries are in flight to a port that A fills (R24). -/
def Tile.inX (t : Tile) (r : XReg) : Nat := t.fe.res.foldl (fun a o => a + o.writes.countP fun w => match w with
  | .portX q _ => q == r
  | _ => false) 0
/-- A register whose load or AMO has not returned, or whose result is in flight (R223). -/
def Tile.busy (t : Tile) (r : XReg) : Bool :=
  r != 0 && ((t.loads.any fun l => l.rd == some r && l.dead.isNone) || t.fe.res.any fun o => o.hasX r)
/-- Results in flight lose some of their writes, as later words write those registers (R9, R223). -/
def Tile.dropRes (t : Tile) (p : Write → Bool) : Tile :=
  { t with fe := { t.fe with res := t.fe.res.map fun o => { o with writes := o.writes.filter fun w => !p w } } }
/-- What is in flight to x registers, written nowhere any more. -/
def Tile.dropX (t : Tile) (dsts : List XReg) : Tile := t.dropRes fun w => match w with
  | .x q _ => dsts.any (· == q)
  | _ => false
/-- A pending DAMO destination (R326). -/
def Tile.damoPending (t : Tile) (r : XReg) : Bool := r != 0 && t.damos.any fun d => d.rd == r
/-- A later word writes registers whose load or AMO is outstanding: that response is then written nowhere (R246). -/
def Tile.supersede (t : Tile) (dsts : List XReg) : Tile :=
  if dsts.any t.busy then
    { t with
      loads := t.loads.map fun l => if l.dead.isNone && dsts.any (fun r => r != 0 && l.rd == some r) then { l with dead := some t.ctl.serial } else l
      ctl := { t.ctl with serial := t.ctl.serial + 1 } }
  else t

/-- A word that trapped, stalled or waits has not written its registers: what it superseded at number n is outstanding again (R9, R245). -/
def Tile.revive (t : Tile) (n : Nat) : Tile :=
  { t with loads := t.loads.map fun l => if l.dead = some n then { l with dead := none } else l }
/-- Whether the X words before place n have issued (R125). -/
def Tile.issuedX (t : Tile) (n : Nat) : Bool := t.fe.xq.all fun x => n ≤ x.seq
/-- Whether they are done, the data of their split loads written (R355). -/
def Tile.drained (t : Tile) (n : Nat) : Bool := t.issuedX n && t.fe.xl.all fun o => n ≤ o.seq
/-- The number of the next A word. -/
def Tile.nextA (t : Tile) : Nat :=
  match t.fe.aq with
  | x :: _ => x.seq
  | [] => t.fe.seq
/-- Whether a word has had its effect, with the flow before and after it. -/
def Flow.done (before after : Flow) : Bool := after == before || after == .seq || after == .jump

/-- Whether an instruction may issue: yes, not yet, or with a trap. -/
inductive Gate where
  | go
  | hold
  | trap (c : Cause)
  deriving DecidableEq, Repr

/-- The A-slice gate over the registers an instruction names: the premature read of R326, then the interlock of R223 and
the ports of R24. A port whose push is outstanding holds a later push, so that its order stays (R222). -/
def Tile.gateX (t : Tile) (srcs dsts : List XReg) : Gate :=
  match if t.user then (srcs ++ dsts).find? t.damoPending else none with
  | some r => .trap (cPremature r.toNat)
  | none =>
    if srcs.any t.busy || dsts.any (fun r => (r == 28 || r == 29) && t.busy r)
      || (t.keptVals.isEmpty && (t.regs.qxa0.length < srcs.count 30 || t.regs.qxa1.length < srcs.count 31))
      || 8 < t.regs.qax0.length + t.inX 28 + dsts.count 28 || 8 < t.regs.qax1.length + t.inX 29 + dsts.count 29 then .hold else .go

/-- A y register that an envelope command in the FIFO will write (R185, R223). -/
def Tile.awaitsEnv (t : Tile) (r : YReg) : Bool := r != 0 && t.envq.any fun c => match c.op with
  | .ecnt yd _ => yd == r
  | .eeval yd _ _ => yd == r
  | _ => false
/-- Whether an X part writes a y register. -/
def XPart.loadsY (p : XPart) (r : YReg) : Bool :=
  match p with
  | .loadY yd .. => yd == r
  | _ => false
/-- Whether an X part writes a v register. -/
def XPart.loadsV (p : XPart) (r : VReg) : Bool :=
  match p with
  | .loadV vd .. => vd == r
  | _ => false
/-- A y register that an issued split load will write, or a result in flight (R223, R246). -/
def Tile.awaitsY (t : Tile) (r : YReg) : Bool := r != 0 && ((t.fe.xl.any fun o => o.part.loadsY r) || t.fe.res.any fun o => o.hasY r)
/-- A v register that an issued split load will write, or a result in flight (R223, R246). -/
def Tile.awaitsV (t : Tile) (r : VReg) : Bool := (t.fe.xl.any fun o => o.part.loadsV r) || t.fe.res.any fun o => o.hasV r
/-- A mask register that a result in flight will write (R223). -/
def Tile.awaitsM (t : Tile) (r : MReg) : Bool := r != 0 && t.fe.res.any fun o => o.hasM r
/-- A y register whose result is outstanding (R223). -/
def Tile.busyY (t : Tile) (r : YReg) : Bool := t.awaitsEnv r || t.awaitsY r
/-- A later word writes y registers whose split load is outstanding, or whose result is in flight: that is then written nowhere (R223, R246). -/
def Tile.dropY (t : Tile) (dsts : List YReg) : Tile :=
  if dsts.any t.awaitsY then
    { t with fe := { t.fe with xl := t.fe.xl.filter fun o => !dsts.any fun r => r != 0 && o.part.loadsY r } }.dropRes fun w => match w with
      | .y q _ => dsts.any (· == q)
      | _ => false
  else t
/-- The same for a v register. -/
def Tile.dropV (t : Tile) (vd : VReg) : Tile :=
  if t.awaitsV vd then
    { t with fe := { t.fe with xl := t.fe.xl.filter fun o => !o.part.loadsV vd } }.dropRes fun w => match w with
      | .v q _ => q == vd
      | _ => false
  else t
/-- The same for a mask register. -/
def Tile.dropM (t : Tile) (md : MReg) : Tile :=
  if t.awaitsM md then t.dropRes fun w => match w with
    | .m q _ => q == md
    | _ => false
  else t

/-- The X-slice gate: a port that a pending DAMO will fill is not read early in U mode (R116), then the ports
of R24 and the interlock of R223; a port that an issued split load will fill holds a later push (R222). -/
def Tile.gateY (t : Tile) (srcs dsts : List YReg) : Gate :=
  let pend := fun (r : XReg) => t.user && t.damos.any fun d => d.rd == r && d.seq < t.fe.iseq
  let short0 := t.keptVals.isEmpty && decide (t.regs.qax0.length < srcs.count 14)
  let short1 := t.keptVals.isEmpty && decide (t.regs.qax1.length < srcs.count 15)
  if short0 && pend 28 then .trap (cPremature 28)
  else if short1 && pend 29 then .trap (cPremature 29)
  else if short0 || short1 || srcs.any t.busyY || dsts.any (fun r => t.awaitsEnv r || ((r == 12 || r == 13) && t.awaitsY r)) || 8 < t.regs.qxa0.length + t.inY 12 + dsts.count 12 || 8 < t.regs.qxa1.length + t.inY 13 + dsts.count 13 then .hold
  else .go

/-- The value of an x register, a port apart; x0 reads 0. -/
def Tile.xval (t : Tile) (r : XReg) : Word := if r = 0 then 0 else t.regs.x[r.toNat]'r.isLt
def Tile.yval (t : Tile) (r : YReg) : Word := if r = 0 then 0 else t.regs.y[r.toNat]'r.isLt
def Tile.vval (t : Tile) (r : VReg) : Vec := t.regs.v[r.toNat]'r.isLt
/-- m0 reads all ones (R47). -/
def Tile.mval (t : Tile) (r : MReg) : Word := if r = 0 then ones64 else t.regs.m[r.toNat]'r.isLt
def Tile.jval (t : Tile) (r : JReg) : Word := t.regs.j[r.toNat]'r.isLt

/-- Reads an x register, popping its port; a value popped before a stall is read again (R336). -/
def Tile.popX (t : Tile) (r : XReg) : Word × Tile :=
  if r = 30 ∨ r = 31 then
    match t.keptVals with
    | v :: _ => (v, t.dropKept)
    | [] =>
      if r = 30 then (t.regs.qxa0.headD 0, { t with regs := { t.regs with qxa0 := t.regs.qxa0.tail } })
      else (t.regs.qxa1.headD 0, { t with regs := { t.regs with qxa1 := t.regs.qxa1.tail } })
  else (t.xval r, t)
/-- Reads a y register, popping its port; a value popped before a stall is read again (R336). -/
def Tile.popY (t : Tile) (r : YReg) : Word × Tile :=
  if r = 14 ∨ r = 15 then
    match t.keptVals with
    | v :: _ => (v, t.dropKept)
    | [] =>
      if r = 14 then (t.regs.qax0.headD 0, { t with regs := { t.regs with qax0 := t.regs.qax0.tail } })
      else (t.regs.qax1.headD 0, { t with regs := { t.regs with qax1 := t.regs.qax1.tail } })
  else (t.yval r, t)
/-- Writes an x register: x0 ignored, x28 and x29 push (R47). -/
def Tile.putX (t : Tile) (r : XReg) (v : Word) : Tile :=
  if r = 0 then t
  else if r = 28 then { t with regs := { t.regs with qax0 := t.regs.qax0 ++ [v] } }
  else if r = 29 then { t with regs := { t.regs with qax1 := t.regs.qax1 ++ [v] } }
  else { t with regs := { t.regs with x := t.regs.x.set r.toNat v r.isLt } }
/-- Whether a write of an x register has to wait for room in its port, or for an outstanding push before it (R24, R222). -/
def Tile.portFull (t : Tile) (r : XReg) : Bool :=
  (r == 28 && (8 ≤ t.regs.qax0.length + t.inX 28 || t.busy 28)) || (r == 29 && (8 ≤ t.regs.qax1.length + t.inX 29 || t.busy 29))
/-- Results given to x registers, an outstanding load of theirs being overwritten (R246, R326), and those that wait for room in their port (R24). -/
def Tile.give (t : Tile) : List (XReg × Word) → Tile × List (XReg × Word)
  | [] => (t, [])
  | w :: rest =>
    if t.portFull w.1 then ((t.give rest).1, w :: (t.give rest).2) else ((t.supersede [w.1]).putX w.1 w.2).give rest
/-- What A has still to push stands before its next word. -/
def Tile.owes (t : Tile) (ws : List (XReg × Word)) : Tile :=
  { t with fe := { t.fe with aq := ws.map (fun w => ⟨t.fe.seq - 1, t.fe.pc, t.regs.loop, .push w.1 w.2⟩) ++ t.fe.aq } }
/-- Writes a y register: y0 ignored, y12 and y13 push (R47). -/
def Tile.putY (t : Tile) (r : YReg) (v : Word) : Tile :=
  if r = 0 then t
  else if r = 12 then { t with regs := { t.regs with qxa0 := t.regs.qxa0 ++ [v] } }
  else if r = 13 then { t with regs := { t.regs with qxa1 := t.regs.qxa1 ++ [v] } }
  else { t with regs := { t.regs with y := t.regs.y.set r.toNat v r.isLt } }
def Tile.putV (t : Tile) (r : VReg) (v : Vec) : Tile := { t with regs := { t.regs with v := t.regs.v.set r.toNat v r.isLt } }
/-- Writes a mask: m0 ignored (R47). -/
def Tile.putM (t : Tile) (r : MReg) (v : Word) : Tile :=
  if r = 0 then t else { t with regs := { t.regs with m := t.regs.m.set r.toNat v r.isLt } }
/-- Writes a branch target: bits [1:0] stay 0 (R252). -/
def Tile.putJ (t : Tile) (r : JReg) (v : Word) : Tile :=
  { t with regs := { t.regs with j := t.regs.j.set r.toNat (v &&& ~~~3#64) r.isLt } }
/-- ORs flags into FFLAGS (R53, R265). -/
def Tile.flags (t : Tile) (f : Fl) : Tile := { t with ur := { t.ur with fflags := t.ur.fflags ||| f.setWidth 64 } }

/-! ## The delivery of results (R223, R265) -/

/-- A result's write is made. -/
def Tile.make (t : Tile) : Write → Tile
  | .x r v | .portX r v => t.putX r v
  | .y r v | .portY r v => t.putY r v
  | .v r w => t.putV r w
  | .m r v => t.putM r v
/-- A result is delivered: its writes, and its flags ORed into FFLAGS (R265). -/
def Tile.handOver (t : Tile) (o : Result) : Tile :=
  let u := o.writes.foldl Tile.make t
  { u with ur := { u.ur with fflags := u.ur.fflags ||| o.fflags } }
/-- The tile as it is once every result in flight is delivered. -/
def Tile.delivered (t : Tile) : Tile :=
  if t.fe.res.isEmpty then t
  else
    let u := t.fe.res.foldl Tile.handOver t
    { u with fe := { u.fe with res := [] } }
/-- Delivers what is due at a tick, in order. -/
def Tile.deliverDue (t : Tile) (tick : Nat) : Tile :=
  if t.fe.res.any fun o => decide (o.due ≤ tick) then
    let u := (t.fe.res.filter fun o => decide (o.due ≤ tick)).foldl Tile.handOver t
    { u with fe := { u.fe with res := t.fe.res.filter fun o => !decide (o.due ≤ tick) } }
  else t

/-! ## Shapes shared by the meanings -/

/-- An A-slice word: the gate, then its effect on the tile. -/
def Tile.aWord (t : Tile) (srcs dsts : List XReg) (go : Tile → Tile) : Tile :=
  match t.gateX srcs dsts with
  | .go =>
    if dsts.any t.busy then
      let u := go (t.supersede dsts)
      if t.fe.flow.done u.fe.flow then u.dropX dsts else u.revive t.ctl.serial
    else go t
  | .hold => t.hold
  | .trap c => t.trap c
/-- An X-slice word. -/
def Tile.xWord (t : Tile) (srcs dsts : List YReg) (go : Tile → Tile) : Tile :=
  match t.gateY srcs dsts with
  | .go => if dsts.any t.awaitsY && t.fe.flow.done (go t).fe.flow then (go t).dropY dsts else go t
  | .hold => t.hold
  | .trap c => t.trap c
/-- The same over the package, for words that reach beyond their tile. -/
def State.aWord (s : State) (srcs dsts : List XReg) (go : State → State) : State :=
  match s.t.gateX srcs dsts with
  | .go =>
    if dsts.any s.t.busy then
      let u := go (s.setT (s.t.supersede dsts))
      if s.t.fe.flow.done u.t.fe.flow then u.setT (u.t.dropX dsts) else u.setT (u.t.revive s.t.ctl.serial)
    else go s
  | .hold => s.setT s.t.hold
  | .trap c => s.setT (s.t.trap c)
/-- An A-slice word that writes its destinations later: an earlier load to them is still theirs (R325). -/
def State.aWordLate (s : State) (srcs dsts : List XReg) (go : State → State) : State :=
  match s.t.gateX srcs dsts with
  | .go => go s
  | .hold => s.setT s.t.hold
  | .trap c => s.setT (s.t.trap c)
def State.xWord (s : State) (srcs dsts : List YReg) (go : State → State) : State :=
  match s.t.gateY srcs dsts with
  | .go => if dsts.any s.t.awaitsY && s.t.fe.flow.done (go s).t.fe.flow then (go s).setT ((go s).t.dropY dsts) else go s
  | .hold => s.setT s.t.hold
  | .trap c => s.setT (s.t.trap c)
/-- An X-slice word that writes its destinations later: an earlier split load to them is still theirs (R185). -/
def State.xWordLate (s : State) (srcs dsts : List YReg) (go : State → State) : State :=
  match s.t.gateY srcs dsts with
  | .go => go s
  | .hold => s.setT s.t.hold
  | .trap c => s.setT (s.t.trap c)
/-- A precise trap of the executing word. -/
def State.trap (s : State) (c : Cause) : State := s.setT (s.t.trap c)
def State.hold (s : State) : State := s.setT s.t.hold
/-- The port values among the sources of the executing word, in order, and the tile without them. -/
def Tile.popPorts (t : Tile) : List XReg → List Word × Tile
  | [] => ([], t)
  | r :: rest =>
    if r = 30 ∨ r = 31 then
      let a := t.popX r
      let b := a.2.popPorts rest
      (a.1 :: b.1, b.2)
    else t.popPorts rest
/-- The same word with its ports popped and their values kept (R336). -/
def Tile.stalled (t : Tile) (srcs : List XReg) : Tile :=
  let a := t.popPorts srcs
  a.2.keep a.1
/-- The executing word stalls: the ports it names as sources are popped, once, and keep their values (R336). -/
def State.stall (s : State) (srcs : List XReg) : State :=
  if s.t.keptVals.isEmpty && srcs.any (fun r => r = 30 ∨ r = 31) then s.setT ((s.t.stalled srcs).flow .stall) else s.hold

/-! ## Scratchpad and undo region (R88, R97, R395, R397) -/

/-- A serial number for an outstanding access or command of the tile. -/
def Tile.serial (t : Tile) : Nat × Tile := (t.ctl.serial, { t with ctl := { t.ctl with serial := t.ctl.serial + 1 } })

/-- Claims `cost` bytes of the undo region; a record that does not fit stops logging (R397). -/
def Tile.claim (t : Tile) (cost : Nat) : Tile :=
  if t.undo.full then t
  else if t.undo.used + cost ≤ t.undo.size then
    let u := t.undo.used + cost
    let kb := (u + 1023) / 1024
    { t with
      undo := { t.undo with used := u }
      ir := { t.ir with relstat := if bitsOf t.ir.relstat 25 16 < kb then setField t.ir.relstat 25 16 kb else t.ir.relstat } }
  else { t with
    undo := { t.undo with full := true, raised := false }
    ir := { t.ir with relstat := setField t.ir.relstat 0 0 0 } }.error 7

/-- Logs the first write of a 64 B scratchpad line (R395). -/
def Tile.logLine (t : Tile) (line : Nat) : Tile :=
  if t.undo.full || t.undo.lines.contains line then t
  else { t.claim 72 with undo := { (t.claim 72).undo with lines := line :: (t.claim 72).undo.lines } }
/-- Logs the first write of an accumulator row (R395). -/
def Tile.logAcc (t : Tile) (row : Nat) : Tile :=
  if t.undo.full || t.undo.accRows.contains row then t
  else { t.claim 264 with undo := { (t.claim 264).undo with accRows := row :: (t.claim 264).undo.accRows } }
/-- Logs the first write of an envelope register (R191, R395). -/
def Tile.logEnv (t : Tile) (e : Nat) : Tile :=
  if t.undo.full || t.undo.envs.contains e then t
  else { t.claim 6160 with undo := { (t.claim 6160).undo with envs := e :: (t.claim 6160).undo.envs } }
/-- Logs the first write of a latch half (0, 1), FILLS (2) or the scale store (3) (R395). -/
def Tile.logLatch (t : Tile) (k : Nat) : Tile :=
  if t.undo.full || t.undo.latch.contains k then t
  else
    let u := t.claim (if k = 2 then 8 else if k = 3 then 8200 else 16400)
    { u with undo := { u.undo with latch := k :: u.undo.latch } }

/-- Reads the byte at a scratchpad offset under a span and key. -/
def Tile.spadRead (t : Tile) (span : Nat) (key : Word) (off : Nat) : Byte := memRead (placeOf span key off) t.spad
/-- Writes one byte and logs its line. -/
def Tile.spadWrite (t : Tile) (span : Nat) (key : Word) (off : Nat) (b : Byte) : Tile :=
  let p := placeOf span key off
  { t.logLine (p / 64) with spad := memWrite p b t.spad, latent := t.latent.filter (· != p) }
/-- The little-endian value of n bytes from an offset (R10). -/
def Tile.spadNat (t : Tile) (span : Nat) (key : Word) (off n : Nat) : Nat :=
  leNat ((List.range n).map fun i => t.spadRead span key (off + i))
/-- Writes n bytes of a value from an offset, little-endian (R10). -/
def Tile.spadPut (t : Tile) (span : Nat) (key : Word) (off n v : Nat) : Tile :=
  (List.range n).foldl (fun u i => u.spadWrite span key (off + i) (BitVec.ofNat 8 (v / 256 ^ i))) t
/-- Writes the pieces of elements in order (R271). -/
def Tile.spadPieces (t : Tile) (span : Nat) (key : Word) (ws : List (Piece × Nat)) : Tile :=
  ws.foldl (fun u w => u.spadWrite span key w.1.off (setBits (u.spadRead span key w.1.off) w.1.bit w.1.n w.2)) t

/-- Writes bytes of a result at their places. -/
def Tile.spadBytes (t : Tile) (bs : List OutByte) : Tile :=
  { t with
    spad := bs.foldl (fun m c => memWrite c.place ((memRead c.place m &&& ~~~c.mask) ||| (c.val &&& c.mask)) m) t.spad
    latent := t.latent.filter fun a => !bs.any fun c => c.place == a }

/-- The places of n bytes from an offset. -/
def spanPlaces (span : Nat) (key : Word) (off n : Nat) : List (Nat × Byte) :=
  (List.range n).map fun i => (placeOf span key (off + i), 0xFF)

/-- Whether an access with some places left performs one of them now: what lies in the first one's 16 B unit, and further units by a free choice (R97, R272,
log 76). -/
def touchesNow (seed : Nat) (left : List Nat) (p : Nat) : Bool :=
  match left with
  | [] => false
  | q :: _ => p / 16 == q / 16 || Config.choice seed (p / 16) % 2 == 1
/-- The places of a load that it has still to read. -/
def leftOf (places : List Nat) (got : List (Nat × Byte)) : List Nat := places.filter fun p => !got.any fun g => g.1 == p
/-- A byte as a load sees it: as it stood when its unit was read. -/
def Tile.spadSeen (t : Tile) (got : List (Nat × Byte)) (span : Nat) (key : Word) (off : Nat) : Byte :=
  match got.find? fun g => g.1 == placeOf span key off with
  | some g => g.2
  | none => t.spadRead span key off
/-- What a load has read when it has touched some further units. -/
def Tile.readUnits (t : Tile) (seed : Nat) (places : List Nat) (got : List (Nat × Byte)) : List (Nat × Byte) :=
  let left := leftOf places got
  got ++ ((left.filter (touchesNow seed left)).map fun p => (p, memRead p t.spad))

/-- A result that a command has computed, of which some 16 B units stand in the scratchpad, with the bytes left; `ps`: the places that it
writes, with their bits. Which units are written first is a free choice (R97, R102, log 76). -/
def Tile.partWritten (old new : Tile) (ps : List (Nat × Byte)) (seed : Nat) : Tile × List OutByte :=
  let r := (ps.map fun c => (⟨c.1, c.2, memRead c.1 new.spad⟩ : OutByte)).partition fun c => Config.choice seed (c.place / 16) % 2 == 1
  (({ new with spad := old.spad, latent := old.latent }).spadBytes r.1, r.2)

/-! ## Translation (R363 to R372) -/

/-- Frames of one physical group's share of its stack: a twelfth of the stack's runs of 256 frames (log 17). -/
abbrev groupFrames : Nat := 341 * 256

/-- Frames of a partition. -/
def Partition.frames (q : Partition) : Nat :=
  match q.shape with
  | .groups _ _ => q.groups.length * groupFrames
  | .dies ds => ds.length * 2 ^ 20

/-- The physical frame that the placement of R366 gives a partition frame: runs of 256 frames round-robin over the stacks. -/
def Partition.placed (q : Partition) (pfi : Nat) : Option Nat :=
  match q.shape with
  | .groups _ _ =>
    match q.groups[pfi / groupFrames]? with
    | some gg => some (gg / 12 * 2 ^ 20 + gg % 12 * groupFrames + pfi % groupFrames)
    | none => none
  | .dies ds =>
    if q.frames ≤ pfi then none
    else
      let r := pfi / 256
      some (ds.getD (r % ds.length) 0 * 2 ^ 20 + r / ds.length * 256 + pfi % 256)

/-- The partition frame that the placement of R366 puts at a physical frame. -/
def Partition.unplaced (q : Partition) (pfn : Nat) : Option Nat :=
  match q.shape with
  | .groups _ _ =>
    let gg := pfn / 2 ^ 20 * 12 + pfn % 2 ^ 20 / groupFrames
    if 12 * groupFrames ≤ pfn % 2 ^ 20 then none
    else (q.groups.findIdx? (· == gg)).map fun i => i * groupFrames + pfn % 2 ^ 20 % groupFrames
  | .dies ds =>
    (ds.findIdx? (· == pfn / 2 ^ 20)).map fun i => (pfn % 2 ^ 20 / 256 * ds.length + i) * 256 + pfn % 256

/-- The grant of a partition frame (R365, R366). -/
def Partition.grant (q : Partition) (pfi : Nat) : Grant :=
  match smFind pfi q.grants with
  | some g => g
  | none =>
    match q.placed pfi with
    | some f => ⟨f, true, false, pfi % 256 == 0, 0⟩
    | none => ⟨0, false, false, false, 0⟩

/-- 8 bytes of committed memory at a partition address; none without a grant. -/
def State.partRead8 (s : State) (q : Partition) (pa : Nat) : Option Nat :=
  let g := q.grant (pa / 65536)
  if g.gv then some (leNat ((List.range 8).map fun i => memRead (g.pfn * 65536 + pa % 65536 + i) s.mem)) else none

/-- Whether a valid table entry is malformed at its level (R364). -/
def pteBad (level e : Nat) : Bool :=
  let leaf := e / 2 % 2
  let flags := e / 4 % 16
  let low := e / 512
  e / 64 % 8 != 0 || e / 2 ^ 39 != 0 || (level == 1 && leaf == 1) || (level == 3 && leaf == 0) ||
  (leaf == 0 && flags != 0) ||
  (if leaf = 0 then (if level = 1 then low % 8 != 0 else low % 4 != 0)
   else if level = 2 then low % 2 ^ 15 != 0 else low % 2 ^ 7 != 0)

/-- The partition address an entry holds. -/
def ptePa (e : Nat) : Nat := e / 512 % 2 ^ 30 * 512

/-- A leaf found by a walk: level, entry. -/
structure Leaf where
  level : Nat
  e : Nat
  deriving DecidableEq, Repr

/-- One level of the walk: the entry, or a fault KIND + 8 x LEVEL (R368, R369). -/
def State.pte (s : State) (q : Partition) (level a : Nat) : Except Nat Nat :=
  match s.partRead8 q a with
  | none => .error 4
  | some e =>
    if s.svc.bad.contains (((q.grant (a / 65536)).pfn * 65536 + a % 65536) / 64) then .error (5 + 8 * level)
    else if e % 2 = 0 then .error (1 + 8 * level)
    else if pteBad level e then .error (2 + 8 * level)
    else .ok e

/-- One level of a walk by a die's walkers: a kept non-leaf entry may stand for the one in memory, malformed or not at this level (R368); whether it is still
there is a free choice (R371, log 76). -/
def State.pteBy (s : State) (wc : List WalkEnt) (q : Partition) (level a : Nat) : Except Nat Nat :=
  match wc.findSome? fun w => match w with
    | .table p ea e => if p = q.id ∧ ea = a then some e else none
    | .grant .. => none with
  | none => s.pte q level a
  | some e => if Config.choice s.steps a % 2 = 0 then s.pte q level a else if pteBad level e then .error (2 + 8 * level) else .ok e

/-- A grant as a die's walkers find it (R371, log 76). -/
def State.grantBy (s : State) (wc : List WalkEnt) (q : Partition) (pfi : Nat) : Grant :=
  match wc.findSome? fun w => match w with
    | .grant p f g => if p = q.id ∧ f = pfi then some g else none
    | .table .. => none with
  | none => q.grant pfi
  | some g => if q.grant pfi = g ∨ Config.choice s.steps pfi % 2 = 0 then q.grant pfi else g

/-- The partition addresses of the entries that a walk reads. -/
def ptAddr1 (q : Partition) (va : Nat) : Nat := q.root.toNat + 8 * (va / 2 ^ 33 % 64)
def ptAddr2 (e1 va : Nat) : Nat := ptePa e1 + 8 * (va / 2 ^ 24 % 512)
def ptAddr3 (e2 va : Nat) : Nat := ptePa e2 + 8 * (va / 2 ^ 16 % 256)

/-- The walk of R368 down to its leaf, with what the walkers keep (R371). -/
def State.leaf (s : State) (wc : List WalkEnt) (q : Partition) (va : Nat) : Except Nat Leaf :=
  match s.pteBy wc q 1 (ptAddr1 q va) with
  | .error k => .error k
  | .ok e1 =>
    match s.pteBy wc q 2 (ptAddr2 e1 va) with
    | .error k => .error k
    | .ok e2 =>
      if e2 / 2 % 2 = 1 then .ok ⟨2, e2⟩
      else
        match s.pteBy wc q 3 (ptAddr3 e2 va) with
        | .error k => .error k
        | .ok e3 => .ok ⟨3, e3⟩

/-- The line whose tag is bad in which a walk of an address ends (R368, R376). -/
def State.badWalk (s : State) (wc : List WalkEnt) (q : Partition) (va : Nat) : Option Nat :=
  let at_ := fun (level a k : Nat) => if k = 5 + 8 * level then some (((q.grant (a / 65536)).pfn * 65536 + a % 65536) / 64) else none
  match s.pteBy wc q 1 (ptAddr1 q va) with
  | .error k => at_ 1 (ptAddr1 q va) k
  | .ok e1 => match s.pteBy wc q 2 (ptAddr2 e1 va) with
    | .error k => at_ 2 (ptAddr2 e1 va) k
    | .ok e2 => if e2 / 2 % 2 = 1 then none else match s.pteBy wc q 3 (ptAddr3 e2 va) with
      | .error k => at_ 3 (ptAddr3 e2 va) k
      | .ok _ => none

/-- What a walk leaves with the walkers: the valid non-leaf entries and grants that it read (R371). -/
def State.walkEnts (s : State) (wc : List WalkEnt) (q : Partition) (va : Nat) : List WalkEnt :=
  match s.pteBy wc q 1 (ptAddr1 q va) with
  | .error _ => []
  | .ok e1 =>
    let t1 := WalkEnt.table q.id (ptAddr1 q va) e1
    let grants := fun (pfis : List Nat) => (pfis.map fun f => (f, s.grantBy wc q f)).filterMap fun g =>
      if g.2.gv then some (WalkEnt.grant q.id g.1 g.2) else none
    match s.pteBy wc q 2 (ptAddr2 e1 va) with
    | .error _ => [t1]
    | .ok e2 =>
      if e2 / 2 % 2 = 1 then t1 :: grants [ptePa e2 / 65536 + va / 65536 % 256, ptePa e2 / 65536]
      else
        let t2 := WalkEnt.table q.id (ptAddr2 e1 va) e2
        match s.pteBy wc q 3 (ptAddr3 e2 va) with
        | .error _ => [t1, t2]
        | .ok e3 => t1 :: t2 :: grants [ptePa e3 / 65536]

/-- The leaf bits an access needs (R367). -/
def permits (r w x u : Bool) (need : Access) (user : Bool) : Bool :=
  (match need with
    | .read => r
    | .write => w
    | .atomic => r && w
    | .fetch => x) && (!user || u)

/-- DETAIL.WRITE of a translation fault: the access needed W (R369). -/
def needW : Access → Nat
  | .write | .atomic => 32
  | .read | .fetch => 0

/-- The whole walk: a translation-buffer entry, or DETAIL of the fault (R368, R369). -/
def State.walk (s : State) (wc : List WalkEnt) (q : Partition) (va : Nat) (need : Access) (user : Bool) : Except Nat TlbEnt :=
  match s.leaf wc q va with
  | .error k => .error (k + needW need)
  | .ok l =>
    let r := l.e.testBit 2
    let w := l.e.testBit 3
    let x := l.e.testBit 4
    let u := l.e.testBit 5
    if !permits r w x u need user then .error (3 + 8 * l.level + needW need)
    else
      let base := ptePa l.e
      let pfi := if l.level = 2 then base / 65536 + va / 65536 % 256 else base / 65536
      let g := s.grantBy wc q pfi
      let g0 := s.grantBy wc q (base / 65536)
      if !g.gv then .error (4 + needW need)
      else if l.level = 2 && g0.lg then .ok ⟨va / 2 ^ 24 * 256, 256, g0.pfn, base / 65536, r, w, x, u⟩
      else .ok ⟨va / 65536, 1, g.pfn, pfi, r, w, x, u⟩

/-- The physical byte address an entry gives. -/
def TlbEnt.pa (e : TlbEnt) (va : Nat) : Nat := (e.pfn + (va / 65536 - e.vf)) * 65536 + va % 65536
def TlbEnt.hits (e : TlbEnt) (va : Nat) : Bool := e.vf ≤ va / 65536 && va / 65536 < e.vf + e.frames

/-- What the walkers of a tile's die keep. -/
def State.walkersOf (s : State) (t : Tile) : List WalkEnt :=
  match s.gangOf t with
  | some g => match g.phys t.lidx with
    | some p => (s.die (p / 192)).wcache
    | none => []
  | none => []

/-- Translation at a tile: the buffer, least recently used first out, else a walk (R370, R371). -/
def State.translate (s : State) (t : Tile) (va : Nat) (need : Access) (user : Bool) : Except Nat Nat × List TlbEnt :=
  let walk := fun (tlb : List TlbEnt) =>
    match s.partOf t with
    | none => (Except.error (4 + needW need), tlb)
    | some q =>
      match s.walk (s.walkersOf t) q va need user with
      | .error k => (.error k, tlb)
      | .ok e => (.ok (e.pa va), (e :: tlb).take 64)
  match t.tlb.find? (·.hits va) with
  | none => walk t.tlb
  | some e =>
    let rest := t.tlb.filter fun f => f != e
    if permits e.r e.w e.x e.u need user then (.ok (e.pa va), e :: rest) else walk rest

/-- Translation by hardware with S rights, with no buffer and no kept entries (R372). -/
def State.sysPa (s : State) (part va : Nat) (need : Access) : Option Nat :=
  match s.part? part with
  | none => none
  | some q =>
    match s.walk [] q va need false with
    | .error _ => none
    | .ok e => some (e.pa va)

/-! ## Committed memory and store buffers (R107 to R109, R376) -/

/-- The frames that the moves of a frame, and of those in turn, copy it to. -/
def movesFrom (ms : List FrameMove) : Nat → Nat → List Nat
  | 0, _ => []
  | n + 1, pfn => (ms.filter fun m => m.old == pfn).flatMap fun m => m.new :: movesFrom ms n m.new
/-- The frames a write to a frame in mirror-write mode also reaches (R376). -/
def State.mirrors (s : State) (pfn : Nat) : List Nat := movesFrom s.svc.moves s.svc.moves.length pfn
/-- Writes one byte of committed memory. -/
def State.memPut (s : State) (pa : Nat) (b : Byte) : State :=
  { s with mem := (s.mirrors (pa / 65536)).foldl (fun m f => memWrite (f * 65536 + pa % 65536) b m) (memWrite pa b s.mem) }
def State.memPuts (s : State) (pa : Nat) (bs : List Byte) : State :=
  (bs.zipIdx).foldl (fun s b => s.memPut (pa + b.2) b.1) s
/-- Lines of which all 64 bytes have been written have a good tag again, in the mirror frames too (R376, R439). -/
def State.mend (s : State) (pas : List Nat) : State :=
  if s.svc.bad.isEmpty then s
  else
    let full := ((pas.map (· / 64)).eraseDups).filter fun l => ((pas.filter fun a => a / 64 == l).eraseDups).length == 64
    let all := full.flatMap fun l => l :: (s.mirrors (l / 1024)).map fun f => f * 1024 + l % 1024
    { s with svc := { s.svc with bad := s.svc.bad.filter fun l => !all.contains l } }
def State.memNat (s : State) (pa n : Nat) : Nat := leNat ((List.range n).map fun i => memRead (pa + i) s.mem)

/-- A committed byte as a gang sees it: the bytes its merge points have staged first (R112). -/
def State.committed (s : State) (g : Option Gang) (pa : Nat) : Byte :=
  match g with
  | some g => (smFind pa g.staged).getD (memRead pa s.mem)
  | none => memRead pa s.mem

/-- The task a global access belongs to: the open task, or none for the background task. -/
def Tile.openTask (t : Tile) : Option Nat := if t.task.opened then some (t.task.tasks.length - 1) else none
def Tile.getTask (t : Tile) (k : Option Nat) : Task :=
  match k with
  | none => t.task.bg
  | some i => t.task.tasks.getD i t.task.bg
def Tile.setTask (t : Tile) (k : Option Nat) (f : Task → Task) : Tile :=
  match k with
  | none => { t with task := { t.task with bg := f t.task.bg } }
  | some i => { t with task := { t.task with tasks := t.task.tasks.modify i f } }

/-- Distinct 64 B lines of physical addresses. -/
def linesOf (pas : List Nat) : List Nat := (pas.map (· / 64)).eraseDups
/-- Bytes of the store-buffer area one task takes (R385). -/
def Task.cost (k : Task) : Nat := 32 + 96 * (linesOf (k.gsb.map (·.1))).length + 8 * k.reads.length
/-- Bytes a store to these addresses would add. -/
def Task.storeCost (k : Task) (pas : List Nat) : Nat :=
  96 * ((linesOf pas).filter fun l => !(linesOf (k.gsb.map (·.1))).contains l).length
/-- The physical bytes that a task's split stores waiting for their data, and the stores behind them, have claimed (R109). -/
def Tile.claimed (t : Tile) (k : Option Nat) : List Nat := (t.fe.xq.flatMap fun x =>
  match x.work with
  | .part (.storeY _ _ _ _ (.global pas k') _) => if k' = k then pas else []
  | .part (.storeV _ _ (.global pas k')) => if k' = k then pas else []
  | _ => []) ++ t.fe.late.flatMap fun e => match e.what with
  | .gsb k' bs => if k' = k then bs.map (·.1) else []
  | _ => []
/-- The lines that outstanding loads of a task will put in its read set (R107, R109). -/
def Tile.pendingReads (t : Tile) (k : Option Nat) : List Nat :=
  (t.loads.flatMap fun l => match l.kind with
    | .global bs k' => if k' = k then linesOf ((bs.filter fun b => b.2.isNone).map (·.1)) else []
    | _ => []).eraseDups
/-- Bytes of the area one task takes, the claims of its stores and loads included (R109). -/
def Tile.taskUse (t : Tile) (k : Option Nat) : Nat :=
  let a := t.getTask k
  a.cost + a.storeCost (t.claimed k) + (if a.bg then 0 else 8 * ((t.pendingReads k).filter fun l => !a.reads.contains l).length)
/-- Bytes of the store-buffer area in use (R385). -/
def Tile.areaUse (t : Tile) : Nat :=
  t.taskUse none + (List.range t.task.tasks.length).foldl (fun a k => a + t.taskUse (some k)) 0 + 16 * t.damos.length

/-- Whether the store-buffer area has room for more bytes: those that it takes translate. The frames that the supervisor maps for S mode
behind the area extend it (R109, R372, R385; log 41). -/
def State.areaFits (s : State) (t : Tile) (cost : Nat) : Bool :=
  let u := t.areaUse + cost
  match t.task.abase, s.partOf t with
  | some b, some q =>
    cost == 0 || (decide (u ≤ (1 + Config.areaGrowth) * t.task.area) && (s.sysPa q.id (b + t.areaUse) .write).isSome && (s.sysPa q.id (b + u - 1) .write).isSome)
  | _, _ => decide (u ≤ t.task.area)
/-- Bytes a store would add to the area of a task, other stores of it having claimed their lines (R109). -/
def Tile.storeCost (t : Tile) (k : Option Nat) (pas : List Nat) : Nat :=
  let a := t.getTask k
  96 * ((linesOf pas).filter fun l => !(linesOf (a.gsb.map (·.1) ++ t.claimed k)).contains l).length
/-- Bytes a load of these addresses would add; the background task keeps no read set (R108). -/
def Task.loadCost (k : Task) (pas : List Nat) : Nat :=
  if k.bg then 0
  else 8 * ((linesOf (pas.filter fun a => (smFind a k.gsb).isNone)).filter fun l => !k.reads.contains l).length
/-- Bytes that a load of these addresses would add to the area of a task with other loads outstanding. -/
def Tile.loadCost (t : Tile) (k : Option Nat) (pas : List Nat) : Nat :=
  let a := t.getTask k
  { a with reads := a.reads ++ t.pendingReads k }.loadCost pas
/-- Enters bytes in a task's GSB: physical address, virtual address, byte (R107, R373). -/
def Task.store (k : Task) (bs : List (Nat × Nat × Byte)) : Task :=
  { k with gsb := bs.foldl (fun m b => smPut b.1 b.2 m) k.gsb }
/-- Lines join the read set (R107). -/
def Task.read (k : Task) (pas : List Nat) : Task :=
  if k.bg then k
  else { k with reads := (linesOf pas).foldl (fun r l => if r.contains l then r else r ++ [l]) k.reads }

/-! ## Network items and events -/

/-- Sends an item to a logical index of the gang. -/
def State.send (s : State) (t : Tile) (dst : Nat) (m : Msg) (due : Nat := 0) : State :=
  match t.gang with
  | none => s
  | some g => { s with net := s.net ++ [⟨g, t.lidx, dst, m, due, false, s.tick, t.pair.count + 1⟩] }

/-- Steps the 16-bit route LFSR with taps 16, 14, 13 and 11 (R151). -/
def lfsrStep (r : BitVec 16) : BitVec 16 :=
  let b := (r.getLsbD 0 ^^ r.getLsbD 2) ^^ (r.getLsbD 3 ^^ r.getLsbD 5)
  (r >>> 1) ||| (if b then 0x8000#16 else 0)
/-- A request chooses its route and steps the LFSR (R151). -/
def Tile.route (t : Tile) : Tile := { t with sr := { t.sr with lfsr := lfsrStep t.sr.lfsr } }

/-- An event record to the gang's ring, or one more lost (R360, R372, R444). -/
def State.event (s : State) (gid kind lidx ldie detail : Nat) : State :=
  match s.gang? gid with
  | none => s
  | some g =>
    let lost := s.setGang { g with evlost := g.evlost + 1 }
    let ring := g.evring.toNat
    match s.sysPa g.part ring .write with
    | none => lost
    | some h =>
      let c := (2 ^ g.evlog2 - 64) / 32
      let widx := s.memNat h 8
      let ridx := s.memNat (h + 8) 8
      if (widx + 2 ^ 64 - ridx) % 2 ^ 64 = c then lost
      else
        match s.sysPa g.part (ring + 64 + 32 * (widx % c)) .write with
        | none => lost
        | some a =>
          let rec0 := kind % 256 + lidx % 2048 * 2 ^ 8 + ldie % 8 * 2 ^ 19 + detail % 2 ^ 32 * 2 ^ 32
          let s := s.memPuts a (leBytes 8 rec0 ++ leBytes 8 s.tick ++ leBytes 16 0)
          s.memPuts h (leBytes 8 ((widx + 1) % 2 ^ 64))

/-- An event of the thread of a tile. -/
def State.threadEvent (s : State) (t : Tile) (kind detail : Nat) : State :=
  match t.gang with
  | none => s
  | some g => s.event g kind t.lidx (t.lidx / 192) detail

/-- Effects that leave a redundant pair (R406). -/
def Msg.leavesPair : Msg → Bool
  | .store .. | .load .. | .packet _ | .mcmd .. | .amo .. | .damo _ => true
  | _ => false
/-- The physical tile of an index of an item's gang. -/
def State.flightTile (s : State) (f : Flight) (l : Nat) : Option Nat :=
  match s.gang? f.g with
  | none => none
  | some g => g.phys l
/-- Whether an item waits for a touchmark agreement of the pair that sent it (R406, R407). -/
def State.pairHolds (s : State) (f : Flight) : Bool :=
  f.msg.leavesPair && (match s.flightTile f f.src with
    | some p => (s.tile p).pair.partner.isSome && decide ((s.tile p).pair.agreed < f.nth)
    | none => false)
/-- An item that goes to a thread: not to memory, nor to a die's barrier unit. -/
def Msg.toThread : Msg → Bool
  | .ready _ | .amo .. | .damo _ => false
  | _ => true
/-- Whether the routers hold an item back, as the context of its destination moves (R419 step 3). -/
def State.routerHolds (s : State) (f : Flight) : Bool :=
  f.msg.toThread && (match s.flightTile f f.dst with
    | some p => (s.tile p).ctl.moveEnd.isSome
    | none => false)
/-- Whether a gang switch has ejected every packet of a gang: none performs from Ts + 4,096 on, until the contexts are restored (R388). -/
def State.ejected (s : State) (g : Nat) : Bool := (s.gang? g).any fun h => h.stat == .stopped && decide (h.ts + 4096 ≤ s.tick)

/-- The network item k, taken off the network at its arrival; none when there is none, when it is parked (R154), when its
pair has not agreed on it (R406), when a migration holds it (R419), when a gang switch has ejected it (R388), or before its tick (R134, R143). -/
def State.arrival (s : State) (k : Nat) : Option (Flight × State) :=
  match s.net[k]? with
  | none => none
  | some f =>
    if f.parked || s.pairHolds f || s.routerHolds f || s.ejected f.g || decide (s.tick < f.due) then none
    else some (f, { s with net := s.net.eraseIdx k })
/-- Whether a gang switch or a migration has stopped the thread. -/
def Tile.isStopped (t : Tile) : Bool :=
  match t.ctl.stat with
  | .stopped _ | .moving _ => true
  | _ => false

/-- Whether a gang switch has stopped the thread (R387). -/
def Tile.switched (t : Tile) : Bool :=
  match t.ctl.stat with
  | .stopped _ => true
  | _ => false

/-- The swallow pattern of the cluster of tile p (R411). -/
def State.clkpat (s : State) (p : Nat) : Word := ((s.die (p / 192)).clusters.toList.getD (p % 192 / 4) ⟨0xFFFF, [], 0⟩).pat.setWidth 64
/-- Whether the slot of this tick is enabled in the cluster of tile p, one of the package's (R2, R16, R411). -/
def State.slotOn (s : State) (p : Nat) : Bool := decide (p < Config.tiles) && (s.clkpat p).getLsbD (s.tick % 16)

/-- The tick of the k-th enabled slot after a tick, as far as the fuel goes (R2, R411). -/
def slotFrom (pat : BitVec 16) : Nat → Nat → Nat → Nat
  | 0, t, _ => t
  | f + 1, t, k => if pat.getLsbD ((t + 1) % 16) then (if k ≤ 1 then t + 1 else slotFrom pat f (t + 1) (k - 1)) else slotFrom pat f (t + 1) k
def nthSlot (pat : BitVec 16) (t k : Nat) : Nat := slotFrom pat (16 * k) t k
/-- The enabled slots after a tick up to another (R2). -/
def slotsIn (pat : BitVec 16) (t u : Nat) : Nat := (List.range (u - t)).countP fun i => pat.getLsbD ((t + i + 1) % 16)

/-- Results of a tile in a cluster whose pattern changes: those in flight have as many cycles to go as before (R2). -/
def Tile.redue (t : Tile) (tick : Nat) (old new : BitVec 16) : Tile :=
  let due := fun (d : Nat) => if d ≤ tick then d else nthSlot new tick (slotsIn old tick d)
  if t.fe.res.isEmpty && decide (t.fe.fAt ≤ tick) then t
  else { t with fe := { t.fe with res := t.fe.res.map fun o => { o with due := due o.due }, fAt := due t.fe.fAt } }

/-- The address of the word a thread waits at. -/
def Tile.waitPc (t : Tile) : Word :=
  match t.fe.aq with
  | x :: _ => x.pc
  | [] => t.fe.pc
/-- Drops the port values kept for the word that a thread has waited at (R336). -/
def Tile.unkeep (t : Tile) : Tile :=
  { t with fe := { t.fe with kept := t.fe.kept.filter fun k => k.pc != t.waitPc || k.mode != t.mode } }

/-- Whether no instruction of a thread's gang may issue now: at or after a stop tick, a rollback's Ts or a freeze (R387, R398, R434). -/
def State.barred (s : State) (t : Tile) : Bool :=
  (match s.gangOf t with
    | none => true
    | some g => (g.stat == .stopping && g.ts ≤ s.tick) || (match g.rolling with
      | some (ts, _) => decide (ts ≤ s.tick)
      | none => false)) ||
  (match s.svc.frozen with
    | some tf => decide (tf ≤ s.tick)
    | none => false)

/-- A record of a die's error log, the oldest of 256 overwritten (R410). -/
def State.logError (s : State) (d : Nat) (r : ErrRec) : State :=
  s.onDie d fun q => { q with errlog := (if 256 ≤ q.errlog.length then q.errlog.tail else q.errlog) ++ [r] }

/-- A record about a physical tile, with RCOUNT after the event: `more` rollbacks on (R410). -/
def State.logTile (s : State) (kind p : Nat) (unit : UcUnit) (addr : Word) (more : Nat := 0) : State :=
  s.logError (p / 192) ⟨kind, p % 2048, unit, min 4 (bitsOf (s.tile p).ir.relstat 6 4 + more), addr, s.tick⟩

/-- Whether a pair has agreed on every instruction of its thread; a thread without a follower always has (R406). -/
def Tile.agreed (t : Tile) : Bool := t.pair.partner.isNone || t.pair.agreed == t.pair.count

/-- Bytes join both touchmarks of the pair that tile p leads: values that reach a register after their instruction has issued (R407; log 22). -/
def State.markMore (s : State) (p : Nat) (bs : List Byte) : State :=
  match (s.tile p).pair.partner with
  | none => s
  | some q =>
    if !(s.tile p).pair.leader || bs.isEmpty then s
    else
      let add := fun (t : Tile) => { t with pair := { t.pair with mark := crc64 t.pair.mark bs } }
      (s.onTile p add).onTile q add

/-- A report of the service. -/
def State.notice (s : State) (n : Notice) : State := { s with svc := { s.svc with notices := s.svc.notices ++ [n] } }

end Sys2Proof.Machine
end

