-- ==== Sys2Proof/Machine/LoadStore.lean ====
section
/-! DEFINITION. LoadStore: scalar loads and stores of both slices (R245 to R248) and the X parts they leave (R221). -/

namespace Sys2Proof.Machine

/-! ## Checks (R245) -/

/-- Whether a store to self-window bytes [off, off + n) meets the schedule-table region it may not write (R36). -/
def Tile.schedHit (t : Tile) (off n : Nat) : Bool := t.user && t.task.hasSched && Config.schedBase < off + n && n != 0

/-- Translation and store-buffer space of a global access of n bytes within a frame: physical addresses, or the trap
(R109, R245 step 5). -/
def State.checkGlobal (s : State) (t : Tile) (a : Word) (n : Nat) (store : Bool) : Except Cause (List Nat) × Tile :=
  let r := s.translate t a.toNat (if store then .write else .read) t.user
  let t := { t with tlb := r.2 }
  match r.1 with
  | .error d => (.error (cTranslation a d), t)
  | .ok pa =>
    let pas := (List.range n).map (pa + ·)
    let cost := if store then t.storeCost t.openTask pas else t.loadCost t.openTask pas
    if cost != 0 && !s.areaFits t cost then (.error (cGsbFull a), t) else (.ok pas, t)

/-- The checks of R245 in order, for an access of w bytes at a: the region and, for global memory, the physical bytes. -/
def State.checkScalar (s : State) (t : Tile) (a : Word) (w : Nat) (store : Bool) : Except Cause (Region × List Nat) × Tile :=
  let bad := (Except.error (cAddress a), t)
  if a.toNat % w != 0 then bad
  else match region a with
    | none => bad
    | some (.self off fmt span pln) =>
      if fmt != 1 && pln != 0 then bad
      else if store && t.schedHit off w then (.error (cStorePerm a), t)
      else (.ok (.self off fmt span pln, []), t)
    | some (.remote l off fmt span) =>
      if fmt == 1 || !s.hasIndex t l then bad
      else if t.task.region then (.error cTaskRegion, t)
      else (.ok (.remote l off fmt span, []), t)
    | some (.global va) =>
      match s.checkGlobal t a w store with
      | (.error c, t) => (.error c, t)
      | (.ok pas, t) => (.ok (.global va, pas), t)

/-! ## Order behind split accesses (R98, R100, R107) -/

/-- Whether an unfinished X part is a split access to a region that later ones must follow: its own scratchpad, the same tile,
or global memory. -/
def XPart.holds (p : XPart) (r : Region) : Bool :=
  match p, r with
  | .storeY _ _ _ _ .self _, .self .. => true
  | .storeV _ _ .self, .self .. => true
  | .loadV _ a none, .self .. => (match region a.base with
    | some (.self ..) => true
    | _ => false)
  | .storeY _ _ _ _ (.remote d _) _, .remote l .. => d == l
  | .storeV _ _ (.remote d _), .remote l .. => d == l
  | .storeY _ _ _ _ (.global ..) _, .global _ => true
  | .storeV _ _ (.global ..), .global _ => true
  | _, _ => false

/-- Whether an earlier split access of the executing A word to a region has no data yet. -/
def Tile.behind (t : Tile) (r : Region) : Bool :=
  t.fe.xq.any fun x => x.seq < t.fe.iseq && (match x.work with
    | .part p => p.holds r
    | _ => false)

/-- Whether an access to the own scratchpad must wait in A behind an earlier split one (R98). -/
def Tile.behindSelf (t : Tile) (r : Region) : Bool :=
  match r with
  | .self .. => t.behind r
  | _ => false

/-- Leaves an effect of the executing word behind the earlier split stores (R246: A does not wait for it). -/
def Tile.later (t : Tile) (l : Late) : Tile := { t with fe := { t.fe with late := t.fe.late ++ [⟨t.fe.iseq, l⟩] } }

/-! ## Loads -/

/-- Records an outstanding load or AMO. -/
def Tile.addLoad (t : Tile) (tick : Nat) (kind : LoadKind) (rd : Option XReg) (size : Nat) (signed : Bool) (va : Word) (lanes : Nat) : Nat × Tile :=
  let (id, t) := t.serial
  (id, { t with loads := t.loads ++ [⟨id, kind, rd, size, signed, va, lanes, none, tick⟩] })

/-- The bytes a global load takes from its task's GSB now; the others are fixed from committed memory later (R107). -/
def Tile.overlay (t : Tile) (pas : List Nat) (k : Option Nat) : List (Nat × Option Byte) :=
  let g := (t.getTask k).gsb
  pas.map fun a => (a, (smFind a g).map (·.2))

/-- Sends a remote load of elements, behind the earlier split stores to that tile (R100, R246). -/
def State.remoteLoad (s : State) (t : Tile) (r : Region) (l id : Nat) (va : Word) (places : List (List Piece)) (low : BitVec 5) : State :=
  if t.behind r then s.setT (t.route.later (.fetch l id va t.sr.bhkey places low))
  else (s.setT t.route).send t l (.load id va t.sr.bhkey places low [])

/-- Records a global load, a request that takes a route (R150, R151); behind an earlier split global store its bytes are fixed later (R107). -/
def Tile.globalLoad (t : Tile) (tick : Nat) (r : Region) (pas : List Nat) (rd : Option XReg) (size : Nat) (signed : Bool) (va : Word) (lanes : Nat) : Nat × Tile :=
  let k := t.openTask
  let (id, u) := t.route.addLoad tick (.global (t.overlay pas k) k) rd size signed va lanes
  (id, if t.behind r then u.later (.read id k pas) else u)

/-- Whole bytes as pieces. -/
def bytePieces (off n : Nat) : List Piece := (List.range n).map fun i => ⟨off + i, 0, 8⟩

/-- A scalar load to an x register (R245, R246, R247). -/
def State.loadX (s : State) (rd rs1 : XReg) (imm : Word) (w : Nat) (signed : Bool) : State :=
  s.aWord [rs1] [rd] fun s =>
    let a := s.t.popX rs1
    let va := a.1 + imm
    match s.checkScalar a.2 va w false with
    | (.error c, t) => s.setT ({ s.t with tlb := t.tlb }.trap c)
    | (.ok (r, pas), t) =>
      if t.behindSelf r then s.hold
      else match r with
        | .self off _ span _ => s.setT (t.putX rd (extend signed w (t.spadNat span t.sr.bhkey off w)))
        | .remote l off _ _ =>
          let (id, t) := t.addLoad s.tick .remote (some rd) w signed va 1
          s.remoteLoad t r l id va [bytePieces off w] rd
        | .global _ => s.setT (t.globalLoad s.tick r pas (some rd) w signed va 1).2

/-! ## Stores -/

/-- The lowest free journal entry (R92). -/
def Tile.freeEntry (t : Tile) : Option Nat :=
  (List.range Config.journalDepth).find? fun n => !t.ni.journal.any fun e => e.num == n

/-- Takes a journal entry for a remote store. -/
def Tile.takeEntry (t : Tile) (n dst : Nat) (va : Word) : Nat × Tile :=
  let (id, t) := t.serial
  (id, { t with ni := { t.ni with journal := t.ni.journal ++ [⟨n, id, dst, va⟩] } })

/-- The earliest tick a remote store performs: on the TIMED class, p of R134. -/
def State.storeDue (s : State) (t : Tile) (l : Nat) : Nat :=
  if t.ni.timedWin then
    match s.gangOf t with
    | none => 0
    | some g =>
      match g.phys t.lidx, g.phys l with
      | some p, some q => s.tick + timedTicks p q 0
      | _, _ => 0
  else 0

/-- Sends a remote store that holds its journal entry (R92, R134, R273). A TIMED store is no request that chooses its route
(R134, R151). -/
def State.sendStore (s : State) (t : Tile) (l ent id : Nat) (va key : Word) (ws : List (Piece × Nat)) : State :=
  let s := s.setT (if t.ni.timedWin then t else t.route)
  s.send t l (.store ent id va key ws t.ni.timedWin false) (s.storeDue t l)

/-- The bytes of a value at physical and virtual addresses, for a GSB. -/
def gsbBytes (pas : List Nat) (va v : Nat) : List (Nat × Nat × Byte) :=
  pas.zipIdx.map fun p => (p.1, va + p.2, BitVec.ofNat 8 (v / 256 ^ p.2))

/-- The value v of w bytes as pieces with their contents. -/
def byteWrites (off w v : Nat) : List (Piece × Nat) := writePieces v (bytePieces off w)

/-- A scalar store of an x register (R245, R246, R247). -/
def State.storeX (s : State) (rs2 rs1 : XReg) (imm : Word) (w : Nat) : State :=
  s.aWord [rs1, rs2] [] fun s =>
    let a := s.t.popX rs1
    let b := a.2.popX rs2
    let va := a.1 + imm
    match s.checkScalar b.2 va w true with
    | (.error c, t) => s.setT ({ s.t with tlb := t.tlb }.trap c)
    | (.ok (r, pas), t) =>
      if t.behindSelf r then s.hold
      else match r with
        | .self off _ span _ => s.setT (t.spadPut span t.sr.bhkey off w b.1.toNat)
        | .remote l off _ _ =>
          match t.freeEntry with
          | none => s.stall [rs1, rs2]
          | some n =>
            let (id, t) := t.takeEntry n l va
            let ws := byteWrites off w b.1.toNat
            if t.behind r then
              s.setT ((if t.ni.timedWin then t else t.route).later (.store l n id va t.sr.bhkey ws t.ni.timedWin (s.storeDue t l)))
            else s.sendStore t l n id va t.sr.bhkey ws
        | .global va' =>
          let bs := gsbBytes pas va' b.1.toNat
          if t.behind r then s.setT (t.later (.gsb t.openTask bs)) else s.setT (t.setTask t.openTask fun k => k.store bs)

/-! ## Split forms (R221, R248) -/

/-- Whether the executing word has its place in the X issue queue already (R22, R221). -/
def Tile.placed (t : Tile) : Bool := t.fe.xq.any fun x => x.seq == t.fe.iseq
/-- Whether the executing split word finds no place in the X issue queue (R22). -/
def Tile.noPlace (t : Tile) : Bool := !t.placed && decide (Config.xqDepth ≤ t.fe.xq.length)

/-- Puts an X part in the X issue queue, at the place of its word in X order (R22, R222). -/
def Tile.pushPart (t : Tile) (p : XPart) : Tile :=
  let e : Slot := ⟨t.fe.iseq, t.fe.ipc, t.fe.loops, .part p⟩
  { t with fe := { t.fe with
    xq := if t.placed then t.fe.xq.map (fun x => if x.seq == t.fe.iseq then e else x) else t.fe.xq ++ [e] } }

/-- Does one late effect (R100, R107). -/
def State.doLate (s : State) (l : Late) : State :=
  let t := s.t
  match l with
  | .store dst ent id va key ws timed due => s.send t dst (.store ent id va key ws timed false) due
  | .fetch dst id va key places low => s.send t dst (.load id va key places low [])
  | .gsb k bs => s.setT (t.setTask k fun k => k.store bs)
  | .read id k pas => s.setT { t with loads := t.loads.map fun l =>
      if l.id = id then { l with kind := .global (t.overlay pas k) k } else l }

/-- Whether a late effect still stands behind a split store without data. -/
def Tile.lateHeld (t : Tile) (e : LateEnt) : Bool :=
  t.fe.xq.any fun x => x.seq < e.seq && (match x.work, e.what with
    | .part p, .store dst .. => p.holds (.remote dst 0 0 0)
    | .part p, .fetch dst .. => p.holds (.remote dst 0 0 0)
    | .part p, .gsb .. => p.holds (.global 0)
    | .part p, .read .. => p.holds (.global 0)
    | _, _ => false)

/-- After an X part: the late effects that nothing holds any more, in order. -/
def State.flushLate (s : State) : State :=
  let t := s.t
  if t.fe.late.isEmpty then s
  else
    let u := { t with fe := { t.fe with late := t.fe.late.filter t.lateHeld } }
    (t.fe.late.filter fun e => !t.lateHeld e).foldl (fun s e => s.doLate e.what) (s.setT u)

/-- The X part of a split y load or store, when its data and ports are ready (R248). -/
def State.runPartY (s : State) (p : XPart) : Option State :=
  let t := s.t
  match p with
  | .loadY yd size signed _ (some bs) =>
    match t.gateY [] [yd] with
    | .go => some (s.setT (t.putY yd (extend signed size (leNat bs))))
    | _ => none
  | .storeY ys size va key tgt id =>
    match t.gateY [ys] [] with
    | .go =>
      let (v, t) := t.popY ys
      match tgt with
      | .self =>
        match region va with
        | some (.self off _ span _) => some (s.setT (t.spadPut span key off size v.toNat))
        | _ => some s
      | .remote dst ent =>
        match region va with
        | some (.remote _ off _ _) => some (s.sendStore t dst ent id va key (byteWrites off size v.toNat))
        | _ => some s
      | .global pas k' => some (s.setT (t.setTask k' fun k => k.store (gsbBytes pas va.toNat v.toNat)))
    | _ => none
  | _ => none

/-- Whether an X part is a load from elsewhere whose data has not come. -/
def XPart.dataless (p : XPart) : Bool :=
  match p with
  | .loadY _ _ _ _ none => true
  | .loadV _ a none => (match region a.base with
    | some (.self ..) => false
    | _ => true)
  | _ => false
/-- The v registers whose values an X part needs: a store's data, an index, the old value of a masked load's destination. -/
def XPart.vSrcs (p : XPart) : List VReg :=
  let idx := fun (a : VAcc) => match a.form with
    | .index vs => [vs]
    | _ => []
  match p with
  | .loadV vd a _ => (if a.vm = 0 then [] else [vd]) ++ idx a
  | .storeV vs a _ => vs :: idx a
  | .loadY .. | .storeY .. => []
/-- Whether an X part waits for a register whose result is outstanding (R222, R223). -/
def Tile.partHeld (t : Tile) (p : XPart) : Bool :=
  p.vSrcs.any t.awaitsV || (match p with
    | .loadY yd .. => t.awaitsEnv yd || ((yd == 12 || yd == 13) && (t.awaitsY yd || t.inY yd != 0))
    | .loadV _ a _ | .storeV _ a _ => t.awaitsM a.vm
    | .storeY .. => false)
/-- An X part overwrites what an earlier load had still to write (R246). -/
def Tile.partOver (t : Tile) (p : XPart) : Tile :=
  match p with
  | .loadY yd .. => t.dropY [yd]
  | .loadV vd .. => t.dropV vd
  | .storeY .. | .storeV .. => t
/-- The mask word that an X part supplies (R221). -/
def Tile.partMask (t : Tile) (p : XPart) : Word :=
  match p with
  | .loadV _ a _ => t.mval a.vm
  | _ => ones64
/-- A global load takes no bytes in the lanes that its mask leaves out: they take 0, which is written nowhere (R49, R107, R221, R273). -/
def Load.masked (l : Load) (m : Word) : Load :=
  match l.kind with
  | .global bs k => { l with kind := .global (bs.zipIdx.map fun b => if laneOn l.size m (b.2 / l.size) then b.1 else (b.1.1, some 0)) k }
  | .remote | .amo => l
/-- The load of an X part learns the mask that the part supplies. -/
def Tile.partAsk (t : Tile) (p : XPart) : Tile :=
  match p with
  | .loadV _ a _ => { t with loads := t.loads.map fun l => if l.id = a.id then l.masked (t.mval a.vm) else l }
  | _ => t
/-- X issues the part of place n: a load whose data is still to come waits for it beside the queue, and no other instruction waits (R23,
R246); `run` does any other. None when it cannot issue yet. -/
def State.issuePart (run : State → XPart → Option State) (s : State) (n : Nat) (p : XPart) : Option State :=
  if s.t.partHeld p then none
  else
    let t := s.t.partOver p
    if p.dataless then
      let t := t.partAsk p
      some (s.setT { t with fe := { t.fe with xl := t.fe.xl ++ [⟨n, p, t.partMask p⟩] } })
    else run (s.setT t) p

/-- Puts an X part in its place; with nothing before it, it issues at once if it can (R23). -/
def State.part (run : State → XPart → Option State) (s : State) (p : XPart) : State :=
  if s.t.fe.xq.isEmpty then (s.issuePart run s.t.fe.iseq p).getD (s.setT (s.t.pushPart p)) else s.setT (s.t.pushPart p)
def State.partY (s : State) (p : XPart) : State := s.part State.runPartY p

/-- A split load to a y register; its response comes to its X part (R248). -/
def State.loadY (s : State) (yd : YReg) (rs1 : XReg) (imm : BitVec 8) (w : Nat) (signed : Bool) : State :=
  s.aWord [rs1] [] fun s =>
    let a := s.t.popX rs1
    let va := a.1 + imm.signExtend 64
    match s.checkScalar a.2 va w false with
    | (.error c, t) => s.setT ({ s.t with tlb := t.tlb }.trap c)
    | (.ok (r, pas), t) =>
      if t.behindSelf r || t.noPlace then s.hold
      else match r with
        | .self off _ span _ =>
          (s.setT t).partY (.loadY yd w signed none (some (leBytes w (t.spadNat span t.sr.bhkey off w))))
        | .remote l off _ _ =>
          let (id, t) := t.addLoad s.tick .remote none w signed va 1
          (s.remoteLoad t r l id va [bytePieces off w] (yd.setWidth 5)).partY (.loadY yd w signed (some id) none)
        | .global _ =>
          let (id, t) := t.globalLoad s.tick r pas none w signed va 1
          (s.setT t).partY (.loadY yd w signed (some id) none)

/-- Whether the data port of a split store is one that a pending DAMO is to fill: the store traps where nothing stands in it before that, once the X words
before the store have issued (R116, R326, R355). -/
def Tile.earlyStore (t : Tile) (ys : YReg) : Gate :=
  let pend := fun (r : XReg) => t.user && t.damos.any fun d => d.rd == r && d.seq < t.fe.iseq
  if (ys == 14 && pend 28) || (ys == 15 && pend 29) then
    if !t.issuedX t.fe.iseq then .hold
    else if ys = 14 ∧ t.regs.qax0 = [] then .trap (cPremature 28)
    else if ys = 15 ∧ t.regs.qax1 = [] then .trap (cPremature 29)
    else .go
  else .go

/-- A split store of a y register (R248). -/
def State.storeY (s : State) (ys : YReg) (rs1 : XReg) (imm : BitVec 8) (w : Nat) : State :=
  match s.t.earlyStore ys with
  | .hold => s.hold
  | .trap c => s.trap c
  | .go => s.aWord [rs1] [] fun s =>
    let a := s.t.popX rs1
    let va := a.1 + imm.signExtend 64
    match s.checkScalar a.2 va w true with
    | (.error c, t) => s.setT ({ s.t with tlb := t.tlb }.trap c)
    | (.ok (r, pas), t) =>
      if t.behindSelf r || t.noPlace then s.hold
      else match r with
        | .self .. =>
          let (id, t) := t.serial
          (s.setT t).partY (.storeY ys w va t.sr.bhkey .self id)
        | .remote l _ _ _ =>
          match t.freeEntry with
          | none => s.stall [rs1]
          | some n =>
            let (id, t) := t.takeEntry n l va
            (s.setT t).partY (.storeY ys w va t.sr.bhkey (.remote l n) id)
        | .global _ =>
          let (id, t) := t.serial
          (s.setT t).partY (.storeY ys w va t.sr.bhkey (.global pas t.openTask) id)

/-! ## The meanings (R247, R248) -/
/-- LB (R247). -/
def execLb (rd rs1 : XReg) (imm : BitVec 12) (s : State) : Out := .next (s.loadX rd rs1 (imm.signExtend 64) 1 true)
/-- LH (R247). -/
def execLh (rd rs1 : XReg) (imm : BitVec 12) (s : State) : Out := .next (s.loadX rd rs1 (imm.signExtend 64) 2 true)
/-- LW (R247). -/
def execLw (rd rs1 : XReg) (imm : BitVec 12) (s : State) : Out := .next (s.loadX rd rs1 (imm.signExtend 64) 4 true)
/-- LD (R247). -/
def execLd (rd rs1 : XReg) (imm : BitVec 12) (s : State) : Out := .next (s.loadX rd rs1 (imm.signExtend 64) 8 false)
/-- LBU (R247). -/
def execLbu (rd rs1 : XReg) (imm : BitVec 12) (s : State) : Out := .next (s.loadX rd rs1 (imm.signExtend 64) 1 false)
/-- LHU (R247). -/
def execLhu (rd rs1 : XReg) (imm : BitVec 12) (s : State) : Out := .next (s.loadX rd rs1 (imm.signExtend 64) 2 false)
/-- LWU (R247). -/
def execLwu (rd rs1 : XReg) (imm : BitVec 12) (s : State) : Out := .next (s.loadX rd rs1 (imm.signExtend 64) 4 false)
/-- SB (R247). -/
def execSb (rs2 rs1 : XReg) (imm : BitVec 12) (s : State) : Out := .next (s.storeX rs2 rs1 (imm.signExtend 64) 1)
/-- SH (R247). -/
def execSh (rs2 rs1 : XReg) (imm : BitVec 12) (s : State) : Out := .next (s.storeX rs2 rs1 (imm.signExtend 64) 2)
/-- SW (R247). -/
def execSw (rs2 rs1 : XReg) (imm : BitVec 12) (s : State) : Out := .next (s.storeX rs2 rs1 (imm.signExtend 64) 4)
/-- SD (R247). -/
def execSd (rs2 rs1 : XReg) (imm : BitVec 12) (s : State) : Out := .next (s.storeX rs2 rs1 (imm.signExtend 64) 8)
/-- LB to y (R248). -/
def execLbY (yd : YReg) (rs1 : XReg) (imm : BitVec 8) (s : State) : Out := .next (s.loadY yd rs1 imm 1 true)
/-- LH to y (R248). -/
def execLhY (yd : YReg) (rs1 : XReg) (imm : BitVec 8) (s : State) : Out := .next (s.loadY yd rs1 imm 2 true)
/-- LW to y (R248). -/
def execLwY (yd : YReg) (rs1 : XReg) (imm : BitVec 8) (s : State) : Out := .next (s.loadY yd rs1 imm 4 true)
/-- LD to y (R248). -/
def execLdY (yd : YReg) (rs1 : XReg) (imm : BitVec 8) (s : State) : Out := .next (s.loadY yd rs1 imm 8 false)
/-- LBU to y (R248). -/
def execLbuY (yd : YReg) (rs1 : XReg) (imm : BitVec 8) (s : State) : Out := .next (s.loadY yd rs1 imm 1 false)
/-- LHU to y (R248). -/
def execLhuY (yd : YReg) (rs1 : XReg) (imm : BitVec 8) (s : State) : Out := .next (s.loadY yd rs1 imm 2 false)
/-- LWU to y (R248). -/
def execLwuY (yd : YReg) (rs1 : XReg) (imm : BitVec 8) (s : State) : Out := .next (s.loadY yd rs1 imm 4 false)
/-- SB from y (R248). -/
def execSbY (yd : YReg) (rs1 : XReg) (imm : BitVec 8) (s : State) : Out := .next (s.storeY yd rs1 imm 1)
/-- SH from y (R248). -/
def execShY (yd : YReg) (rs1 : XReg) (imm : BitVec 8) (s : State) : Out := .next (s.storeY yd rs1 imm 2)
/-- SW from y (R248). -/
def execSwY (yd : YReg) (rs1 : XReg) (imm : BitVec 8) (s : State) : Out := .next (s.storeY yd rs1 imm 4)
/-- SD from y (R248). -/
def execSdY (yd : YReg) (rs1 : XReg) (imm : BitVec 8) (s : State) : Out := .next (s.storeY yd rs1 imm 8)

end Sys2Proof.Machine
end

