-- ==== Sys2Proof/Machine/Atomic.lean ====
section
/-! DEFINITION. Atomic: the atomics that act at once and the deterministic ones (R115 to R117, R322 to R326). -/

namespace Sys2Proof.Machine

/-- Bytes of an atomic (R218). -/
def wBytes : AWidth → Nat
  | .w32 => 4
  | .w64 => 8

/-- The 64-bit sign extension of the low bytes of a value. -/
def wSext (w : AWidth) (v : Nat) : Word := extend true (wBytes w) (v % 256 ^ (wBytes w))

/-- The new value at the slice (R323); all values have w bytes. -/
def AForm.apply (f : AForm) (w : AWidth) (old b c : Nat) : Nat :=
  let n := 8 * wBytes w
  let m := 2 ^ n
  match f with
  | .add => (old + b) % m
  | .and => old &&& b
  | .or => old ||| b
  | .xor => old ^^^ b
  | .min => if intOf n b < intOf n old then b else old
  | .max => if intOf n old < intOf n b then b else old
  | .swap => b
  | .cas => if old = c then b else old

/-- The combination of a DAMO (R117). -/
def DForm.apply (f : DForm) (w : AWidth) (old b : Nat) : Nat :=
  match f with
  | .add => AForm.apply .add w old b 0
  | .min => AForm.apply .min w old b 0
  | .max => AForm.apply .max w old b 0

/-- Whether the gang of the thread is DET (R42). -/
def State.det (s : State) (t : Tile) : Bool :=
  match s.gangOf t with
  | none => false
  | some g => g.det

/-- CheckAtomic (R324): the physical address, or the trap. -/
def State.checkAtomic (s : State) (t : Tile) (f : AForm) (w : AWidth) (rd : XReg) (a : Word) : Except Cause Nat × List TlbEnt :=
  if t.task.region then (.error cTaskRegion, t.tlb)
  else if s.det t && (f == .swap || f == .cas || rd != 0) then (.error (cNondet a), t.tlb)
  else if Config.globalTop ≤ a.toNat || a.toNat % wBytes w != 0 then (.error (cAddress a), t.tlb)
  else match s.translate t a.toNat .atomic t.user with
    | (.error d, tlb) => (.error (cTranslation a d), tlb)
    | (.ok pa, tlb) => (.ok pa, tlb)

/-- An AMO form: sent to its slice, its old value in rd when the response returns (R323). AMOCAS reads rd as well. -/
def State.amo (s : State) (f : AForm) (w : AWidth) (rd rs1 rs2 : XReg) : State :=
  s.aWord (if f == .cas then [rs1, rs2, rd] else [rs1, rs2]) [rd] fun s =>
    let c := if f == .cas then s.t.xval rd else 0
    let a := s.t.popX rs1
    let b := a.2.popX rs2
    match s.checkAtomic b.2 f w rd a.1 with
    | (.error x, tlb) => s.setT ({ s.t with tlb := tlb }.trap x)
    | (.ok pa, tlb) =>
      let (id, t) := { b.2 with tlb := tlb }.addLoad s.tick .amo (some rd) (wBytes w) true a.1 1
      let m := 256 ^ (wBytes w)
      let t := { t.route with undo := { t.undo with calls := t.undo.calls ++ [id] } }
      (s.setT t).send t t.lidx (.amo id pa w f (BitVec.ofNat 64 (b.1.toNat % m)) (BitVec.ofNat 64 (c.toNat % m)))

/-- AMOADD (R323). -/
def execAmoadd (w : AWidth) (rd rs1 rs2 : XReg) (s : State) : Out := .next (s.amo .add w rd rs1 rs2)
/-- AMOAND (R323). -/
def execAmoand (w : AWidth) (rd rs1 rs2 : XReg) (s : State) : Out := .next (s.amo .and w rd rs1 rs2)
/-- AMOOR (R323). -/
def execAmoor (w : AWidth) (rd rs1 rs2 : XReg) (s : State) : Out := .next (s.amo .or w rd rs1 rs2)
/-- AMOXOR (R323). -/
def execAmoxor (w : AWidth) (rd rs1 rs2 : XReg) (s : State) : Out := .next (s.amo .xor w rd rs1 rs2)
/-- AMOMIN (R323). -/
def execAmomin (w : AWidth) (rd rs1 rs2 : XReg) (s : State) : Out := .next (s.amo .min w rd rs1 rs2)
/-- AMOMAX (R323). -/
def execAmomax (w : AWidth) (rd rs1 rs2 : XReg) (s : State) : Out := .next (s.amo .max w rd rs1 rs2)
/-- AMOSWAP (R323). -/
def execAmoswap (w : AWidth) (rd rs1 rs2 : XReg) (s : State) : Out := .next (s.amo .swap w rd rs1 rs2)
/-- AMOCAS (R323). -/
def execAmocas (w : AWidth) (rd rs1 rs2 : XReg) (s : State) : Out := .next (s.amo .cas w rd rs1 rs2)

/-- A DAMO form: a request for its slice, rd pending until the release of the next gang boundary (R116, R325). -/
def State.damo (s : State) (f : DForm) (w : AWidth) (rd rs1 rs2 : XReg) : State :=
  s.aWordLate [rs1, rs2] [rd] fun s =>
    let a := s.t.popX rs1
    let b := a.2.popX rs2
    let t := b.2
    if Config.globalTop ≤ a.1.toNat || a.1.toNat % wBytes w != 0 then s.trap (cAddress a.1)
    else match s.translate t a.1.toNat .write t.user with
      | (.error d, tlb) => s.setT ({ s.t with tlb := tlb }.trap (cTranslation a.1 d))
      | (.ok pa, tlb) =>
        if !s.areaFits t 16 then s.setT ({ s.t with tlb := tlb }.trap (cGsbFull a.1))
        else
          let (id, t) := { t with tlb := tlb }.serial
          let d : Damo := ⟨id, t.fe.iseq, pa, w, f, BitVec.ofNat 64 (b.1.toNat % 256 ^ (wBytes w)), rd, false, 0⟩
          let t := { t.route with damos := t.damos ++ [d] }
          (s.setT t).send t t.lidx (.damo id)

/-- DAMOADD (R325). -/
def execDamoadd (w : AWidth) (rd rs1 rs2 : XReg) (s : State) : Out := .next (s.damo .add w rd rs1 rs2)
/-- DAMOMIN (R325). -/
def execDamomin (w : AWidth) (rd rs1 rs2 : XReg) (s : State) : Out := .next (s.damo .min w rd rs1 rs2)
/-- DAMOMAX (R325). -/
def execDamomax (w : AWidth) (rd rs1 rs2 : XReg) (s : State) : Out := .next (s.damo .max w rd rs1 rs2)

end Sys2Proof.Machine
end

