-- ==== Sys2Proof/Machine/Integer.lean ====
section
/-! DEFINITION. Integer: the register, immediate and upper-immediate forms of the A slice (R240 to R244). -/

namespace Sys2Proof.Machine

/-! ## The functions -/

def b01 (c : Bool) : Word := if c then 1 else 0
/-- SignExtend of the low 32 bits (R241). -/
def sext32 (v : Word) : Word := (v.setWidth 32).signExtend 64
def aluSll (a b : Word) : Word := a <<< (b.toNat % 64)
def aluSrl (a b : Word) : Word := a >>> (b.toNat % 64)
def aluSra (a b : Word) : Word := a.sshiftRight (b.toNat % 64)
def aluSlt (a b : Word) : Word := b01 (a.slt b)
def aluSltu (a b : Word) : Word := b01 (a.ult b)
def aluMin (a b : Word) : Word := if a.slt b then a else b
def aluMax (a b : Word) : Word := if a.slt b then b else a
def aluMinu (a b : Word) : Word := if a.ult b then a else b
def aluMaxu (a b : Word) : Word := if a.ult b then b else a
def aluMulh (a b : Word) : Word := BitVec.ofInt 64 (a.toInt * b.toInt / 2 ^ 64)
def aluMulhu (a b : Word) : Word := BitVec.ofNat 64 (a.toNat * b.toNat / 2 ^ 64)
/-- Signed division truncated toward zero, with the corners of R242. -/
def aluDiv (a b : Word) : Word := if b = 0 then ones64 else BitVec.ofInt 64 (a.toInt.tdiv b.toInt)
def aluDivu (a b : Word) : Word := if b = 0 then ones64 else BitVec.ofNat 64 (a.toNat / b.toNat)
def aluRem (a b : Word) : Word := if b = 0 then a else BitVec.ofInt 64 (a.toInt.tmod b.toInt)
def aluRemu (a b : Word) : Word := if b = 0 then a else BitVec.ofNat 64 (a.toNat % b.toNat)
def aluAddw (a b : Word) : Word := sext32 (a + b)
def aluSubw (a b : Word) : Word := sext32 (a - b)
def aluSllw (a b : Word) : Word := ((a.setWidth 32) <<< (b.toNat % 32) : BitVec 32).signExtend 64
def aluSrlw (a b : Word) : Word := ((a.setWidth 32) >>> (b.toNat % 32) : BitVec 32).signExtend 64
def aluSraw (a b : Word) : Word := ((a.setWidth 32).sshiftRight (b.toNat % 32) : BitVec 32).signExtend 64
def aluClz (a : Word) : Word := BitVec.ofNat 64 (if a = 0 then 64 else 63 - Nat.log2 a.toNat)
def aluCtz (a : Word) : Word := BitVec.ofNat 64 (if a = 0 then 64 else Nat.log2 (a &&& -a).toNat)
/-- The number of one bits. -/
def popCount (a : Word) : Nat := (List.range 64).foldl (fun n i => if a.getLsbD i then n + 1 else n) 0
def aluCnt (a : Word) : Word := BitVec.ofNat 64 (popCount a)
/-- imm20 with twelve zero bits, sign-extended from 32 bits (R244). -/
def upper (imm : BitVec 20) : Word := (imm ++ 0#12 : BitVec 32).signExtend 64

/-! ## Shapes -/

/-- rd := f a b (R240); the sources are read, and their ports popped, rs1 first. -/
def Tile.op2 (t : Tile) (rd rs1 rs2 : XReg) (f : Word → Word → Word) : Tile :=
  t.aWord [rs1, rs2] [rd] fun t =>
    let a := t.popX rs1
    let b := a.2.popX rs2
    b.2.putX rd (f a.1 b.1)
/-- rd := f a (R240, R243). -/
def Tile.op1 (t : Tile) (rd rs1 : XReg) (f : Word → Word) : Tile :=
  t.aWord [rs1] [rd] fun t =>
    let a := t.popX rs1
    a.2.putX rd (f a.1)

/-! ## Register forms (R241, R242) -/
/-- ADD (R241). -/
def execAdd (rd rs1 rs2 : XReg) (s : State) : Out := .next (s.setT (s.t.op2 rd rs1 rs2 (fun a b => a + b)))
/-- SUB (R241). -/
def execSub (rd rs1 rs2 : XReg) (s : State) : Out := .next (s.setT (s.t.op2 rd rs1 rs2 (fun a b => a - b)))
/-- AND (R241). -/
def execAnd (rd rs1 rs2 : XReg) (s : State) : Out := .next (s.setT (s.t.op2 rd rs1 rs2 (fun a b => a &&& b)))
/-- OR (R241). -/
def execOr (rd rs1 rs2 : XReg) (s : State) : Out := .next (s.setT (s.t.op2 rd rs1 rs2 (fun a b => a ||| b)))
/-- XOR (R241). -/
def execXor (rd rs1 rs2 : XReg) (s : State) : Out := .next (s.setT (s.t.op2 rd rs1 rs2 (fun a b => a ^^^ b)))
/-- SLL (R241). -/
def execSll (rd rs1 rs2 : XReg) (s : State) : Out := .next (s.setT (s.t.op2 rd rs1 rs2 aluSll))
/-- SRL (R241). -/
def execSrl (rd rs1 rs2 : XReg) (s : State) : Out := .next (s.setT (s.t.op2 rd rs1 rs2 aluSrl))
/-- SRA (R241). -/
def execSra (rd rs1 rs2 : XReg) (s : State) : Out := .next (s.setT (s.t.op2 rd rs1 rs2 aluSra))
/-- SLT (R241). -/
def execSlt (rd rs1 rs2 : XReg) (s : State) : Out := .next (s.setT (s.t.op2 rd rs1 rs2 aluSlt))
/-- SLTU (R241). -/
def execSltu (rd rs1 rs2 : XReg) (s : State) : Out := .next (s.setT (s.t.op2 rd rs1 rs2 aluSltu))
/-- MIN (R241). -/
def execMin (rd rs1 rs2 : XReg) (s : State) : Out := .next (s.setT (s.t.op2 rd rs1 rs2 aluMin))
/-- MAX (R241). -/
def execMax (rd rs1 rs2 : XReg) (s : State) : Out := .next (s.setT (s.t.op2 rd rs1 rs2 aluMax))
/-- MINU (R241). -/
def execMinu (rd rs1 rs2 : XReg) (s : State) : Out := .next (s.setT (s.t.op2 rd rs1 rs2 aluMinu))
/-- MAXU (R241). -/
def execMaxu (rd rs1 rs2 : XReg) (s : State) : Out := .next (s.setT (s.t.op2 rd rs1 rs2 aluMaxu))
/-- MUL (R241). -/
def execMul (rd rs1 rs2 : XReg) (s : State) : Out := .next (s.setT (s.t.op2 rd rs1 rs2 (fun a b => a * b)))
/-- MULH (R241). -/
def execMulh (rd rs1 rs2 : XReg) (s : State) : Out := .next (s.setT (s.t.op2 rd rs1 rs2 aluMulh))
/-- MULHU (R241). -/
def execMulhu (rd rs1 rs2 : XReg) (s : State) : Out := .next (s.setT (s.t.op2 rd rs1 rs2 aluMulhu))
/-- DIV (R242). -/
def execDiv (rd rs1 rs2 : XReg) (s : State) : Out := .next (s.setT (s.t.op2 rd rs1 rs2 aluDiv))
/-- DIVU (R242). -/
def execDivu (rd rs1 rs2 : XReg) (s : State) : Out := .next (s.setT (s.t.op2 rd rs1 rs2 aluDivu))
/-- REM (R242). -/
def execRem (rd rs1 rs2 : XReg) (s : State) : Out := .next (s.setT (s.t.op2 rd rs1 rs2 aluRem))
/-- REMU (R242). -/
def execRemu (rd rs1 rs2 : XReg) (s : State) : Out := .next (s.setT (s.t.op2 rd rs1 rs2 aluRemu))
/-- ADDW (R241). -/
def execAddw (rd rs1 rs2 : XReg) (s : State) : Out := .next (s.setT (s.t.op2 rd rs1 rs2 aluAddw))
/-- SUBW (R241). -/
def execSubw (rd rs1 rs2 : XReg) (s : State) : Out := .next (s.setT (s.t.op2 rd rs1 rs2 aluSubw))
/-- SLLW (R241). -/
def execSllw (rd rs1 rs2 : XReg) (s : State) : Out := .next (s.setT (s.t.op2 rd rs1 rs2 aluSllw))
/-- SRLW (R241). -/
def execSrlw (rd rs1 rs2 : XReg) (s : State) : Out := .next (s.setT (s.t.op2 rd rs1 rs2 aluSrlw))
/-- SRAW (R241). -/
def execSraw (rd rs1 rs2 : XReg) (s : State) : Out := .next (s.setT (s.t.op2 rd rs1 rs2 aluSraw))
/-- CLZ (R241). -/
def execClz (rd rs1 : XReg) (s : State) : Out := .next (s.setT (s.t.op1 rd rs1 aluClz))
/-- CTZ (R241). -/
def execCtz (rd rs1 : XReg) (s : State) : Out := .next (s.setT (s.t.op1 rd rs1 aluCtz))
/-- CNT (R241). -/
def execCnt (rd rs1 : XReg) (s : State) : Out := .next (s.setT (s.t.op1 rd rs1 aluCnt))
/-- SEL: rd is the condition before it is the destination (R241). -/
def execSel (rd rs1 rs2 : XReg) (s : State) : Out :=
  .next (s.setT (s.t.aWord [rs1, rs2, rd] [rd] fun t =>
    let c := t.xval rd
    let a := t.popX rs1
    let b := a.2.popX rs2
    b.2.putX rd (if c != 0 then a.1 else b.1)))

/-! ## Immediate forms (R243) -/
/-- ADDI (R243). -/
def execAddi (rd rs1 : XReg) (imm : BitVec 12) (s : State) : Out :=
  .next (s.setT (s.t.op1 rd rs1 fun a => a + imm.signExtend 64))
/-- SLTI (R243). -/
def execSlti (rd rs1 : XReg) (imm : BitVec 12) (s : State) : Out :=
  .next (s.setT (s.t.op1 rd rs1 fun a => aluSlt a (imm.signExtend 64)))
/-- SLTIU (R243). -/
def execSltiu (rd rs1 : XReg) (imm : BitVec 12) (s : State) : Out :=
  .next (s.setT (s.t.op1 rd rs1 fun a => aluSltu a (imm.signExtend 64)))
/-- XORI (R243). -/
def execXori (rd rs1 : XReg) (imm : BitVec 12) (s : State) : Out :=
  .next (s.setT (s.t.op1 rd rs1 fun a => a ^^^ imm.signExtend 64))
/-- ORI (R243). -/
def execOri (rd rs1 : XReg) (imm : BitVec 12) (s : State) : Out :=
  .next (s.setT (s.t.op1 rd rs1 fun a => a ||| imm.signExtend 64))
/-- ANDI (R243). -/
def execAndi (rd rs1 : XReg) (imm : BitVec 12) (s : State) : Out :=
  .next (s.setT (s.t.op1 rd rs1 fun a => a &&& imm.signExtend 64))
/-- ADDIW (R243). -/
def execAddiw (rd rs1 : XReg) (imm : BitVec 12) (s : State) : Out :=
  .next (s.setT (s.t.op1 rd rs1 fun a => aluAddw a (imm.signExtend 64)))
/-- SLLI (R243). -/
def execSlli (rd rs1 : XReg) (sh : BitVec 6) (s : State) : Out :=
  .next (s.setT (s.t.op1 rd rs1 fun a => a <<< sh.toNat))
/-- SRLI (R243). -/
def execSrli (rd rs1 : XReg) (sh : BitVec 6) (s : State) : Out :=
  .next (s.setT (s.t.op1 rd rs1 fun a => a >>> sh.toNat))
/-- SRAI (R243). -/
def execSrai (rd rs1 : XReg) (sh : BitVec 6) (s : State) : Out :=
  .next (s.setT (s.t.op1 rd rs1 fun a => a.sshiftRight sh.toNat))

/-! ## Upper immediates (R244) -/

/-- LUI (R244). -/
def execLui (rd : XReg) (imm : BitVec 20) (s : State) : Out :=
  .next (s.setT (s.t.aWord [] [rd] fun t => t.putX rd (upper imm)))
/-- AUIPC: PC is the address of the AUIPC itself (R244). -/
def execAuipc (rd : XReg) (imm : BitVec 20) (s : State) : Out :=
  .next (s.setT (s.t.aWord [] [rd] fun t => t.putX rd (t.fe.ipc + upper imm)))

end Sys2Proof.Machine
end

