-- ==== Sys2Proof/Machine/Branch.lean ====
section
/-! DEFINITION. Branch: branches, jumps, prepared branches and hardware loops (R249 to R259). -/

namespace Sys2Proof.Machine

/-- PC + 4 x SignExtend(off). -/
def wordTarget {n : Nat} (pc : Word) (off : BitVec n) : Word := pc + (off.signExtend 64) * 4

/-- A conditional branch (R249). -/
def Tile.branch (t : Tile) (rs1 rs2 : XReg) (off : BitVec 12) (cond : Word → Word → Bool) : Tile :=
  t.aWord [rs1, rs2] [] fun t =>
    let a := t.popX rs1
    let b := a.2.popX rs2
    if cond a.1 b.1 then b.2.jump (wordTarget t.fe.ipc off) else b.2

/-- BEQ (R249). -/
def execBeq (rs1 rs2 : XReg) (off : BitVec 12) (s : State) : Out :=
  .next (s.setT (s.t.branch rs1 rs2 off (fun a b => a == b)))
/-- BNE (R249). -/
def execBne (rs1 rs2 : XReg) (off : BitVec 12) (s : State) : Out :=
  .next (s.setT (s.t.branch rs1 rs2 off (fun a b => a != b)))
/-- BLT (R249). -/
def execBlt (rs1 rs2 : XReg) (off : BitVec 12) (s : State) : Out :=
  .next (s.setT (s.t.branch rs1 rs2 off (fun a b => a.slt b)))
/-- BGE (R249). -/
def execBge (rs1 rs2 : XReg) (off : BitVec 12) (s : State) : Out :=
  .next (s.setT (s.t.branch rs1 rs2 off (fun a b => !a.slt b)))
/-- BLTU (R249). -/
def execBltu (rs1 rs2 : XReg) (off : BitVec 12) (s : State) : Out :=
  .next (s.setT (s.t.branch rs1 rs2 off (fun a b => a.ult b)))
/-- BGEU (R249). -/
def execBgeu (rs1 rs2 : XReg) (off : BitVec 12) (s : State) : Out :=
  .next (s.setT (s.t.branch rs1 rs2 off (fun a b => !a.ult b)))

/-- JAL (R250). -/
def execJal (rd : XReg) (off : BitVec 20) (s : State) : Out :=
  .next (s.setT (s.t.aWord [] [rd] fun t => (t.putX rd (t.fe.ipc + 4)).jump (wordTarget t.fe.ipc off)))
/-- JALR: a target that is not a multiple of 4 traps with rd unchanged (R250). -/
def execJalr (rd rs1 : XReg) (imm : BitVec 12) (s : State) : Out :=
  .next (s.setT (s.t.aWord [rs1] [rd] fun t =>
    let a := t.popX rs1
    let target := a.1 + imm.signExtend 64
    if target &&& 3 != 0 then t.trap (cAddress target) else (a.2.putX rd (t.fe.ipc + 4)).jump target))

/-! ## Prepared branches (R252, R253) -/

/-- PBR (R252). -/
def execPbr (jd : JReg) (off : BitVec 17) (s : State) : Out := .next (s.setT (s.t.putJ jd (wordTarget s.t.fe.ipc off)))
/-- BJ (R252). -/
def execBj (js : JReg) (s : State) : Out := .next (s.setT (s.t.jump (s.t.jval js)))
/-- A prepared branch on a register (R252). -/
def Tile.branchJ (t : Tile) (js : JReg) (rs1 : XReg) (cond : Word → Bool) : Tile :=
  t.aWord [rs1] [] fun t =>
    let a := t.popX rs1
    if cond a.1 then a.2.jump (t.jval js) else a.2
/-- BJZ (R252). -/
def execBjz (js : JReg) (rs1 : XReg) (s : State) : Out := .next (s.setT (s.t.branchJ js rs1 fun a => a == 0))
/-- BJNZ (R252). -/
def execBjnz (js : JReg) (rs1 : XReg) (s : State) : Out := .next (s.setT (s.t.branchJ js rs1 fun a => a != 0))

/-! ## Hardware loops (R254 to R258) -/

/-- Writes the three registers of a level, delayed where R258 says so. -/
def Tile.putLoop (t : Tile) (n : Level) (lc ls le : Word) : Tile :=
  let old := t.regs.loop
  let pc := t.fe.ipc
  { t with regs := { t.regs with loop :=
      (((old.writeAt old pc n .ls ls).writeAt old pc n .le le).writeAt old pc n .lc lc) } }
/-- Arms a level; a count of 0 skips the body (R255). -/
def Tile.arm (t : Tile) (n : Level) (count : Word) (fin : BitVec 12) : Tile :=
  let ls := t.fe.ipc + 4
  let le := t.fe.ipc + (fin.setWidth 64) * 4
  let u := t.putLoop n count ls le
  if count = 0 then u.jump (le + 4) else u
/-- LOOP (R254, R255). -/
def execLoop (lvl : Level) (rs1 : XReg) (fin : BitVec 12) (s : State) : Out :=
  .next (s.setT (s.t.aWord [rs1] [] fun t =>
    let a := t.popX rs1
    a.2.arm lvl a.1 fin))
/-- LOOPI (R254, R255). -/
def execLoopi (lvl : Level) (cnt : BitVec 9) (fin : BitVec 12) (s : State) : Out :=
  .next (s.setT (s.t.arm lvl (cnt.setWidth 64) fin))
/-- LCLR (R255). -/
def execLclr (lvl : Level) (s : State) : Out := .next (s.setT (s.t.putLoop lvl 0 0 0))

end Sys2Proof.Machine
end

