-- ==== Sys2Proof/Machine/Message.lean ====
section
/-! DEFINITION. Message: packets, receive queues and the mailbox as the thread sees them (R136 to R145, R317 to R321). -/

namespace Sys2Proof.Machine

/-! ## Packets (R136 to R138, R143) -/

def hdrDest (h : Word) : Nat := bitsOf h 10 0
def hdrQueue (h : Word) : Nat := bitsOf h 12 11
def hdrLen (h : Word) : Nat := bitsOf h 15 13
def hdrTimed (h : Word) : Bool := h.getLsbD 16
def hdrNote (h : Word) : Bool := h.getLsbD 17
def hdrRdir (h : Word) : Nat := bitsOf h 19 18

/-- The number of a (destination, queue) sequence; 4 stands for notes (R138). -/
def seqKey (dst queue : Nat) : Nat := dst * 8 + queue

/-- The receive-queue record n. -/
def Tile.rq (t : Tile) (n : Nat) : RecvQ := t.ni.rq.toList.getD n .reset
/-- Replaces a receive-queue record. -/
def Tile.setRq (t : Tile) (n : Nat) (q : RecvQ) : Tile := { t with ni := { t.ni with rq := t.ni.rq.setIfInBounds n q } }

/-- The binding of this sender to a stream queue of a destination (R40, R384). -/
def Tile.stream (t : Tile) (dst queue : Nat) : Option Slots := t.ni.streams.find? fun b => b.dst == dst && b.queue == queue
/-- Adds d slots to a binding's count, or takes one. -/
def Tile.slotAdd (t : Tile) (dst queue : Nat) (f : Nat → Nat) : Tile :=
  { t with ni := { t.ni with streams := t.ni.streams.map fun b =>
      if b.dst == dst && b.queue == queue then { b with free := f b.free } else b } }

/-- Whether queue n of a logical index is a stream queue. -/
def State.isStream (s : State) (t : Tile) (dst n : Nat) : Bool :=
  match s.gangOf t with
  | none => false
  | some g =>
    match g.phys dst with
    | none => false
    | some p => ((s.tile p).rq n).stream

/-- Sends a complete packet (R137, R138, R143). -/
def State.inject (s : State) (t : Tile) (o : OpenPkt) : State :=
  let dst := hdrDest o.hdr
  let q := if hdrNote o.hdr then 4 else hdrQueue o.hdr
  let k := seqKey dst q
  let n := smGet 0 k t.ni.seqs
  let timed := hdrTimed o.hdr && t.ni.timedWin
  let due := if timed then
      match s.gangOf t with
      | none => 0
      | some g =>
        match g.phys t.lidx, g.phys dst with
        | some a, some b => s.tick + timedTicks a b (hdrRdir o.hdr) + hdrLen o.hdr
        | _, _ => 0
    else 0
  let t := { t with ni := { t.ni with
    seqs := smPut k ((n + 1) % 2 ^ 32) t.ni.seqs
    replay := t.ni.replay ++ [(dst, q, n)] } }
  let t := if timed then t else t.route
  (s.setT t).send t dst (.packet ⟨t.lidx, q, timed, hdrRdir o.hdr, n, o.tag, o.data⟩) due

/-- The packet of the current mode under assembly (R137). -/
def Tile.opened (t : Tile) : Option OpenPkt := t.ni.opens.toList.getD t.mode none
def Tile.setOpen (t : Tile) (o : Option OpenPkt) : Tile := { t with ni := { t.ni with opens := t.ni.opens.setIfInBounds t.mode o } }

/-- The header faults of R136, in the order of its table. -/
def State.headerFault (s : State) (t : Tile) (h : Word) : Option Cause :=
  if bitsOf h 63 20 != 0 then some (cBadHeader h)
  else if hdrRdir h = 3 then some (cBadHeader h)
  else if hdrNote h && (hdrLen h != 0 || hdrQueue h != 0) then some (cBadHeader h)
  else if !s.hasIndex t (hdrDest h) then some (cBadDest (hdrDest h))
  else if !hdrNote h && s.isStream t (hdrDest h) (hdrQueue h) && (t.stream (hdrDest h) (hdrQueue h)).isNone then
    some (cBadDest (hdrDest h))
  else none

/-- SNDH (R136, R137, R318, R384); an open packet of any mode needs its place in
the replay buffer (R138); while SNDH stalls the ports it popped stay popped (R336). -/
def execSndh (rs1 rs2 : XReg) (s : State) : Out :=
  .next (s.aWord [rs1, rs2] [] fun s =>
    let a := s.t.popX rs1
    let b := a.2.popX rs2
    let t := b.2
    let h := a.1
    if t.task.region then s.trap cTaskRegion
    else if t.opened.isSome then s.trap cPktSeq
    else match s.headerFault t h with
      | some c => s.trap c
      | none =>
        let strm := if hdrNote h then none else t.stream (hdrDest h) (hdrQueue h)
        if (match strm with
          | some b => b.free == 0
          | none => false) then (s.setT (s.t.stalled [rs1, rs2])).wait (.stream (hdrDest h) (hdrQueue h))
        else if Config.replayDepth ≤ t.ni.replay.length + (t.ni.opens.toList.filter (·.isSome)).length then s.stall [rs1, rs2]
        else
          let t := if strm.isSome then t.slotAdd (hdrDest h) (hdrQueue h) (· - 1) else t
          let o : OpenPkt := ⟨h, b.1, []⟩
          if hdrLen h = 0 then s.inject t o else s.setT (t.setOpen (some o)))

/-- SND: 16 bytes of payload; the last injects the packet (R137, R318). -/
def execSnd (rs1 rs2 : XReg) (s : State) : Out :=
  .next (s.aWord [rs1, rs2] [] fun s =>
    let a := s.t.popX rs1
    let b := a.2.popX rs2
    let t := b.2
    match t.opened with
    | none => s.trap cPktSeq
    | some o =>
      let o := { o with data := o.data ++ [a.1, b.1] }
      if o.data.length = 4 * hdrLen o.hdr then s.inject (t.setOpen none) o else s.setT (t.setOpen (some o)))

/-! ## Receiving (R139, R140, R319) -/

/-- LOG2 of RQSIZEn and the base offset, low bits below the size read as 0 (R52, R53). -/
def Tile.rqLog (t : Tile) (n : Nat) : Nat := bitsOf (t.ur.rqsize.toList.getD n 0) 4 0
def Tile.rqBase (t : Tile) (n : Nat) : Nat :=
  let b := (t.ur.rqbase.toList.getD n 0).toNat
  b - b % 2 ^ t.rqLog n

/-- Releases the delivered packet of queue n; a stream slot returns to its sender (R140). -/
def State.releaseRq (s : State) (n : Nat) : State :=
  let t := s.t
  let q := t.rq n
  match q.delivered with
  | none => s
  | some e =>
    let t := t.setRq n { q with delivered := none }
    let s := s.setT t
    if q.stream then s.send t e.src (.slotBack n none) else s

/-- Delivers the oldest visible packet of queue n, when there is one (R140). -/
def Tile.deliver (t : Tile) (n : Nat) (rd : XReg) : Option Tile :=
  let q := t.rq n
  match q.ents with
  | [] => none
  | e :: r => some ((t.setRq n { q with ents := r, delivered := some e }).putX rd (BitVec.ofNat 64 (Config.selfBase + e.off)))

/-- RCV and RCVN up to their wait (R319). -/
def State.receive (s : State) (rd : XReg) (q : QNum) (empty : State → State) : State :=
  s.aWord [] [rd] fun s =>
    if s.t.task.region then s.trap cTaskRegion
    else if s.t.rqLog q.toNat = 0 then s.trap (cIllegal 0)
    else
      let s := s.releaseRq q.toNat
      match s.t.deliver q.toNat rd with
      | some t => s.setT t
      | none => empty s

/-- RCV waits while no packet is visible (R319, R45). -/
def execRcv (rd : XReg) (q : QNum) (s : State) : Out := .next (s.receive rd q fun s => s.wait (.rcv q rd))
/-- RCVN answers all ones instead (R140, R319). -/
def execRcvn (rd : XReg) (q : QNum) (s : State) : Out := .next (s.receive rd q fun s => s.setT (s.t.putX rd ones64))

/-- WMSG (R321). -/
def execWmsg (s : State) : Out := .next (if s.t.ni.mbox.isEmpty then s.wait .wmsg else s)

/-- MBXPOP: word 0, then word 1 (R321). -/
def execMbxpop (rd rs2 : XReg) (s : State) : Out :=
  .next (s.setT (s.t.aWord [] [rd, rs2] fun t =>
    match t.ni.mbox with
    | [] => (t.putX rd 0).putX rs2 0
    | e :: r => ({ t with ni := { t.ni with mbox := r } }.putX rd e.1).putX rs2 e.2))

/-! ## Mailbox entries of the tile itself (R144) -/

/-- Word 0 of a mailbox entry. -/
def mboxWord (kind status cflags id src : Nat) : Word :=
  BitVec.ofNat 64 (kind % 16 + status % 16 * 2 ^ 4 + cflags % 32 * 2 ^ 8 + id % 2 ^ 16 * 2 ^ 16 + src % 2 ^ 11 * 2 ^ 32)

/-- Room for a mailbox entry of the tile's own engines and copies (R144). -/
def Tile.mboxRoom (t : Tile) : Bool := t.ni.held.isEmpty && t.ni.mbox.length < Config.mailboxDepth

/-- An entry of the tile's own engines and copies: held while the mailbox is full (R144). -/
def Tile.post (t : Tile) (w0 w1 : Word) : Tile :=
  if t.ni.held.isEmpty && t.ni.mbox.length < Config.mailboxDepth then { t with ni := { t.ni with mbox := t.ni.mbox ++ [(w0, w1)] } }
  else { t with ni := { t.ni with held := t.ni.held ++ [(w0, w1)] } }

end Sys2Proof.Machine
end

