-- ==== Sys2Proof/Machine/Copy.lean ====
section
/-! DEFINITION. Copy: the shadow copy registers, launching a copy and its state (R146, R147, R309 to R311). -/

namespace Sys2Proof.Machine

/-- CPSET: the selected register takes all 64 bits (R146, R309). -/
def CpRegs.put (c : CpRegs) (which : BitVec 3) (v : Word) : CpRegs :=
  match which.toNat with
  | 0 => { c with csrc := v }
  | 1 => { c with cdst := v }
  | 2 => { c with clen := v }
  | 3 => { c with crows := v }
  | 4 => { c with csstr := v }
  | 5 => { c with cdstr := v }
  | 6 => { c with cflags := v }
  | _ => c

/-- CPSET (R309). -/
def execCpset (which : BitVec 3) (rs1 : XReg) (s : State) : Out :=
  .next (s.setT (s.t.aWord [rs1] [] fun t =>
    let a := t.popX rs1
    { a.2 with cp := a.2.cp.put which a.1 }))

/-- A row stride: signed, bits [31:0] (R146). -/
def strideOf (w : Word) : Int := (w.setWidth 32 : BitVec 32).toInt
/-- The address of row j of an endpoint. -/
def rowAddr (base stride : Word) (j : Nat) : Word := BitVec.ofInt 64 (base.toNat + j * strideOf stride)

/-- The window of an endpoint: none for global memory, 0 RAW. -/
def endFmt (a : Word) : Option Nat :=
  match region a with
  | some (.self _ fmt _ _) => some fmt
  | some (.remote _ _ fmt _) => some fmt
  | _ => none

/-- The element format of a copy: none is RAW, one byte (R148). -/
def copyFmt (src dst : Word) : Option (NFmt × NFmt) :=
  match endFmt src, endFmt dst with
  | some a, some b =>
    match winFmt a, winFmt b with
    | some f, some h => some (f, h)
    | _, _ => none
  | some a, none => (winFmt a).map fun f => (f, f)
  | none, some b => (winFmt b).map fun f => (f, f)
  | none, none => none

/-- The width in bits of an element at the source and at the destination (R148). -/
def copyBits (src dst : Word) : Nat × Nat :=
  match copyFmt src dst with
  | none => (8, 8)
  | some (f, h) => (nfBits f, nfBits h)

/-- Bytes a row of n elements of b bits takes. -/
def rowBytes (n b : Nat) : Nat := (n * b + 7) / 8

/-- Whether a row's extent lies in its region (R83). A stride may carry a row's address into another format window; the window of the
base address counts for every row (log 77). A remote index outside the gang has its own check (R147). -/
def rowOk (a : Word) (n : Nat) : Bool :=
  match region a with
  | some (.self off fmt _ pln) => (fmt == 1 || pln == 0) && off + n ≤ Config.scratchBytes
  | some (.remote _ off _ _) => off + n ≤ Config.scratchBytes
  | some (.global va) => va + n ≤ Config.globalTop
  | none => false

/-- The address-fault check of one endpoint: PLANE, or the first row whose extent breaks R83 (R147). An empty copy has no rows: its base has still to lie in a
region of R82, but its PLN is not looked at (R84, R147 and R310 do not say: DESIGN CHOICE, log 83). -/
def endFault (base stride : Word) (rows n : Nat) : Option Cause :=
  if (region base).isNone || endFmt base == some 1 then some (cAddress base)
  else ((List.range rows).find? fun j => !rowOk (rowAddr base stride j) n).map fun j => cAddress (rowAddr base stride j)

/-- The remote index of an address. -/
def remoteIndex (a : Word) : Option Nat :=
  match region a with
  | some (.remote l _ _ _) => some l
  | _ => none

/-- Whether a row of a copy names another tile's scratchpad (R110). -/
def Tile.namesOther (t : Tile) (c : CpRegs) : Bool :=
  let other := fun (a : Word) => match remoteIndex a with
    | some l => l != t.lidx
    | none => false
  (List.range (max c.crows.toNat 1)).any fun j => other (rowAddr c.csrc c.csstr j) || other (rowAddr c.cdst c.cdstr j)

/-- The checks of R147 in order; of two endpoints that break one check the source is named (DESIGN CHOICE, log 82). -/
def State.copyFault (s : State) (t : Tile) (c : CpRegs) : Option Cause :=
  let rows := c.crows.toNat
  let (sb, db) := copyBits c.csrc c.cdst
  if 2 ^ 21 < c.clen.toNat || 2 ^ 16 < rows || c.cflags.toNat / 2 != 0 then some cBadCopy
  else match endFault c.csrc c.csstr rows (rowBytes c.clen.toNat sb) with
    | some x => some x
    | none =>
      match endFault c.cdst c.cdstr rows (rowBytes c.clen.toNat db) with
      | some x => some x
      | none =>
        match ((List.range (max rows 1)).flatMap fun j =>
            (remoteIndex (rowAddr c.csrc c.csstr j)).toList ++ (remoteIndex (rowAddr c.cdst c.cdstr j)).toList).find?
            fun l => !s.hasIndex t l with
        | some l => some (cBadDest l)
        | none => none

/-- The identifier after n: modulo 2^16, 0 skipped (R147). -/
def nextCopyId (n : Nat) : Nat := if (n + 1) % 2 ^ 16 = 0 then 1 else (n + 1) % 2 ^ 16

/-- CPLAUNCH: the checks, the snapshot, the identifier; an empty copy completes at once, an ORDERED one too (R147, R149, R310; log 77). -/
def execCplaunch (rd : XReg) (s : State) : Out :=
  .next (s.aWord [] [rd] fun s =>
    let t := s.t
    let c := t.cp
    if t.task.region && t.namesOther c then s.trap cTaskRegion
    else match s.copyFault t c with
      | some x => s.trap x
      | none =>
        if Config.copyDepth ≤ t.copies.length then s.hold
        else
          let id := t.cpNext
          let t := { t with cpNext := nextCopyId id }.putX rd (BitVec.ofNat 64 id)
          if c.clen = 0 || c.crows = 0 then
            let t := if t.ni.held.isEmpty && t.ni.mbox.length < Config.mailboxDepth then t
              else { t with copies := t.copies ++ [⟨id, c, t.user, t.sr.bhkey, t.openTask, t.fe.iseq, t.pair.count + 1, .complete, 0, [], 0, 0, s.tick⟩] }
            s.setT (t.post (mboxWord 1 0 0 id 0) 0)
          else s.setT { t with copies := t.copies ++ [⟨id, c, t.user, t.sr.bhkey, t.openTask, t.fe.iseq, t.pair.count + 1, .waiting, 0, [], 0, 0, s.tick⟩] })

/-- The word CPSTAT reports of a copy (R311). -/
def Copy.word (c : Copy) : Word :=
  match c.state with
  | .waiting => BitVec.ofNat 64 ((if c.regs.cflags.getLsbD 0 then 1 else 2) + c.moved * 2 ^ 24)
  | .moving => BitVec.ofNat 64 (2 + c.moved * 2 ^ 24)
  | .complete => BitVec.ofNat 64 (3 + c.status * 4 + c.moved * 2 ^ 24)

/-- CPSTAT (R311). -/
def execCpstat (rd rs1 : XReg) (s : State) : Out :=
  .next (s.setT (s.t.aWord [rs1] [rd] fun t =>
    let a := t.popX rs1
    if a.1.toNat / 2 ^ 16 != 0 then t.trap (cIllegal 0)
    else a.2.putX rd (match t.copies.find? fun c => c.id == a.1.toNat with
      | some c => c.word
      | none => 0)))

end Sys2Proof.Machine
end

