-- ==== Sys2Proof/Machine/Sync.lean ====
section
/-! DEFINITION. Sync: barrier waits and fences (R105, R106, R125, R312 to R316). -/

namespace Sys2Proof.Machine

/-! ## The entry a thread is armed for (R30, R32, R126) -/

/-- All slots of a die of the gang. -/
def Gang.slotMask (g : Gang) : BitVec 192 := BitVec.ofNat 192 (2 ^ (16 * g.groups) - 1)
/-- Whether an entry names the whole gang, in every package (R28, R32). -/
def Gang.wholeGang (g : Gang) (e : Cue) : Bool :=
  e.member == g.slotMask &&
  (e.dies.toNat == 2 ^ g.dies.length - 1 || (e.dies == 0 && g.dies.length == 1)) && (g.npkg == 0 || e.pkg)
/-- Whether an entry is a gang boundary (R32). -/
def Gang.isBoundary (g : Gang) (e : Cue) : Bool := (e.s || e.term) && g.wholeGang e
/-- The unit of a logical die. -/
def Gang.bmu (g : Gang) (d : Nat) : Option Bmu := g.bmus[d]?
/-- The entry armed for a slot: the oldest unfired entry of the window that names it (R126). -/
def Bmu.armed (b : Bmu) (slot : Nat) : Option Cue := b.win.find? fun e => e.member.getLsbD slot
/-- The entry armed for the thread. -/
def State.armed (s : State) (t : Tile) : Option Cue :=
  match s.gangOf t with
  | none => none
  | some g =>
    match g.bmu (t.lidx / 192) with
    | none => none
    | some b => b.armed (t.lidx % 192)
/-- Whether the unit has window entries still to fetch. -/
def State.fetching (s : State) (t : Tile) : Bool :=
  match s.gangOf t with
  | none => false
  | some g =>
    match g.bmu (t.lidx / 192) with
    | none => false
    | some b => b.next < b.count && b.win.length < 32
/-- Whether the thread's armed entry is a gang boundary. -/
def State.atBoundary (s : State) (t : Tile) : Bool :=
  match s.gangOf t, s.armed t with
  | some g, some e => g.isBoundary e
  | _, _ => false

/-! ## WAIT and WAITV (R313, R314) -/

/-- CheckWaitUse of R314 in its order; `hold` while the armed entry has not been fetched and a check needs it.
In a task region with no armed entry in the window the task-region trap is taken (R314 speaks of the armed entry only: DESIGN CHOICE, log 83). -/
def State.waitGate (s : State) (t : Tile) : Gate :=
  if !t.user then .trap (cIllegal 0)
  else if (t.ni.opens.toList.getD t.mode none).isSome then .trap cPktSeq
  else if (t.task.opened || t.task.region) && (s.armed t).isNone && s.fetching t then .hold
  else if t.task.opened && s.atBoundary t then .trap cTaskOpen
  else if t.task.region && !s.atBoundary t then .trap cTaskRegion
  else .go

/-- The thread arrives with its vote value, none for the operator's identity; the TIMED window ends (R125, R128, R134). -/
def State.arrive (s : State) (v : Option Word) : State :=
  let t := s.t
  match s.gangOf t with
  | none => s
  | some g =>
    let s := s.setGang { g with bmus := g.bmus.modify (t.lidx / 192) fun b =>
      { b with arrived := smPut (t.lidx % 192) v b.arrived } }
    s.setT { t with ni := { t.ni with timedWin := false } }

/-- WAIT (R313). -/
def execWait (s : State) : Out :=
  .next (match s.waitGate s.t with
    | .trap c => s.trap c
    | .hold => s.hold
    | .go => if s.t.issuedX s.t.fe.iseq then (s.arrive none).wait (.barrier none 0) else s.hold)

/-- The gate of WAITV: a full port as its destination holds the result and not the arrival (R24, R313). -/
def Tile.gateWaitv (t : Tile) (rd rs1 : XReg) : Gate :=
  match t.gateX [rs1] [rd] with
  | .hold => t.gateX [rs1] []
  | g => g

/-- WAITV: the low 32 bits of rs1 are the vote, read at arrival (R313); rd is written at the release. -/
def execWaitv (rd rs1 : XReg) (s : State) : Out :=
  .next (match s.waitGate s.t with
    | .trap c => s.trap c
    | .hold => s.hold
    | .go =>
      match s.t.gateWaitv rd rs1 with
      | .trap c => s.trap c
      | .hold => s.hold
      | .go =>
        if s.t.issuedX s.t.fe.iseq then
          let a := s.t.popX rs1
          let v := a.1 &&& 0xFFFF_FFFF
          ((s.setT a.2).arrive (some v)).wait (.barrier (some rd) v)
        else s.hold)

/-! ## Fences (R105, R106, R315, R316) -/

/-- Words that push an engine command (R285). -/
def isPush : Instr → Bool
  | .mcfg _ | .mldb .. | .mma .. | .mrot | .mscale .. | .mzero .. | .mrdacc .. | .mwracc .. => true
  | .eclr _ | .eins .. | .eld .. | .est .. | .emax .. | .eadd .. | .einf .. | .econj .. | .eeval .. | .ecnt .. => true
  | .slocal .. | .spass _ | .sapply .. | .sclose => true
  | _ => false

/-- Program places of the thread's engine commands that have not completed (R101, R105). -/
def Tile.engineSeqs (t : Tile) : List Nat :=
  ((t.mx.fifo ++ (t.mx.run.map (·.cmd)).toList).filter fun c => c.sender.isNone).map (·.seq) ++ t.envq.map (·.seq) ++
  (t.scan.fifo ++ t.scan.run.toList).map (·.seq)

/-- Whether an X part belongs to an access of the own scratchpad, whose bytes may have been read already, or to a store to
global memory (R105, R315). -/
def XPart.touches (p : XPart) (global : Bool) : Bool :=
  if global then p.holds (.global 0)
  else match p with
    | .loadY _ _ _ none _ => true
    | .loadV _ a _ => (match region a.base with
      | some (.self ..) => true
      | _ => false)
    | p => p.holds (.self 0 0 0 0)

/-- A late effect on global memory; one on a remote tile has its journal entry or its load (R105). -/
def Late.global : Late → Bool
  | .gsb .. | .read .. => true
  | .store .. | .fetch .. => false

/-- The accesses that stand before this place and a scope covers (R105, R315). -/
def Tile.covers (t : Tile) (scope : BitVec 4) : List Cover :=
  let before := t.fe.xq.filter fun x => x.seq < t.fe.iseq
  let parts := fun (g : Bool) => (before.filter fun x => match x.work with
    | .part p => p.touches g
    | _ => false).map fun x => Cover.place x.seq
  let glob := fun (l : Load) => match l.kind with
    | .remote => false
    | _ => true
  (if scope.getLsbD 0 then parts false else []) ++
  (if scope.getLsbD 1 then t.ni.journal.map (fun e => Cover.access e.id) ++
      (t.loads.filter fun l => !glob l).map fun l => Cover.access l.id else []) ++
  (if scope.getLsbD 2 then (t.loads.filter glob).map (fun l => Cover.access l.id) ++ parts true ++
      (t.fe.late.filter fun e => e.what.global).map fun e => Cover.place e.seq else []) ++
  (if scope.getLsbD 3 then (t.engineSeqs.filter (fun n => decide (n < t.fe.iseq)) ++ (before.filter fun x => match x.work with
      | .word i => isPush i
      | _ => false).map (·.seq)).map Cover.place else [])

/-- Whether an AMO has not acted at its slice yet (R105). -/
def State.amoInFlight (s : State) (t : Tile) (id : Nat) : Bool :=
  s.net.any fun f => some f.g == t.gang && f.src == t.lidx && (match f.msg with
    | .amo k .. => k == id
    | _ => false)

/-- Whether a covered access has not performed, or a covered command has not completed (R97, R105). -/
def State.uncovered (s : State) (t : Tile) (c : Cover) : Bool :=
  match c with
  | .access id =>
    t.ni.journal.any (fun e => e.id == id) ||
    t.loads.any (fun l => l.id == id && (match l.kind with
      | .amo => s.amoInFlight t id
      | _ => true))
  | .place n => t.fe.xq.any (fun x => x.seq == n) || t.fe.late.any (fun e => e.seq == n) || t.engineSeqs.contains n || t.ni.held.any fun e => bitsOf e.1 3 0 == 2

/-- The generation after n: 1 to 8,191 (R315). -/
def nextGen (n : Nat) : Nat := if 8191 ≤ n then 1 else n + 1

/-- FENCE: with rd = x0 it holds until its set has performed; otherwise the lowest free token (R315). -/
def execFence (rd : XReg) (scope : BitVec 4) (s : State) : Out :=
  .next (s.aWord [] [rd] fun s =>
    let t := s.t
    let cs := t.covers scope
    if rd = 0 then if cs.any (s.uncovered t) then s.hold else s
    else match (List.range 8).find? fun n => !(t.tokens.toList.getD n ⟨0, false, false, []⟩).held with
      | none => s.hold
      | some n =>
        let g := nextGen (t.tokens.toList.getD n ⟨0, false, false, []⟩).gen
        s.setT ({ t with tokens := t.tokens.setIfInBounds n ⟨g, true, scope.getLsbD 3, cs⟩ }.putX rd (BitVec.ofNat 64 (g * 8 + n))))

/-- The slot a token value names, when it is held and current (R106, R316). -/
def Tile.token (t : Tile) (v : Word) : Option Nat :=
  let n := bitsOf v 2 0
  let k := t.tokens.toList.getD n ⟨0, false, false, []⟩
  if v.toNat / 2 ^ 16 = 0 ∧ k.held ∧ k.gen = bitsOf v 15 3 then some n else none
def Tile.freeToken (t : Tile) (n : Nat) : Tile :=
  let k := t.tokens.toList.getD n ⟨0, false, false, []⟩
  { t with tokens := t.tokens.setIfInBounds n { k with held := false, covers := [] } }
/-- Whether everything a token covers is done. -/
def State.tokenDone (s : State) (t : Tile) (n : Nat) : Bool :=
  !(t.tokens.toList.getD n ⟨0, false, false, []⟩).covers.any (s.uncovered t)

/-- FWAIT: a stale value completes at once (R316); while it waits the port it popped stays popped (R336). -/
def execFwait (rs1 : XReg) (s : State) : Out :=
  .next (s.aWord [rs1] [] fun s =>
    let a := s.t.popX rs1
    match s.t.token a.1 with
    | none => s.setT a.2
    | some n => if s.tokenDone s.t n then s.setT (a.2.freeToken n) else (s.setT (s.t.stalled [rs1])).wait (.fwait n))

end Sys2Proof.Machine
end

