-- ==== Sys2Proof/Machine/Matrix.lean ====
section
/-! DEFINITION. Matrix: the matrix instructions, their push and start checks, the passes, read-out and write-back
(R157 to R169, R285 to R298). The events of its commands are in EvEngine. -/

namespace Sys2Proof.Machine

/-! ## Windows, groups, words (R157, R158, R161, R166) -/

/-- The operand format of a window: none for RAW, FP32 and INT8. -/
def mxFmt (fmt pln : Nat) : Option LFmt :=
  match fmt with
  | 1 => some (.plane (pln + 1))
  | 2 => some .e2m1
  | 3 => some .e4m3
  | 4 => some .e5m2
  | 5 => some .bf16
  | _ => none

/-- The format group; bit 17 + group of a capability allows it (R157, R171). -/
def LFmt.group : LFmt → Nat
  | .bf16 => 0
  | .e4m3 => 1
  | .e5m2 => 1
  | .e2m1 => 2
  | .plane _ => 3

/-- K per cycle of a float group. -/
def LFmt.kstep : LFmt → Nat
  | .bf16 => 4
  | .e4m3 => 8
  | .e5m2 => 8
  | .e2m1 => 16
  | .plane _ => 0

/-- The largest latch K_b. -/
def LFmt.kbMax : LFmt → Nat
  | .bf16 => 256
  | .e4m3 => 512
  | .e5m2 => 512
  | .e2m1 => 1024
  | .plane k => 4096 / k

/-- Bits of an element in storage; one plane's bit for PLANE. -/
def LFmt.bits : LFmt → Nat
  | .bf16 => 16
  | .e4m3 => 8
  | .e5m2 => 8
  | .e2m1 => 4
  | .plane _ => 1

/-- The value of an element code (R62, R157). -/
def LFmt.val (f : LFmt) (c : Nat) : FVal :=
  match f with
  | .bf16 => FFmt.dec .bf16 c
  | .e4m3 => FFmt.dec .e4m3 c
  | .e5m2 => FFmt.dec .e5m2 c
  | .e2m1 => FFmt.dec .e2m1 c
  | .plane k => let v := intOf k c; .fin (decide (v < 0)) v.natAbs 0

/-- The integer of a PLANE code. -/
def LFmt.int (f : LFmt) (c : Nat) : Int :=
  match f with
  | .plane k => intOf k c
  | _ => 0

def shM (w : Word) : Nat := bitsOf w 5 0
def shN (w : Word) : Nat := bitsOf w 11 6
def shK (w : Word) : Nat := bitsOf w 24 12
def shZero (w : Word) : Bool := w.getLsbD 25
def shRot (w : Word) : Bool := w.getLsbD 26
def shSc (w : Word) : Bool := w.getLsbD 27
def shStr (w : Word) : Nat := bitsOf w 47 32
/-- NOTIFY of a shape, load or scale word. -/
def shNotify (w : Word) : Nat := bitsOf w 29 28
/-- NOTIFY of a read word. -/
def rdNotify (w : Word) : Nat := bitsOf w 23 22

/-- NOTIFY of a command; 1 acts as 0 in a remote one (R170). -/
def MxCmd.notify (c : MxCmd) : Nat :=
  match c.op with
  | .mma | .mldb | .mscale => shNotify c.word
  | .remote => if shNotify c.word = 1 then 0 else shNotify c.word
  | .mrdacc | .mwracc => rdNotify c.word
  | .mcfg | .mrot | .mzero => 0

/-- Whether a command ends with a rotation step. -/
def MxCmd.rot (c : MxCmd) : Bool :=
  match c.op with
  | .mrot => true
  | .mma | .remote => shRot c.word
  | _ => false

/-! ## Push checks (R168, R288 to R296) -/

/-- The parts of a self-window address: offset, window, span, plane field. -/
def selfParts (a : Word) : Option (Nat × Nat × Nat × Nat) :=
  match region a with
  | some (.self off fmt span pln) => if fmt != 1 && pln != 0 then none else some (off, fmt, span, pln)
  | _ => none

/-- The window and plane field of a scratchpad address of either kind. -/
def anyWin (a : Word) : Option (Nat × Nat) :=
  match region a with
  | some (.self _ fmt _ pln) => some (fmt, pln)
  | some (.remote _ _ fmt _) => some (fmt, 0)
  | _ => none

/-- The window row of R168 and R291: RAW, FP32 and INT8 are no operands. -/
def winBad (a : Word) : Bool :=
  match anyWin a with
  | some (fmt, pln) => (mxFmt fmt pln).isNone
  | none => false

/-- Bytes of n elements in a row of a window; of one plane for PLANE. -/
def rowLen (fmt n : Nat) : Nat :=
  match winFmt fmt with
  | some f => (n * nfBits f + 7) / 8
  | none => if fmt = 1 then n / 8 else 8 * n

/-- The alignment of a row start: the storage width, one byte for E2M1 and PLANE. -/
def rowAlign (fmt : Nat) : Nat :=
  match winFmt fmt with
  | some f => max 1 (nfBits f / 8)
  | none => if fmt = 1 then 1 else 8

/-- Row starts and extents of a command (R288, R292, R296). -/
def rowsBad (off fmt pln stride m n pstride : Nat) : Bool :=
  (List.range m).any fun i =>
    let o := off + i * stride
    o % rowAlign fmt != 0 ||
    (List.range (if fmt = 1 then pln + 1 else 1)).any fun q => Config.scratchBytes < o + q * pstride + rowLen fmt n

/-- Whether a U-mode engine write of rows meets the schedule-table region (R36, R288). -/
def Tile.rowsBarred (t : Tile) (off fmt stride m n : Nat) : Bool :=
  t.user && t.task.hasSched && (List.range m).any fun i => Config.schedBase < off + i * stride + rowLen fmt n

/-- The first row of R168 for a shape word. -/
def shapeBad (w : Word) : Bool :=
  bitsOf w 31 30 != 0 || bitsOf w 63 48 != 0 || 32 < shM w || 32 < shN w || 4096 < shK w || shNotify w == 3

/-- The second row of R168 for an MMA. -/
def passBad (w a : Word) : Bool :=
  winBad a || (match anyWin a with
    | some (1, _) => shSc w || shK w % 8 != 0
    | _ => false)

/-- The address rows of an MMA, made when M, N and K are all nonzero (R292). -/
def mmaAddrBad (w a pstride : Word) : Bool :=
  if shM w = 0 ∨ shN w = 0 ∨ shK w = 0 then false
  else match selfParts a with
    | none => true
    | some (off, fmt, _, pln) => rowsBad off fmt pln (shStr w) (shM w) (shK w) pstride.toNat

/-- The push checks of MMA. -/
def mmaCheck (w a pstride : Word) : Option Cause :=
  if shapeBad w || passBad w a then some cMatrixShape
  else if mmaAddrBad w a pstride then some (cAddress a)
  else none

/-- The push checks of MLDB (R291). -/
def mldbCheck (a w pstride : Word) : Option Cause :=
  let kb := bitsOf w 12 0
  if bitsOf w 27 13 != 0 || bitsOf w 63 30 != 0 || shNotify w == 3 || winBad a ||
    (match anyWin a with
      | some (fmt, pln) => (match mxFmt fmt pln with
        | some f => f.kbMax < kb
        | none => true)
      | none => false) then some cMatrixShape
  else match selfParts a with
    | none => some (cAddress a)
    | some (off, fmt, _, pln) => if off % 16 != 0 || rowsBad off fmt pln 0 1 (32 * kb) pstride.toNat then some (cAddress a) else none

/-- The push checks of MCFG (R290). -/
def Tile.mcfgCheck (t : Tile) (v : Word) : Option Cause :=
  let size := 8 * 2 ^ bitsOf v 2 0
  let off := bitsOf v 36 16
  if v.getLsbD 3 || bitsOf v 15 9 != 0 || bitsOf v 63 37 != 0 || bitsOf v 7 4 != 0 || 4 < bitsOf v 2 0 || off % 8 != 0 ||
    (!v.getLsbD 8 && off != 0) then some (cIllegal 0)
  else if v.getLsbD 8 && Config.scratchBytes < off + size then some (cAddress (BitVec.ofNat 64 (Config.selfBase + off)))
  else if v.getLsbD 8 && t.user && t.task.hasSched && Config.schedBase < off + size then
    some (cStorePerm (BitVec.ofNat 64 (Config.selfBase + off)))
  else none

/-- Whether R64 refuses a scale word. -/
def scaleBad (c : Nat) : Bool :=
  match FFmt.dec .f32 c with
  | .fin neg m _ => neg || m == 0
  | _ => true

/-- Whether the word at a scratchpad offset is read with an uncorrectable error that scrubbing has found (R174, R294). -/
def Tile.wordBad (t : Tile) (span : Nat) (key : Word) (off n : Nat) : Bool :=
  (List.range n).any fun i => t.latent.contains (placeOf span key (off + i))

/-- The push checks of MSCALE with the words it validates; a word read with an uncorrectable error is not checked and is carried as zero,
which R64 refuses of any other (R174, R294). -/
def Tile.mscaleCheck (t : Tile) (a w : Word) : Except Cause (List (BitVec 32)) :=
  let nb := bitsOf w 5 0
  if nb = 0 ∨ 32 < nb ∨ bitsOf w 27 6 ≠ 0 ∨ bitsOf w 63 30 ≠ 0 ∨ shNotify w = 3 then .error cMatrixShape
  else match selfParts a with
    | none => .error (cAddress a)
    | some (off, fmt, span, _) =>
      if (fmt != 0 && fmt != 6) || off % 4 != 0 || Config.scratchBytes < off + 256 * nb then .error (cAddress a)
      else
        let bad := fun k => t.wordBad span t.sr.bhkey (off + 4 * k) 4
        let ws := (List.range (64 * nb)).map fun k => if bad k then 0 else t.spadNat span t.sr.bhkey (off + 4 * k) 4
        match (List.range (64 * nb)).find? fun k => !bad k && scaleBad (ws.getD k 0) with
        | some k => .error (cBadScale (a + BitVec.ofNat 64 (4 * k)))
        | none => .ok (ws.map (BitVec.ofNat 32))

/-- The push checks of MRDACC and MWRACC (R296). -/
def Tile.accCheck (t : Tile) (w a : Word) (out : Bool) : Option Cause :=
  if bitsOf w 31 24 != 0 || bitsOf w 63 48 != 0 || 32 < shM w || 32 < shN w || rdNotify w == 3 ||
    (!out && bitsOf w 21 12 != 0) then some cMatrixShape
  else if shM w = 0 ∨ shN w = 0 then none
  else match selfParts a with
    | none => some (cAddress a)
    | some (off, fmt, _, pln) =>
      if rowsBad off fmt pln (shStr w) (shM w) (shN w) t.ur.pstride.toNat then some (cAddress a)
      else if out && t.rowsBarred off fmt (shStr w) (shM w) (shN w) then some (cStorePerm a)
      else none

/-! ## Pushes (R285, R54) -/

/-- Enters a command with the registers it takes. -/
def Tile.mxEnter (t : Tile) (op : MxOp) (acc : AccReg) (word addr : Word) (scales : List (BitVec 32)) (int64 : Bool) : Tile :=
  let n := (t.mx.pushes + 1) % 2 ^ 16
  let c : MxCmd :=
    { op := op, acc := acc, word := word, addr := addr, pstride := t.ur.pstride, mring := t.ur.mring, bhkey := t.sr.bhkey
      scales := scales, int64 := int64, seq := t.fe.iseq, id := n, sender := none }
  { t with mx := { t.mx with
    fifo := t.mx.fifo ++ [c]
    pushes := n
    owed := if c.notify = 1 then t.mx.owed + 1 else t.mx.owed } }

/-- A mode bit set or cleared (R50). -/
def modePut (m : BitVec 8) (acc : AccReg) (int64 : Bool) : BitVec 8 :=
  (setField (m.setWidth 64) acc.toNat acc.toNat (if int64 then 1 else 0)).setWidth 8

def Tile.mxFull (t : Tile) : Bool := Config.fifoDepth ≤ t.mx.fifo.length

/-- A push of two y operands with its checks. -/
def State.mxPush2 (s : State) (ys1 ys2 : YReg) (check : Tile → Word → Word → Except Cause (List (BitVec 32)))
    (enter : Tile → Word → Word → List (BitVec 32) → Tile) : State :=
  s.xWord [ys1, ys2] [] fun s =>
    if s.t.mxFull then s.hold
    else
      let a := s.t.popY ys1
      let b := a.2.popY ys2
      match check s.t a.1 b.1 with
      | .error c => s.trap c
      | .ok ws => s.setT (enter b.2 a.1 b.1 ws)

/-- A check without words to carry. -/
def plain (c : Option Cause) : Except Cause (List (BitVec 32)) :=
  match c with
  | some c => .error c
  | none => .ok []

/-- MCFG: MRING takes the value with POS at push (R290). -/
def execMcfg (ys1 : YReg) (s : State) : Out :=
  .next (s.xWord [ys1] [] fun s =>
    if s.t.mxFull then s.hold
    else
      let a := s.t.popY ys1
      match s.t.mcfgCheck a.1 with
      | some c => s.trap c
      | none =>
        let v := setField a.1 7 4 (a.2.lidx % 192 % 2 ^ bitsOf a.1 2 0)
        let t := { a.2 with ur := { a.2.ur with mring := v } }
        s.setT (t.mxEnter .mcfg 0 v 0 [] false))

/-- MLDB (R291). -/
def execMldb (ys1 ys2 : YReg) (s : State) : Out :=
  .next (s.mxPush2 ys1 ys2 (fun t a w => plain (mldbCheck a w t.ur.pstride)) fun t a w _ => t.mxEnter .mldb 0 w a [] false)

/-- MMA (R292). -/
def execMma (acc : AccReg) (ys1 ys2 : YReg) (s : State) : Out :=
  .next (s.mxPush2 ys1 ys2 (fun t w a => plain (mmaCheck w a t.ur.pstride)) fun t w a _ => t.mxEnter .mma acc w a [] false)

/-- MROT (R293). -/
def execMrot (s : State) : Out :=
  .next (s.xWord [] [] fun s => if s.t.mxFull then s.hold else s.setT (s.t.mxEnter .mrot 0 0 0 [] false))

/-- MSCALE: the words are validated, and carried as validated (R294). -/
def execMscale (ys1 ys2 : YReg) (s : State) : Out :=
  .next (s.mxPush2 ys1 ys2 (fun t a w => t.mscaleCheck a w) fun t a w ws => t.mxEnter .mscale 0 w a ws false)

/-- MZERO (R295). -/
def execMzero (acc : AccReg) (int64 : Bool) (s : State) : Out :=
  .next (s.xWord [] [] fun s =>
    if s.t.mxFull then s.hold
    else
      let t := s.t.mxEnter .mzero acc 0 0 [] int64
      s.setT { t with mx := { t.mx with xmodes := modePut t.mx.xmodes acc int64 } })

/-- MRDACC (R296). -/
def execMrdacc (acc : AccReg) (ys1 ys2 : YReg) (s : State) : Out :=
  .next (s.mxPush2 ys1 ys2 (fun t w a => plain (t.accCheck w a true)) fun t w a _ => t.mxEnter .mrdacc acc w a [] false)

/-- MWRACC (R296). -/
def execMwracc (acc : AccReg) (ys1 ys2 : YReg) (s : State) : Out :=
  .next (s.mxPush2 ys1 ys2 (fun t w a => plain (t.accCheck w a false)) fun t w a _ => t.mxEnter .mwracc acc w a [] false)

/-- MCMD: the record goes to the matrix unit of the tile its capability names, under a journal entry (R170, R297). -/
def execMcmd (ys1 : YReg) (s : State) : Out :=
  .next (s.xWord [ys1] [] fun s =>
    let a := s.t.popY ys1
    let t := a.2
    if t.task.region then s.trap cTaskRegion
    else match selfParts a.1 with
      | none => s.trap (cAddress a.1)
      | some (off, fmt, span, _) =>
        if fmt != 0 || off % 64 != 0 then s.trap (cAddress a.1)
        else
          let w := fun k => BitVec.ofNat 64 (t.spadNat span t.sr.bhkey (off + 8 * k) 8)
          let dst := bitsOf (w 3) 10 0
          if !s.hasIndex t dst then s.trap (cBadDest dst)
          else match t.freeEntry with
            | none => s.hold
            | some n =>
              let (id, t) := t.takeEntry n dst a.1
              let clean := bitsOf (w 2) 63 3 == 0 && (List.range 4).all fun k => w (4 + k) == 0
              let c : MxCmd :=
                { op := .remote, acc := BitVec.ofNat 3 (w 2).toNat, word := w 0, addr := w 1, pstride := 0, mring := 0, bhkey := 0
                  scales := [], int64 := false, seq := 0, id := 0, sender := some (t.lidx, n) }
              let t := t.route
              (s.setT t).send t dst (.mcmd n id (w 3) c clean))

/-- MSTAT (R298). -/
def execMstat (yd : YReg) (s : State) : Out :=
  .next (s.setT (s.t.xWord [] [yd] fun t =>
    let modes := t.mx.xmodes.toNat * 2 ^ 40
    match t.mx.cf with
    | e :: r => { t with mx := { t.mx with cf := r } }.putY yd (BitVec.ofNat 64 (e.toNat + 2 ^ 32 + modes))
    | [] => if t.mx.owed != 0 then t.hold else t.putY yd (BitVec.ofNat 64 modes)))

/-! ## Accumulators -/

/-- A map with a key set, or dropped when the value is the one an unlisted key reads as. -/
def wordPut (k : Nat) (v : Word) (m : SMap Word) : SMap Word := if v = 0 then smDel k m else smPut k v m

def accKey (acc i j : Nat) : Nat := acc * 1024 + 32 * i + j
def Matrix.word (m : Matrix) (acc i j : Nat) : Word := smGet 0 (accKey acc i j) m.acc
/-- Whether an accumulator is in INT64 mode (R50). -/
def Matrix.int (m : Matrix) (acc : AccReg) : Bool := m.modes.getLsbD acc.toNat

/-- Writes words of an accumulator and logs their rows (R395). -/
def Tile.accPut (t : Tile) (acc : Nat) (ws : List (Nat × Nat × Word)) : Tile :=
  let t := ((ws.map (·.1)).eraseDups).foldl (fun t i => t.logAcc (acc * 32 + i)) t
  { t with mx := { t.mx with acc := ws.foldl (fun m w => wordPut (accKey acc w.1 w.2.1) w.2.2 m) t.mx.acc } }

/-- Rows below m and columns below n. -/
def cells (m n : Nat) : List (Nat × Nat) := (List.range m).flatMap fun i => (List.range n).map fun j => (i, j)

/-! ## Operand errors (R174) -/

/-- MERRLOG after an element failed: captured when MERR changes to 1, else MORE (R53, R174). -/
def merrLog (w : Word) (opnd row col : Nat) : Word :=
  if w.getLsbD 0 then w ||| 2 else BitVec.ofNat 64 (1 + bitsOf w 1 1 * 2 + opnd * 4 + row % 32 * 2 ^ 8 + col % 32 * 2 ^ 16)

/-- MERRLOG takes the failing elements of a command, in order, when it completes (R54); that MERR became 1 and that an element failed is
noted for the next gang boundary (R402). -/
def Tile.merr (t : Tile) (es : List (Nat × Nat × Nat)) : Tile :=
  { t with
    ir := { t.ir with merrlog := es.foldl (fun w e => merrLog w e.1 e.2.1 e.2.2) t.ir.merrlog }
    ctl := { t.ctl with
      poisoned := t.ctl.poisoned || (!es.isEmpty && !t.ir.merrlog.getLsbD 0)
      failed := t.ctl.failed || !es.isEmpty } }

/-- The running command notes elements that failed (R174); outside a command they are recorded at once. -/
def Tile.noteErrs (t : Tile) (es : List (Nat × Nat × Nat)) : Tile :=
  match t.mx.run with
  | none => t.merr es
  | some r => { t with mx := { t.mx with run := some { r with merr := r.merr || !es.isEmpty, errs := r.errs ++ es } } }

/-- Scratchpad offsets among some that hold a byte with an error that scrubbing has found. -/
def Tile.latentOffs (t : Tile) (span : Nat) (key : Word) (offs : List Nat) : List Nat :=
  if t.latent.isEmpty then [] else offs.filter fun o => t.latent.contains (placeOf span key o)

/-- Whether an element has a byte found uncorrectable. -/
def hit (bad : List Nat) (ps : List Piece) : Bool := ps.any fun p => bad.contains p.off

/-! ## Passes (R159, R74 to R76) -/

/-- The pieces of element k of a row. -/
def mxPieces (off fmt pln pstride k : Nat) : List Piece :=
  match winFmt fmt with
  | some f => elemPieces off (nfBits f) k
  | none => if fmt = 1 then planePieces off pstride (pln + 1) k else elemPieces off 64 k

/-- One rounding of the exact sum of a word and products (R75). -/
def sumStep (c : FVal) (ps : List (FVal × Fl)) : Nat × Fl :=
  let fl := ps.foldl (fun f p => f ||| p.2) (flIf c.snan flInvalid)
  let vs := c :: ps.map (·.1)
  let infs := vs.filterMap fun v => match v with
    | .inf n => some n
    | _ => none
  let fl := if infs.contains true && infs.contains false then fl ||| flInvalid else fl
  if vs.any FVal.isNan then (FFmt.nan .f64, fl)
  else
    match infs with
    | n :: r => if r.all (· == n) then (FFmt.infS .f64 n, fl) else (FFmt.nan .f64, fl)
    | [] =>
      let t := sumTerms (vs.filterMap fun v => match v with
        | .fin n m e => some ⟨n, m, e⟩
        | _ => none)
      let r := rnd .f64 t.neg t.m t.e
      (r.1, fl ||| r.2)

/-- An exact integer has no negative zero (R68, R75). -/
def FVal.plusZero : FVal → FVal
  | .fin n m e => .fin (n && m != 0) m e
  | v => v

/-- Products of element codes, each with its scale product when there is one; those of PLANE elements are exact integers (R75). -/
def products (fa fb : LFmt) (as bs : List Nat) (sc : Option FVal) : List (FVal × Fl) :=
  (as.zip bs).map fun e =>
    let q := mulV (fa.val e.1) (fb.val e.2)
    let p := if fa.group = 3 then (q.1.plusZero, q.2) else q
    match sc with
    | none => p
    | some s =>
      let q := mulV p.1 s
      (q.1, p.2 ||| q.2)

/-- The steps of K positions: first position and length of each (R74). -/
def kSteps (k step : Nat) : List (Nat × Nat) :=
  if step = 0 then [(0, k)] else (List.range ((k + step - 1) / step)).map fun i => (i * step, min step (k - i * step))

/-- One output word of a float or PLANE pass in binary64 mode (R75). -/
def floatWord (fa fb : LFmt) (sc : Nat → Option FVal) (step : Nat) (c : Word) (as bs : List Nat) : Nat × Fl :=
  (kSteps as.length step).foldl (fun acc st =>
    let r := sumStep (FFmt.dec .f64 acc.1) (products fa fb ((as.drop st.1).take st.2) ((bs.drop st.1).take st.2) (sc (st.1 / 32)))
    (r.1, acc.2 ||| r.2)) (c.toNat, 0)

/-- One output word of a PLANE pass in INT64 mode (R76). -/
def intWord (fa fb : LFmt) (c : Word) (as bs : List Nat) : Nat × Fl :=
  let v := (as.zip bs).foldl (fun v e => v + fa.int e.1 * fb.int e.2) c.toInt
  (codeOf 64 v, flIf (v != intOf 64 (codeOf 64 v)) flMovf)

/-- The scale pair of block b for word (i, j), none in an unscaled pass (R64, R165). A bad scale counts as zero (R174). -/
def Matrix.scale (m : Matrix) (i j b : Nat) : FVal :=
  let v := fun k => FFmt.dec .f32 (m.scales.getD k 0).toNat
  (mulV (v (i * m.nb + b)) (v (32 * m.nb + j * m.nb + b))).1

/-- The A operand rows of a pass, element codes with a failing element as zero. -/
def Tile.rowA (t : Tile) (c : MxCmd) (bad : List Nat) (off fmt span pln i : Nat) : List Nat :=
  (List.range (shK c.word)).map fun k =>
    let ps := mxPieces (off + i * shStr c.word) fmt pln c.pstride.toNat k
    if hit bad ps then 0 else readPieces (t.spadRead span c.bhkey) ps

/-- The effect of a pass on its accumulator, with its flags (R159). Of several failing A elements the first is that of the first step, there of the first row
(R174; DESIGN CHOICE, log 83). -/
def Tile.pass' (t : Tile) (c : MxCmd) (bad : List Nat) : Tile × Fl :=
  let m := shM c.word
  let n := shN c.word
  let k := shK c.word
  let acc := c.acc.toNat
  if m = 0 ∨ n = 0 then (t, 0)
  else
    let c0 := fun i j => if shZero c.word then 0 else t.mx.word acc i j
    match selfParts c.addr, t.mx.front.fmt with
    | some (off, fmt, span, pln), some fb =>
      match mxFmt fmt pln with
      | none => (t, 0)
      | some fa =>
        if k = 0 then
          (if shZero c.word then t.accPut acc ((cells m n).map fun e => (e.1, e.2, 0)) else t, 0)
        else
          let step := if shSc c.word then 32 else fa.kstep
          let ws := (List.range m).flatMap fun i =>
            let as := t.rowA c bad off fmt span pln i
            (List.range n).map fun j =>
              let bs := (List.range k).map fun q => (smGet 0 (q * 32 + j) t.mx.front.elems).toNat
              let sc := fun b => if shSc c.word then some (t.mx.scale i j b) else none
              let r := if t.mx.int c.acc then intWord fa fb (c0 i j) as bs else floatWord fa fb sc step (c0 i j) as bs
              ((i, j, BitVec.ofNat 64 r.1), r.2)
          let es := (kSteps k step).flatMap fun st => (List.range m).flatMap fun i => (List.range st.2).filterMap fun d =>
            let q := st.1 + d
            if hit bad (mxPieces (off + i * shStr c.word) fmt pln c.pstride.toNat q) then some (0, i, q % 32) else none
          ((t.accPut acc (ws.map (·.1))).noteErrs es, ws.foldl (fun f w => f ||| w.2) 0)
    | _, _ => (if shZero c.word && k = 0 then t.accPut acc ((cells m n).map fun e => (e.1, e.2, 0)) else t, 0)

/-- The start checks of a pass, made when M, N and K are all nonzero (R168, R292). -/
def Tile.passFaults (t : Tile) (c : MxCmd) : Bool :=
  let k := shK c.word
  if shM c.word = 0 ∨ shN c.word = 0 ∨ k = 0 then false
  else match anyWin c.addr, t.mx.front.fmt with
    | some (fmt, pln), some fb =>
      match mxFmt fmt pln with
      | none => true
      | some fa =>
        t.mx.front.kb < k || fa.group != fb.group || (t.mx.int c.acc && fa.group != 3) ||
        (shSc c.word && t.mx.nb < (k + 31) / 32)
    | _, _ => true

/-! ## Latch loads, read-out and write-back (R161, R164, R166, R167) -/

/-- A fill of the front half counts, and writes its arrival flag (R164). -/
def Tile.fill (t : Tile) (c : MxCmd) : Tile :=
  let t := t.logLatch 2
  let n := (t.mx.fills + 1) % 2 ^ 64
  let t := { t with mx := { t.mx with fills := n } }
  match t.mx.front.origin with
  | some o => if c.mring.getLsbD 8 then t.spadPut 0 0 (bitsOf c.mring 36 16 + 8 * o) 8 n else t
  | none => t

/-- MLDB as it runs (R161, R291). -/
def Tile.loadLatch (t : Tile) (c : MxCmd) (bad : List Nat) : Tile :=
  let kb := bitsOf c.word 12 0
  let pos := bitsOf c.mring 7 4
  match selfParts c.addr with
  | none => t
  | some (off, fmt, span, pln) =>
    let es : List ((Nat × Nat) × Bool × Nat) := (cells kb 32).map fun e =>
      let ps := mxPieces off fmt pln c.pstride.toNat (32 * e.1 + e.2)
      (e, hit bad ps, readPieces (t.spadRead span c.bhkey) ps)
    let h : Half :=
      { kb := kb, fmt := mxFmt fmt pln, origin := some pos
        elems := es.foldl (fun m e => if e.2.1 then m else wordPut (e.1.1 * 32 + e.1.2) (BitVec.ofNat 64 e.2.2) m) [] }
    let t := t.logLatch 0
    let t := { t with mx := { t.mx with front := h } }
    (t.noteErrs (es.filterMap fun e => if e.2.1 then some (1, e.1.1 % 32, e.1.2) else none)).fill c

/-- A rounding mode from its code (R66). -/
def rmOf (c : Nat) : RMode :=
  match c with
  | 0 => .rne
  | 1 => .rtz
  | 2 => .rdn
  | _ => .rup

/-- An accumulator word read out through a window (R166). -/
def readOut (int64 : Bool) (w : Word) (fmt : Nat) (word : Word) : Nat × Fl :=
  let sh := intOf 7 (bitsOf word 18 12)
  let rm := rmOf (bitsOf word 20 19)
  let v : FVal := if int64 then .fin w.msb w.toInt.natAbs sh
    else match FFmt.dec .f64 w.toNat with
      | .fin n m e => .fin n m (e + sh)
      | x => x
  match winFmt fmt with
  | none => (w.toNat, 0)
  | some .i8 =>
    match v with
    | .nan _ => (0, flInvalid)
    | .inf n => (codeOf 8 (if n then -128 else 127), flInvalid)
    | .fin n m e =>
      let (r, inex) := roundAt rm n m e 0
      (codeOf 8 (satInt 8 (if n then -(r : Int) else r)), flIf inex flInexact)
  | some f =>
    match nfKind f with
    | .flt f => fltToFlt v f rm (word.getLsbD 21)
    | _ => (0, 0)

/-- MRDACC as it runs (R166). -/
def Tile.readAcc (t : Tile) (c : MxCmd) : Tile × Fl :=
  match selfParts c.addr with
  | none => (t, 0)
  | some (off, fmt, span, pln) =>
    let rs := (cells (shM c.word) (shN c.word)).map fun e =>
      let r := readOut (t.mx.int c.acc) (t.mx.word c.acc.toNat e.1 e.2) fmt c.word
      (writePieces r.1 (mxPieces (off + e.1 * shStr c.word) fmt pln 0 e.2), r.2)
    (t.spadPieces span c.bhkey (rs.flatMap (·.1)), rs.foldl (fun f r => f ||| r.2) 0)

/-- The places that MRDACC writes, with their bits: an E2M1 element is half a byte (R102, R166). -/
def MxCmd.outPlaces (c : MxCmd) : List (Nat × Byte) :=
  match selfParts c.addr with
  | none => []
  | some (off, fmt, span, pln) =>
    ((cells (shM c.word) (shN c.word)).flatMap fun e => mxPieces (off + e.1 * shStr c.word) fmt pln 0 e.2).foldl (fun m p =>
      let a := placeOf span c.bhkey p.off
      let b := BitVec.ofNat 8 ((2 ^ p.n - 1) * 2 ^ p.bit)
      if p.n = 8 then m ++ [(a, b)] else smPut a (smGet 0 a m ||| b) m) []

/-- A stored element written back to an accumulator word (R167). -/
def writeBack (int64 : Bool) (fmt c : Nat) : Nat :=
  match winFmt fmt with
  | none => c
  | some .i8 => if int64 then codeOf 64 (intOf 8 c) else (intToFlt (intOf 8 c) .f64 .rne false).1
  | some f => (convert .f64 f .rne false c).1

/-- MWRACC as it runs (R167). -/
def Tile.writeAcc (t : Tile) (c : MxCmd) : Tile :=
  match selfParts c.addr with
  | none => t
  | some (off, fmt, span, pln) =>
    t.accPut c.acc.toNat ((cells (shM c.word) (shN c.word)).map fun e =>
      let v := readPieces (t.spadRead span c.bhkey) (mxPieces (off + e.1 * shStr c.word) fmt pln 0 e.2)
      (e.1, e.2, BitVec.ofNat 64 (writeBack (t.mx.int c.acc) fmt v)))

/-- The format faults of MRDACC and MWRACC at start (R166 to R168). -/
def Tile.accFaults (t : Tile) (c : MxCmd) : Bool :=
  if shM c.word = 0 ∨ shN c.word = 0 then false
  else match anyWin c.addr with
    | some (fmt, _) =>
      fmt == 1 || (c.op == .mwracc && t.mx.int c.acc && fmt != 0 && fmt != 7)
    | none => true

/-- The start checks of a command (R168). -/
def Tile.mxFaults (t : Tile) (c : MxCmd) : Bool :=
  match c.op with
  | .mma | .remote => t.passFaults c
  | .mrdacc | .mwracc => t.accFaults c
  | _ => false

/-- The scratchpad offsets of the operand bytes of a command, with their span (R174). -/
def MxCmd.operandOffs (c : MxCmd) : Nat × List Nat :=
  match selfParts c.addr with
  | none => (0, [])
  | some (off, fmt, span, pln) =>
    let of := fun (o k : Nat) => (mxPieces o fmt pln c.pstride.toNat k).map (·.off)
    match c.op with
    | .mma | .remote =>
      (span, (List.range (shM c.word)).flatMap fun i => (List.range (shK c.word)).flatMap (of (off + i * shStr c.word)))
    | .mldb => (span, (List.range (bitsOf c.word 12 0 * 32)).flatMap (of off))
    | _ => (0, [])

/-- The operand bytes that a running command reads with an uncorrectable error (R174). -/
def Tile.badOperands (t : Tile) (r : MxRun) : List Nat :=
  if t.latent.isEmpty then r.bad
  else r.bad ++ t.latentOffs r.cmd.operandOffs.1 r.cmd.bhkey r.cmd.operandOffs.2

/-- The scratchpad offsets, and addresses of scale words, that a command finds uncorrectable as it computes (R174, R410). -/
def Tile.foundBad (t : Tile) (r : MxRun) : List Nat :=
  if r.computed || r.fault then []
  else if r.cmd.op == .mscale then
    (List.range r.cmd.scales.length).filterMap fun k => if r.cmd.scales.getD k 0 = 0 then some (r.cmd.addr.toNat + 4 * k) else none
  else (t.latentOffs r.cmd.operandOffs.1 r.cmd.bhkey r.cmd.operandOffs.2).eraseDups

/-- What a command computes, with its flags (R159 to R167). -/
def Tile.mxEffect (t : Tile) (c : MxCmd) (bad : List Nat) : Tile × Fl :=
  match c.op with
  | .mcfg =>
    let t := ((t.logLatch 0).logLatch 1).logLatch 2
    ({ t with mx := { t.mx with
      ring := c.word, front := .empty, back := .empty, backIn := false, sending := false, sent := false, credit := true, fills := 0 } }, 0)
  | .mldb => (t.loadLatch c bad, 0)
  | .mma | .remote => t.pass' c bad
  | .mrot => (t, 0)
  | .mscale =>
    let t := t.logLatch 3
    let nb := bitsOf c.word 5 0
    let es := (List.range c.scales.length).filterMap fun k =>
      if c.scales.getD k 0 = 0 then some (2, k / nb % 32, k % nb) else none
    (({ t with mx := { t.mx with scales := c.scales, nb := nb } }).noteErrs es, 0)
  | .mzero =>
    let t := t.accPut c.acc.toNat ((cells 32 32).map fun e => (e.1, e.2, 0))
    ({ t with mx := { t.mx with modes := modePut t.mx.modes c.acc c.int64 } }, 0)
  | .mrdacc => t.readAcc c
  | .mwracc => (t.writeAcc c, 0)

/-- OP of an element (R169). -/
def MxOp.code : MxOp → Nat
  | .mma => 0 | .mldb => 1 | .mscale => 2 | .mzero => 3 | .mrdacc => 4 | .mwracc => 5 | .mrot => 6 | .mcfg => 6 | .remote => 7

/-- The completion element of a command (R169). -/
def MxRun.element (r : MxRun) : BitVec 32 :=
  BitVec.ofNat 32 (r.cmd.id + r.cmd.op.code * 2 ^ 16 + r.cmd.acc.toNat * 2 ^ 20 + (if r.merr then 2 ^ 23 else 0) +
    r.flags.toNat * 2 ^ 24 + (if r.fault then 2 ^ 30 else 0))

end Sys2Proof.Machine
end

