-- ==== Sys2Proof/Machine/Envelope.lean ====
section
/-! DEFINITION. Envelope: the envelope accumulator: exact piecewise-linear arithmetic, the forming of a result and the ten
instructions (R176 to R191, R299 to R301). -/

namespace Sys2Proof.Machine

/-! ## Exact numbers, in units of 2^-32 (R177) -/

/-- num / den with den positive. -/
structure Q where
  num : Int
  den : Nat
  deriving DecidableEq, Repr

def Q.ofInt (v : Int) : Q := ⟨v, 1⟩
def Q.le (a b : Q) : Bool := decide (a.num * b.den ≤ b.num * a.den)
def Q.lt (a b : Q) : Bool := decide (a.num * b.den < b.num * a.den)
def Q.add (a b : Q) : Q := ⟨a.num * b.den + b.num * a.den, a.den * b.den⟩
def Q.neg (a : Q) : Q := ⟨-a.num, a.den⟩
def Q.sub (a b : Q) : Q := a.add b.neg
def Q.max (a b : Q) : Q := if a.le b then b else a
def Q.min (a b : Q) : Q := if a.le b then a else b
def Q.floor (a : Q) : Int := a.num / (a.den : Int)

/-- A bound of a domain or of an interval. -/
inductive Bd where
  | ninf
  | fin (q : Q)
  | pinf
  deriving DecidableEq, Repr

def Bd.lt : Bd → Bd → Bool
  | .ninf, .ninf => false
  | .ninf, _ => true
  | _, .ninf => false
  | .pinf, _ => false
  | _, .pinf => true
  | .fin a, .fin b => a.lt b
def Bd.le (a b : Bd) : Bool := !b.lt a
def Bd.max (a b : Bd) : Bd := if a.lt b then b else a
def Bd.min (a b : Bd) : Bd := if b.lt a then b else a
/-- A sum of bounds; opposite infinities never arise (R177, R183). -/
def Bd.add : Bd → Bd → Bd
  | .fin a, .fin b => .fin (a.add b)
  | .ninf, _ => .ninf
  | _, .ninf => .ninf
  | .pinf, _ => .pinf
  | _, .pinf => .pinf

/-- The codes of R177. -/
def pinfCode : Word := 0x7FFF_FFFF_FFFF_FFFF
def ninfCode : Word := 0x8000_0000_0000_0000
def isCode (w : Word) : Bool := w == pinfCode || w == ninfCode
def bdOf (w : Word) : Bd := if w = ninfCode then .ninf else if w = pinfCode then .pinf else .fin (.ofInt w.toInt)
/-- A floored value within the finite range. -/
def finite (v : Int) : Option Word := if -(2 ^ 63) < v ∧ v < 2 ^ 63 - 1 then some (BitVec.ofInt 64 v) else none
/-- A bound floored to its code; none outside the finite range. -/
def bdCode : Bd → Option Word
  | .ninf => some ninfCode
  | .pinf => some pinfCode
  | .fin q => finite q.floor

/-! ## Lines -/

/-- A line with an exact intercept; its slope is a Q31.32 code. -/
structure Line where
  m : Int
  c : Q
  deriving DecidableEq, Repr

/-- m x x + c, all in code units. -/
def Line.at (l : Line) (x : Q) : Q := (Q.mk (l.m * x.num) (x.den * 2 ^ 32)).add l.c
/-- The exact crossing of two lines of different slope. -/
def Line.cross (a b : Line) : Q :=
  let d := b.m - a.m
  let n := (a.c.sub b.c).num * 2 ^ 32
  let k := (a.c.sub b.c).den
  if 0 < d then ⟨n, k * d.toNat⟩ else ⟨-n, k * (-d).toNat⟩

/-- Inserts a line by slope; of equal slopes the larger intercept is kept, the line present on a tie (R179). -/
def insertLine (l : Line) : List Line → List Line
  | [] => [l]
  | h :: r =>
    if l.m < h.m then l :: h :: r
    else if l.m = h.m then (if h.c.lt l.c then l :: r else h :: r)
    else h :: insertLine l r

/-- Drops from the top of a hull the lines that a steeper line covers; the top is the steepest. -/
def popCovered (l : Line) : List Line → List Line
  | [] => []
  | h :: r =>
    match r with
    | [] => [h]
    | g :: _ => if (h.cross l).le (g.cross h) then popCovered l r else h :: r

/-- The lines of an upper envelope over all reals, in slope order. -/
def hull (ls : List Line) : List Line :=
  ((ls.foldl (fun s l => insertLine l s) []).foldl (fun st l => l :: popCovered l st) []).reverse

/-- The lines of a hull with their active intervals, the first from `left`. -/
def intervals (left : Bd) : List Line → List (Line × Bd × Bd)
  | [] => []
  | [l] => [(l, left, .pinf)]
  | l :: h :: r => (l, left, .fin (l.cross h)) :: intervals (.fin (l.cross h)) (h :: r)

/-- The line of greatest value at a point, the smaller slope on a tie (R179). -/
def bestAt (x : Q) : List Line → Option Line
  | [] => none
  | l :: r =>
    match bestAt x r with
    | none => some l
    | some h =>
      if (h.at x).lt (l.at x) then some l
      else if (l.at x).lt (h.at x) then some h
      else if l.m ≤ h.m then some l else some h

/-- Canonical form on a domain (R179). -/
def canon (ls : List Line) (lo hi : Bd) : List Line :=
  match lo with
  | .fin a =>
    if lo.lt hi then ((intervals .ninf (hull ls)).filter fun e => (e.2.1.max lo).lt (e.2.2.min hi)).map (·.1)
    else (bestAt a ls).toList
  | _ => ((intervals .ninf (hull ls)).filter fun e => (e.2.1.max lo).lt (e.2.2.min hi)).map (·.1)

/-- The greatest value of f(x) at a point; none with no line. -/
def valueAt (ls : List Line) (x : Q) : Option Q := (bestAt x ls).map fun l => l.at x

/-- Whether the drop of a line between its neighbours is at most the tolerance (R180). -/
def dropped (lam rho : Option Line) (l : Line) (lo hi : Bd) (etol : Q) : Bool :=
  match lam, rho with
  | none, none => false
  | none, some r => (match lo with
    | .fin x => ((l.at x).sub (r.at x)).le etol
    | _ => false)
  | some a, none => (match hi with
    | .fin x => ((l.at x).sub (a.at x)).le etol
    | _ => false)
  | some a, some r =>
    match ((Bd.fin (a.cross r)).max lo).min hi with
    | .fin x => ((l.at x).sub ((a.at x).max (r.at x))).le etol
    | _ => false

/-- The tolerance pass (R180); `k` holds the lines kept, the last on top. -/
def tolerance (lo hi : Bd) (etol : Q) (k : List Line) : List Line → List Line
  | [] => k.reverse
  | l :: r => if dropped k.head? r.head? l lo hi etol then tolerance lo hi etol k r else tolerance lo hi etol (l :: k) r

/-! ## Forming a result (R178) -/

/-- What an operation gives: a register, the improper register with status EMPTY, or a fault with KIND and NEED (R188). -/
inductive EnvRes where
  | ok (e : Env)
  | improper
  | range
  | capacity (need : Nat)
  deriving DecidableEq, Repr

/-- Every element, or none when one is missing. -/
def allSome {α : Type} : List (Option α) → Option (List α)
  | [] => some []
  | none :: _ => none
  | some a :: r => (allSome r).map (a :: ·)

/-- A floored line as its codes. -/
def lineCodes (l : Line) : Option (Word × Word) :=
  match finite l.m, finite l.c.floor with
  | some m, some c => some (m, c)
  | _, _ => none

def lineOf (w : Word × Word) : Line := ⟨w.1.toInt, .ofInt w.2.toInt⟩
/-- The lines of a register. -/
def Env.ls (e : Env) : List Line := e.lines.map lineOf

/-- The breakpoints of lines in slope order (R181). -/
def breaks : List Line → List (Option Word)
  | [] => []
  | [_] => []
  | l :: h :: r => finite (l.cross h).floor :: breaks (h :: r)

/-- Steps 2 to 6 of R178. -/
def envBuild (ls : List Line) (lo hi : Bd) (etol : Word) (elimit : Nat) : EnvRes :=
  if hi.lt lo then .improper
  else match allSome (ls.map lineCodes), bdCode lo, bdCode hi with
    | some ws, some l, some h =>
      let c := canon (ws.map lineOf) (bdOf l) (bdOf h)
      let k := tolerance (bdOf l) (bdOf h) (.ofInt etol.toInt) [] c
      match allSome (breaks k), allSome (k.map lineCodes) with
      | some bps, some lines => if elimit < k.length then .capacity k.length else .ok ⟨true, l, h, lines, bps⟩
      | _, _ => .range
    | _, _, _ => .range

/-! ## The operations (R182 to R184, R187) -/

/-- The sums of the pairs of lines whose active subintervals overlap in positive length within the intersection; on a domain of one
point, where none can, of those that meet in it (R179, R182, log 26). -/
def addLines (a b : Env) (lo hi : Bd) : List Line :=
  (intervals .ninf (hull a.ls)).flatMap fun e => (intervals .ninf (hull b.ls)).filterMap fun f =>
    let x := (e.2.1.max f.2.1).max lo
    let y := (e.2.2.min f.2.2).min hi
    if (if lo.lt hi then x.lt y else x.le y) then some ⟨e.1.m + f.1.m, e.1.c.add f.1.c⟩ else none

/-- The exact vertices of an envelope: crossings and finite bounds (R183). -/
def Env.vertices (e : Env) : List Q :=
  let fin := fun (w : Word) => match bdOf w with
    | .fin q => [q]
    | _ => []
  let rec crossings : List Line → List Q
    | [] => []
    | [_] => []
    | l :: h :: r => l.cross h :: crossings (h :: r)
  fin e.lo ++ crossings e.ls ++ fin e.hi

/-- Whether s lies in the slope domain (R183). -/
def Env.slopeIn (e : Env) (s : Int) : Bool :=
  (e.lo != ninfCode || (match e.ls.head? with
    | some l => decide (l.m ≤ s)
    | none => true)) &&
  (e.hi != pinfCode || (match e.ls.getLast? with
    | some l => decide (s ≤ l.m)
    | none => true))

/-- Conj(f, s) of R183. -/
def Env.conj (e : Env) (s : Int) : Q :=
  let at' := fun (v : Q) => (Q.mk (s * v.num) (v.den * 2 ^ 32)).sub ((valueAt e.ls v).getD (.ofInt 0))
  match e.vertices with
  | [] => (match e.ls with
    | l :: _ => l.c.neg
    | [] => .ofInt 0)
  | v :: r => r.foldl (fun m v => m.max (at' v)) (at' v)

/-- Whether the intersection of the slope domains is empty (R183): one side's steepest bound lies below the other's least. -/
def slopesApart (a b : Env) : Bool :=
  let lo := fun (e : Env) => if e.lo = ninfCode then (match e.ls.head? with
    | some l => Bd.fin (.ofInt l.m)
    | none => .ninf) else .ninf
  let hi := fun (e : Env) => if e.hi = pinfCode then (match e.ls.getLast? with
    | some l => Bd.fin (.ofInt l.m)
    | none => .pinf) else .pinf
  ((hi a).min (hi b)).lt ((lo a).max (lo b))

/-- EINF (R183). -/
def envInf (a b : Env) (etol : Word) (elimit : Nat) : EnvRes :=
  if !a.proper || !b.proper || a.lines.isEmpty || b.lines.isEmpty || slopesApart a b then .improper
  else
    let ss := ((a.ls ++ b.ls).map (·.m)).filter fun s => a.slopeIn s && b.slopeIn s
    envBuild (ss.map fun s => ⟨s, (a.conj s).neg.sub (b.conj s)⟩) ((bdOf a.lo).add (bdOf b.lo)) ((bdOf a.hi).add (bdOf b.hi)) etol elimit

/-- ECONJ (R184). -/
def envConj (a : Env) (etol : Word) (elimit : Nat) : EnvRes :=
  match a.proper, a.ls with
  | false, _ => .improper
  | true, [] => .improper
  | true, l :: r =>
    let m1 := Bd.fin (.ofInt l.m)
    let mn := Bd.fin (.ofInt ((l :: r).getLastD l).m)
    if r.isEmpty && a.lo == ninfCode && a.hi == pinfCode then envBuild [⟨0, l.c.neg⟩] m1 m1 etol elimit
    else
      let vs := (if a.lo = ninfCode then [] else [a.lo]) ++ a.bps ++ (if a.hi = pinfCode then [] else [a.hi])
      let ls := vs.map fun v => (⟨v.toInt, ((valueAt a.ls (.ofInt v.toInt)).getD (.ofInt 0)).neg⟩ : Line)
      envBuild ls (if a.lo = ninfCode then m1 else .ninf) (if a.hi = pinfCode then mn else .pinf) etol elimit

/-- EMAX and EADD on two operands (R182, R186). -/
def envPair (a b : Env) (lines : Bd → Bd → List Line) (etol : Word) (elimit : Nat) : EnvRes :=
  if !a.proper || !b.proper then .improper
  else
    let lo := (bdOf a.lo).max (bdOf b.lo)
    let hi := (bdOf a.hi).min (bdOf b.hi)
    envBuild (lines lo hi) lo hi etol elimit

/-- EINS (R182, R186); a code among the operands gives the range fault whatever the register is (DESIGN CHOICE, log 82). -/
def envIns (e : Env) (m c etol : Word) (elimit : Nat) : EnvRes :=
  if isCode m || isCode c then .range
  else if !e.proper then .improper
  else envBuild (e.ls ++ [lineOf (m, c)]) (bdOf e.lo) (bdOf e.hi) etol elimit

/-- ELD from the words of its image (R187). -/
def envLoad (ws : List Word) (etol : Word) (elimit : Nat) : EnvRes :=
  let lo := ws.getD 0 0
  let hi := ws.getD 1 0
  let body := ws.drop 2
  let rec pairs : List Word → List (Word × Word)
    | m :: c :: r => (m, c) :: pairs r
    | _ => []
  if lo = pinfCode ∧ hi = ninfCode ∧ body = [] then .improper
  else if body.any isCode || hi.slt lo || lo == pinfCode || hi == ninfCode then .range
  else envBuild ((pairs body).map lineOf) (bdOf lo) (bdOf hi) etol elimit

/-- The result of EEVAL: none is the range fault; the flag of an improper register (R185). -/
def envEval (e : Env) (x : Word) : Option (Word × Fl) :=
  if isCode x then none
  else if !e.proper then some (ninfCode, flInvalid)
  else
    let b := bdOf x
    if b.lt (bdOf e.lo) || (bdOf e.hi).lt b then some (pinfCode, 0)
    else match valueAt e.ls (.ofInt x.toInt) with
      | none => some (ninfCode, 0)
      | some v => (finite v.floor).map fun w => (w, 0)

/-- The word of ECNT (R185). -/
def envCount (e : Env) : Word := BitVec.ofNat 64 (e.lines.length % 512 + (if e.proper then 0 else 2 ^ 16))

/-- The words EST writes (R187). -/
def Env.image (e : Env) : List Word :=
  if e.proper then e.lo :: e.hi :: e.lines.flatMap fun l => [l.1, l.2] else [pinfCode, ninfCode]

/-- The improper register (R176). -/
def Env.bad : Env := ⟨false, ninfCode, pinfCode, [], []⟩

/-! ## Pushes (R285, R299, R300) -/

def Tile.envFull (t : Tile) : Bool := Config.fifoDepth ≤ t.envq.length
/-- An envelope register. -/
def Tile.envGet (t : Tile) (e : EReg) : Env := t.env[e.toNat]'e.isLt

/-- Enters a command with the registers it takes (R54). -/
def Tile.envEnter (t : Tile) (op : EnvOp) (word : Instr) : Tile :=
  { t with envq := t.envq ++ [⟨op, t.ur.etol, t.ur.elimit, t.sr.bhkey, t.fe.ipc, t.fe.iseq, t.fe.loops, 0, word, none⟩] }

/-- A push without sources or checks. -/
def State.envPush (s : State) (op : EnvOp) (word : Instr) : State :=
  s.xWord [] [] fun s => if s.t.envFull then s.hold else s.setT (s.t.envEnter op word)

/-- The address check of ELD and EST over n bytes (R187, R300). -/
def envAddrBad (a : Word) (n : Nat) : Bool :=
  match selfParts a with
  | some (off, fmt, _, _) => fmt != 0 || off % 16 != 0 || Config.scratchBytes < off + n
  | none => true

/-- ECLR (R182, R299). -/
def execEclr (ed : EReg) (s : State) : Out := .next (s.envPush (.eclr ed) (.eclr ed))

/-- EINS (R182, R299). -/
def execEins (ed : EReg) (ys1 ys2 : YReg) (s : State) : Out :=
  .next (s.xWord [ys1, ys2] [] fun s =>
    if s.t.envFull then s.hold
    else
      let a := s.t.popY ys1
      let b := a.2.popY ys2
      s.setT (b.2.envEnter (.eins ed a.1 b.1) (.eins ed ys1 ys2)))

/-- ELD (R187, R300). -/
def execEld (ed : EReg) (ys1 ys2 : YReg) (s : State) : Out :=
  .next (s.xWord [ys1, ys2] [] fun s =>
    if s.t.envFull then s.hold
    else
      let a := s.t.popY ys1
      let b := a.2.popY ys2
      if 256 < b.1.toNat then s.trap (cIllegal 0)
      else if envAddrBad a.1 (16 + 16 * b.1.toNat) then s.trap (cAddress a.1)
      else s.setT (b.2.envEnter (.eld ed a.1 b.1.toNat) (.eld ed ys1 ys2)))

/-- EST: checked over the largest image, 4,112 bytes (R36, R300). -/
def execEst (es : EReg) (ys1 : YReg) (s : State) : Out :=
  .next (s.xWord [ys1] [] fun s =>
    if s.t.envFull then s.hold
    else
      let a := s.t.popY ys1
      if envAddrBad a.1 4112 then s.trap (cAddress a.1)
      else if s.t.user && s.t.task.hasSched && Config.schedBase < bitsOf a.1 20 0 + 4112 then s.trap (cStorePerm a.1)
      else s.setT (a.2.envEnter (.est es a.1) (.est es ys1)))

/-- EMAX (R182). -/
def execEmax (ed ea eb : EReg) (s : State) : Out := .next (s.envPush (.emax ed ea eb) (.emax ed ea eb))
/-- EADD (R182). -/
def execEadd (ed ea eb : EReg) (s : State) : Out := .next (s.envPush (.eadd ed ea eb) (.eadd ed ea eb))
/-- EINF (R183). -/
def execEinf (ed ea eb : EReg) (s : State) : Out := .next (s.envPush (.einf ed ea eb) (.einf ed ea eb))
/-- ECONJ (R184). -/
def execEconj (ed ea : EReg) (s : State) : Out := .next (s.envPush (.econj ed ea) (.econj ed ea))

/-- EEVAL (R185). -/
def execEeval (yd : YReg) (es : EReg) (ys2 : YReg) (s : State) : Out :=
  .next (s.xWordLate [ys2] [yd] fun s =>
    if s.t.envFull then s.hold
    else
      let a := s.t.popY ys2
      s.setT (a.2.envEnter (.eeval yd es a.1) (.eeval yd es ys2)))

/-- ECNT (R185, R301). -/
def execEcnt (yd : YReg) (es : EReg) (s : State) : Out :=
  .next (s.xWordLate [] [yd] fun s => if s.t.envFull then s.hold else s.setT (s.t.envEnter (.ecnt yd es) (.ecnt yd es)))

/-! ## Completion (R178 step 7, R188) -/

/-- Writes an envelope register as one unit, its old contents logged (R178, R191). -/
def Tile.envPut (t : Tile) (ed : EReg) (e : Env) : Tile :=
  let u := t.logEnv ed.toNat
  { u with env := u.env.set ed.toNat e ed.isLt }

/-- ESTAT (R53, R188). -/
def Tile.estat (t : Tile) (kind need : Nat) : Tile :=
  { t with ur := { t.ur with estat := BitVec.ofNat 64 (need % 1024 + kind * 1024) } }

/-- The words of an ELD image. -/
def Tile.imageWords (t : Tile) (c : EnvCmd) (addr : Word) (count : Nat) : List Word :=
  match selfParts addr with
  | some (off, _, span, _) => (List.range (2 + 2 * count)).map fun k => BitVec.ofNat 64 (t.spadNat span c.bhkey (off + 8 * k) 8)
  | none => []

/-- A register result of a command, and its destination; none for the forms without one. -/
def Tile.envResult (t : Tile) (c : EnvCmd) : Option (EReg × EnvRes) :=
  let lim := c.elimit.toNat
  match c.op with
  | .eins ed m k => some (ed, envIns (t.envGet ed) m k c.etol lim)
  | .eld ed addr count => some (ed, envLoad (t.imageWords c addr count) c.etol lim)
  | .emax ed ea eb => some (ed, envPair (t.envGet ea) (t.envGet eb) (fun _ _ => (t.envGet ea).ls ++ (t.envGet eb).ls) c.etol lim)
  | .eadd ed ea eb => some (ed, envPair (t.envGet ea) (t.envGet eb) (addLines (t.envGet ea) (t.envGet eb)) c.etol lim)
  | .einf ed ea eb => some (ed, envInf (t.envGet ea) (t.envGet eb) c.etol lim)
  | .econj ed ea => some (ed, envConj (t.envGet ea) c.etol lim)
  | _ => none

/-- The precise fault of a command in progress: EPC names it (R188, R189). Port entries that the command took at its push stay taken, so that
running it again takes new ones (DESIGN CHOICE, log 82). -/
def Tile.envTrap (t : Tile) (c : EnvCmd) (kind need : Nat) (x : Cause) : Tile :=
  { (t.estat kind need) with fe := { t.fe with loops := c.loops, iseq := c.seq } }.enter c.pc x

/-- An EST with its image written. -/
def Tile.storeEnv (t : Tile) (c : EnvCmd) (es : EReg) (addr : Word) : Tile :=
  match selfParts addr with
  | some (off, _, span, _) => ((t.envGet es).image.zipIdx).foldl (fun t w => t.spadPut span c.bhkey (off + 8 * w.2) 8 w.1.toNat) t
  | none => t

/-- The places that an EST writes (R187). -/
def Tile.storePlaces (t : Tile) (c : EnvCmd) (es : EReg) (addr : Word) : List (Nat × Byte) :=
  match selfParts addr with
  | some (off, _, span, _) => spanPlaces span c.bhkey off (8 * (t.envGet es).image.length)
  | none => []

/-- The command at the head of the FIFO completes or faults. -/
def Tile.envDone (t : Tile) (c : EnvCmd) : Tile :=
  match t.envResult c with
  | some (ed, .ok e) => (t.envPut ed e).estat 0 e.lines.length
  | some (ed, .improper) => (t.envPut ed .bad).estat 3 0
  | some (_, .range) => t.envTrap c 2 0 cEnvRange
  | some (_, .capacity n) => t.envTrap c 1 n (cEnvCapacity n)
  | none =>
    match c.op with
    | .eclr ed => t.envPut ed .empty
    | .est es addr => t.storeEnv c es addr
    | .ecnt yd es => (t.dropY [yd]).putY yd (envCount (t.envGet es))
    | .eeval yd es x =>
      (match envEval (t.envGet es) x with
      | some r => ((t.dropY [yd]).putY yd r.1).flags r.2
      | none => t.envTrap c 2 0 cEnvRange)
    | _ => t

/-- Whether a command would fault as things are (R188). -/
def Tile.envFaults (t : Tile) (c : EnvCmd) : Bool :=
  match t.envResult c with
  | some (_, .range) | some (_, .capacity _) => true
  | some _ => false
  | none => match c.op with
    | .eeval _ es x => (envEval (t.envGet es) x).isNone
    | _ => false

/-- Whether the words before a command are done, so that its fault can be taken: A's have issued, the data of split loads is written (R355). -/
def Tile.envFirst (t : Tile) (c : EnvCmd) : Bool := decide (c.seq < t.nextA) && t.fe.xl.all fun o => decide (c.seq ≤ o.seq)

/-- The command at the head of the FIFO goes on: an EST whose image is in part unwritten completes the next time (R102). -/
def Tile.envStep (t : Tile) (c : EnvCmd) (r : List EnvCmd) (seed : Nat) : Tile :=
  match c.op, c.out with
  | .est .., some bs => { t.spadBytes bs with envq := r }
  | .est es addr, none =>
    let w := Tile.partWritten t (t.storeEnv c es addr) (t.storePlaces c es addr) seed
    if w.2.isEmpty then { w.1 with envq := r } else { w.1 with envq := { c with out := some w.2 } :: r }
  | _, _ => { t with envq := r }.envDone c

/-- ENVELOPE_COMMAND_COMPLETE on tile p, at an enabled slot (R2, R178, R301); a fault is taken once the words before the command are done (R355). A gang switch stops the commands; while a thread
migrates those that are left drain (R191, R419). -/
def execEnvelopeCommandComplete (p : Nat) (s : State) : Out :=
  .next (
    let t := s.tile p
    match t.envq with
    | [] => s
    | c :: r =>
      if t.switched || !s.slotOn p || (t.envFaults c && !t.envFirst c) then s
      else
        let u := t.envStep c r s.steps
        (s.setTile p u).markMore p (match c.op with
          | .eeval yd _ _ | .ecnt yd _ => if u.envq.length < t.envq.length then leBytes 8 (u.yval yd).toNat else []
          | _ => []))

end Sys2Proof.Machine
end

