-- ==== Sys2Proof/Machine/Task.lean ====
section
/-! DEFINITION. Task: NEXT and TDONE, the schedule table and the task checkpoint (R34 to R39, R110, R327, R328). -/

namespace Sys2Proof.Machine

/-- An entry of the schedule table (R36). -/
structure SchedEnt where
  ts : Nat
  cond : Bool
  cneg : Bool
  last : Bool
  rsv : Nat
  pc : Word
  arg : Word
  pred : Word
  deriving DecidableEq, Repr

/-- An entry from its four doublewords (R36). -/
def schedEnt (a b c d : Nat) : SchedEnt :=
  ⟨a % 2 ^ 48, a.testBit 48, a.testBit 49, a.testBit 50, a / 2 ^ 51, BitVec.ofNat 64 b, BitVec.ofNat 64 c, BitVec.ofNat 64 d⟩

/-- Entry i of the table, at its place in the scratchpad (R36). -/
def Tile.entry (t : Tile) (i : Nat) : SchedEnt :=
  let w := fun k => t.spadNat 0 0 (Config.schedBase + 32 * i + 8 * k) 8
  schedEnt (w 0) (w 1) (w 2) (w 3)

/-- Whether an entry is malformed (R37). -/
def SchedEnt.bad (e : SchedEnt) : Bool := e.rsv != 0 || e.pc &&& 3 != 0 || (e.cond && e.pred &&& 7 != 0)

/-- Whether the cursor stands at the end of the table (R37). -/
def Tile.atEnd (t : Tile) : Bool :=
  !t.task.hasSched || t.ur.cursor == 4096 || (t.ur.cursor != 0 && (t.entry (t.ur.cursor - 1)).last)

/-- Whether a copy launched in the open task has a global endpoint and has not completed (R104). -/
def Tile.taskCopies (t : Tile) : Bool :=
  let glob := fun (a : Word) => match region a with
    | some (.global _) => true
    | _ => false
  t.copies.any fun c => c.task == t.openTask && (glob c.regs.csrc || glob c.regs.cdst)

/-- Ends the open task (R38, R328). -/
def Tile.close (t : Tile) : Tile :=
  if t.task.opened then
    let n := t.task.tasks.length - 1
    { t with
      task := { t.task with opened := false, tasks := t.task.tasks.modify n fun k => { k with final := true } }
      ir := { t.ir with tstamp := BitVec.ofNat 64 Config.bgStamp } }
  else t

/-- A NEXT of a serial run that has to wait leaves its open task open, and to be merged meanwhile (R327, R403). -/
def Tile.offer (t : Tile) : Tile :=
  { t with task := { t.task with tasks := t.task.tasks.modify (t.task.tasks.length - 1) fun k => { k with final := true } } }
/-- Whether the open task has been offered so. -/
def Tile.offered (t : Tile) : Bool := t.task.opened && (t.getTask t.openTask).final
/-- An open task that has been offered goes on: it merges again when it ends (R37). -/
def Tile.reopen (t : Tile) : Tile :=
  if t.offered then
    { t with task := { t.task with tasks := t.task.tasks.modify (t.task.tasks.length - 1) fun k => { k with final := false, merged := false, sliced := [] } } }
  else t

/-- TDONE (R38, R328). -/
def execTdone (s : State) : Out :=
  .next (if s.t.task.opened && s.t.taskCopies then s.hold else s.setT s.t.close)

/-- The checkpoint of a NEXT at its place, before its first step, with its mark in the undo region (R110, R395). -/
def Tile.checkpoint (t : Tile) (rd : XReg) : Tile :=
  let c : Ckpt :=
    { pc := t.fe.ipc, rd := rd, regs := t.delivered.regs, ur := t.delivered.ur, tstamp := t.ir.tstamp, mbox := t.ni.mbox, spad := t.spad, acc := t.mx.acc
      modes := t.mx.modes, env := t.env, front := t.mx.front, back := t.mx.back, fills := t.mx.fills, nb := t.mx.nb
      scales := t.mx.scales, bgGsb := t.task.bg.gsb, damos := t.damos, serial := t.ctl.serial }
  let u := t.claim 4096
  { u with
    task := { u.task with cks := u.task.cks ++ [c] }
    undo := { u.undo with lines := [], accRows := [], envs := [], latch := [] } }

/-- What the loop of R37 ends in. -/
inductive NextEnd where
  | table
  | opened (pc arg : Word)
  | trap (c : Cause)
  | wait
  deriving DecidableEq, Repr

/-- Whether task a stands before task b in the order of R34; a task is its timestamp, logical index and position. -/
def taskBefore (a b : Nat × Nat × Nat) : Bool :=
  a.1 < b.1 || (a.1 == b.1 && (a.2.1 < b.2.1 || (a.2.1 == b.2.1 && a.2.2 < b.2.2)))

/-- The scheduled tasks of a tile with their keys. -/
def Tile.keyed (t : Tile) : List ((Nat × Nat × Nat) × Task) := t.task.tasks.map fun k => ((k.ts, t.lidx, k.pos), k)

/-- Whether some earlier task of the gang still runs, or waits in its table (R403). -/
def State.earlierOpen (s : State) (g : Gang) (key : Nat × Nat × Nat) : Bool :=
  g.l2p.any fun e =>
    let u := s.tile e.2
    u.keyed.any (fun k => taskBefore k.1 key && !(k.2.final && k.2.merged)) ||
    (e.1 != key.2.1 && !u.atEnd && taskBefore ((u.entry u.ur.cursor).ts, e.1, u.ur.cursor) key)

/-- Whether entry e must wait for its turn in a serial run (R403). -/
def State.serialHold (s : State) (t : Tile) (ts pos : Nat) : Bool :=
  match s.gangOf t with
  | none => false
  | some g => g.serial != 0 && s.earlierOpen g (ts, t.lidx, pos)

/-- The tracked read of a predicate word: its physical bytes and value, or its trap; the translation buffer (R37, R367). An address outside
global memory, for which R37 names no trap, takes the address-fault trap (DESIGN CHOICE, log 77). -/
def State.predicate (s : State) (t : Tile) (a : Word) : Except Cause (Nat × Word) × List TlbEnt :=
  if Config.globalTop ≤ a.toNat then (.error (cAddress a), t.tlb)
  else match s.translate t a.toNat .read t.user with
    | (.error d, tlb) => (.error (cTranslation a d), tlb)
    | (.ok pa, tlb) =>
      if !s.areaFits t 40 then (.error (cGsbFull a), tlb)
      else (.ok (pa, BitVec.ofNat 64 (leNat ((List.range 8).map fun i => s.committed (s.gangOf t) (pa + i)))), tlb)

/-- An entry becomes a task of the stretch (R37). An aborted task at or before it runs no more: the cursor never turns back in a stretch. -/
def Tile.addTask (t : Tile) (e : SchedEnt) (pos : Nat) (skip : Bool) (read : Option (Nat × Word)) : Tile :=
  let k : Task :=
    { ts := e.ts, pos := pos, bg := false, skipped := skip, final := skip, merged := false
      pred := read.map fun r => (e.pred, r.2), gsb := [], reads := (read.map fun r => r.1 / 64).toList, ck := t.task.cks.length - 1
      sliced := [] }
  { t with task := { t.task with region := true, tasks := t.task.tasks ++ [k], redo := t.task.redo.filter fun r => decide (pos < r.2) } }

/-- The loop of R37 from the cursor, whose predicate reads are requests with a route (R151); the translation buffer keeps what the reads leave even when a trap keeps nothing else. -/
def State.nextLoop (s : State) : Nat → Tile → NextEnd × Tile
  | 0, t => (.table, t)
  | n + 1, t =>
    if t.atEnd then (.table, t)
    else
      let i := t.ur.cursor
      let e := t.entry i
      if e.bad then (.trap (cSched i), t)
      else if s.serialHold t e.ts i then (.wait, t)
      else
        let t := { t with ur := { t.ur with cursor := i + 1 } }
        let go := fun (t : Tile) (read : Option (Nat × Word)) =>
          let t := t.addTask e i false read
          (NextEnd.opened e.pc e.arg, { t with
            task := { t.task with opened := true }
            ir := { t.ir with tstamp := BitVec.ofNat 64 e.ts } })
        if e.cond then
          match s.predicate t e.pred with
          | (.error c, tlb) => (.trap c, { t with tlb := tlb })
          | (.ok r, tlb) =>
            let t := { t.route with tlb := tlb }
            if (r.2 != 0) == e.cneg then s.nextLoop n (t.addTask e i true (some r)) else go t (some r)
        else go t none

/-- The results of a NEXT in rd and rd + 1 (R327). -/
def Tile.deliverNext (t : Tile) (rd : XReg) (pc arg : Word) : Tile := (t.putX rd pc).putX (rd + 1) arg

/-- The steps of a NEXT after its waits, on a tile whose open task has been closed (R37). -/
def State.nextSteps (s : State) (rd : XReg) : State :=
  let t0 := s.t
  let t1 := t0.close
  let t2 := if t1.task.hasSched then t1.checkpoint rd else t1
  let (r, t3) := s.nextLoop 4097 t2
  match r with
  | .trap c => s.setT ({ t0.reopen with tlb := t3.tlb }.trap c)
  | .wait => if t0.task.opened && !t0.offered then s.setT (t0.offer.flow .stall) else s.hold
  | .table => s.setT (t3.deliverNext rd 0 0)
  | .opened pc arg => s.setT (t3.deliverNext rd pc arg)

/-- Whether a NEXT may step: the open task's copies done, the X instructions before it issued, the engine FIFOs empty and
no copy outstanding (R104, R110, R327; the X instructions: log 15). -/
def Tile.nextReady (t : Tile) : Bool :=
  !(t.task.opened && t.taskCopies) && t.drained t.fe.iseq && t.engineSeqs.isEmpty &&
  t.copies.isEmpty

/-- NEXT (R37, R327). -/
def execNext (rd : XReg) (s : State) : Out :=
  .next (s.aWord [] [rd, rd + 1] fun s => if s.t.nextReady then s.nextSteps rd else s.hold)

end Sys2Proof.Machine
end

