-- ==== Sys2Proof/Machine/Time.lean ====
section
/-! DEFINITION. Time: the ticks at which something falls due, and how far ticks may pass at once (R2, R129, R134, R197, R387, R390,
R398, R407, R412, R413, R419, R434). -/

namespace Sys2Proof.Machine

/-! ## A chain round (R196, R197) -/

/-- CHAINPOS.HEAD, TAIL, MEMB, PRED and SUCC (R196). -/
def Tile.chHead (t : Tile) : Bool := t.ir.chainpos.getLsbD 11
def Tile.chTail (t : Tile) : Bool := t.ir.chainpos.getLsbD 12
def Tile.chMemb (t : Tile) : Bool := t.ir.chainpos.getLsbD 13
def Tile.chPred (t : Tile) : Nat := bitsOf t.ir.chainpos 10 0
def Tile.chSucc (t : Tile) : Nat := bitsOf t.ir.chainpos 26 16

/-- The members of the chain that ends at a logical index, tail first. -/
def State.chainFrom (s : State) (g : Gang) : Nat → Nat → List Nat
  | 0, _ => []
  | n + 1, l =>
    match g.phys l with
    | none => []
    | some p => let t := s.tile p; p :: (if t.chHead then [] else s.chainFrom g n t.chPred)

/-- Whether a member waits at SWAIT. -/
def Tile.atSwait (t : Tile) : Bool :=
  match t.ctl.stat with
  | .waiting (.swait _) => true
  | _ => false

/-- The physical tiles of a chain whose round may end, tail first, and the tick of its release (R197). -/
def State.chainRound (s : State) (g : Gang) (tail : Nat) : Option (List Nat × Nat) :=
  match g.phys tail with
  | none => none
  | some q =>
    let u := s.tile q
    if !u.chTail || !u.scan.sclosed || !u.scan.spassDone then none
    else
      let ms := s.chainFrom g 1536 tail
      if !ms.all (fun p => (s.tile p).atSwait) then none
      else
        let t := ms.foldl (fun a p => max a (s.tile p).ctl.since) u.scan.closedAt
        some (ms, t + if ms.all fun p => p / 192 == q / 192 then 8 else 64)

/-- The tails of a gang whose SCLOSE has completed. -/
def State.closedTails (s : State) (g : Gang) : List Nat :=
  (g.l2p.filter fun e => (s.tile e.2).scan.sclosed).map Prod.fst

/-! ## Shared links (R15, R134, R151) -/

/-- A router as a node of a route. -/
def routerNode (d : Nat) (r : Nat × Nat) : Nat := 2048 + 16 * d + 4 * r.1 + r.2
/-- The routers that an X-first route passes on one die, without its first. -/
def gridNodes (d : Nat) (a b : Nat × Nat) : List Nat :=
  (if a.2 = b.2 then [] else [routerNode d (a.1, b.2)]) ++ if a.1 = b.1 then [] else [routerNode d b]
/-- The dies that the way round the ring in a direction passes, without its first: 1 clockwise, 2 counterclockwise, else the shorter way, of
two equal ones the clockwise (R18, R136; log 76). -/
def ringNodes (a b dir : Nat) : List Nat :=
  let cw := (b + 8 - a) % 8
  if dir = 1 ∨ (dir ≠ 2 ∧ cw ≤ 4) then (List.range cw).map fun i => (a + i + 1) % 8
  else (List.range (8 - cw)).map fun i => (a + 7 - i) % 8
/-- The nodes of the route of TIMED traffic between two physical tiles, in a ring direction. -/
def timedNodes (p q dir : Nat) : List Nat :=
  let d := p / 192
  let e := q / 192
  let first := routerNode d (routerOf p)
  if d = e then [p, first] ++ gridNodes d (routerOf p) (routerOf q) ++ [q]
  else [p, first] ++ gridNodes d (routerOf p) (0, 3) ++ (ringNodes d e dir).map (fun k => routerNode k (0, 3)) ++
    gridNodes e (0, 3) (routerOf q) ++ [q]
/-- Its links, each in the direction of the traffic (R18). -/
def timedLinks (p q dir : Nat) : List (Nat × Nat) := (timedNodes p q dir).zip (timedNodes p q dir).tail

/-- The ring direction of an item: a packet has that of its header, every other goes in direction 0 (R151). -/
def Msg.rdir : Msg → Nat
  | .packet m | .retry m => m.rdir
  | _ => 0

/-- A TIMED store or packet (R134, R143). -/
def Msg.isTimed : Msg → Bool
  | .store _ _ _ _ _ timed _ => timed
  | .packet m => m.timed
  | _ => false

/-- The links that a TIMED item on the network uses. -/
def State.itemLinks (s : State) (f : Flight) : List (Nat × Nat) :=
  match s.flightTile f f.src, s.flightTile f f.dst with
  | some p, some q => timedLinks p q f.msg.rdir
  | _, _ => []

/-- Whether other TIMED traffic on a link of its route may delay a TIMED item (R134, R143; log 76). What the same thread has sent does not count as
other traffic: its own items never delay one another (DESIGN CHOICE, log 82); nor does what has arrived before the due tick (DESIGN CHOICE, log 83). -/
def State.crossed (s : State) (f : Flight) : Bool :=
  s.net.any fun h => h.msg.isTimed && !h.parked && (h.g != f.g || h.src != f.src) && (s.itemLinks h).any (s.itemLinks f).contains

/-! ## What falls due -/

/-- A message whose arrival has an exact tick: TIMED stores and packets, carries (R134, R143, R197); a ready report, which is counted at
once (R130). -/
def Msg.onTime : Msg → Bool
  | .store _ _ _ _ _ timed _ => timed
  | .packet m => m.timed
  | .carry .. | .ready _ => true
  | _ => false

/-- The ticks that one gang waits for. -/
def State.gangDues (s : State) (g : Gang) : List Nat :=
  (match g.stat with
    | .placed => [g.t0]
    | .stopping => [g.ts]
    | .stopped => if g.sealed then [] else [g.ts + 4096]
    | .resuming => g.wake.toList
    | .running | .rolling | .ended | .failed => []) ++
  (match g.rolling with
    | some (ts, _) => [ts]
    | none => []) ++
  (if g.top = 5 then [g.t1 + 7200000] else []) ++
  g.fired.map (·.due) ++ (s.closedTails g).filterMap fun l => (s.chainRound g l).map Prod.snd

/-- The ticks that one die waits for: a step of its ramp, a frame boundary for its requests (R412, R413). -/
def Die.dues (d : Die) (tick : Nat) : List Nat :=
  (if d.ramp.isSome then [d.rampAt + 3600] else []) ++ if d.reqs.isEmpty then [] else [(tick / 16 + 1) * 16]

/-- The last ticks of the waits of a tile whose length raises an event that has not been raised: at WAIT, WAITV or SWAIT, at RCV or at a
stream SNDH, and at a rotation step (R45, R133, R163). -/
def Tile.limitTicks (t : Tile) : List Nat :=
  let lim := fun (w : Word) (since : Nat) => if bitsOf w 31 0 = 0 then [] else [since + bitsOf w 31 0]
  (if t.ctl.raised then [] else match t.ctl.stat with
    | .waiting (.barrier ..) | .waiting (.swait _) => lim t.sr.bwlimit t.ctl.since
    | .waiting (.rcv ..) | .waiting (.stream ..) => lim t.sr.rslimit t.ctl.since
    | _ => []) ++
  (match t.mx.run with
    | some r => if r.raised || r.swapped then [] else lim t.sr.bwlimit r.since
    | none => [])

/-- The ticks that one tile waits for: the end of a migration, a touchmark, the event of a long wait (R45, R133, R163, R407, R419). -/
def Tile.dues (t : Tile) : List Nat :=
  t.ctl.moveEnd.toList ++ (if t.pair.leader && t.pair.inbox.isSome then [t.pair.due] else []) ++ t.limitTicks.map (· + 1)

/-- The ticks at which a thread may go on by itself: a result comes, a slice or fetch stands still no longer, its next enabled slot (R2, R22, R223). -/
def State.turnDues (s : State) (p : Nat) (t : Tile) : List Nat :=
  if t.gang.isNone then []
  else t.fe.res.map (·.due) ++ [t.fe.aAt, t.fe.xAt, t.fe.fAt] ++
    if s.slotOn p then [] else [nthSlot ((s.clkpat p).setWidth 16) s.tick 1]

/-- The ticks at which something falls due. -/
def State.dues (s : State) : List Nat :=
  s.tiles.flatMap (fun e => s.turnDues e.1 e.2) ++ s.gangs.flatMap s.gangDues ++ s.dies.toList.flatMap (fun d => d.dues s.tick) ++ s.tiles.flatMap (fun e => e.2.dues) ++
  (s.net.filter fun f => f.msg.onTime && !f.parked).map (·.due) ++ s.svc.frozen.toList

/-- The tick that n ticks reach, not past one at which something falls due. -/
def State.passTo (s : State) (n : Nat) : Nat := (s.dues.filter fun d => s.tick < d).foldl min (s.tick + n)

end Sys2Proof.Machine
end

