-- ==== Sys2Proof/Machine/Interrupt.lean ====
section
/-! DEFINITION. Interrupt: accepting an enabled pending source, ends of IDLE and the landing of delayed loop writes (R258,
R333, R336, R355, R357). -/

namespace Sys2Proof.Machine

/-- Envelope commands that hold X until they complete (R189). -/
def EnvOp.holdsX : EnvOp → Bool
  | .eclr _ | .est .. | .ecnt .. => false
  | _ => true

/-- The envelope command that holds X, when one is in progress (R189). -/
def Tile.holding (t : Tile) : Option EnvCmd := t.envq.find? fun c => c.op.holdsX

/-- The port values that the word of an envelope command popped. -/
def EnvCmd.portVals (c : EnvCmd) : List Word :=
  let port := fun (r : YReg) (v : Word) => if r = 14 ∨ r = 15 then [v] else []
  match c.op, c.word with
  | .eins _ m k, .eins _ a b => port a m ++ port b k
  | .eld _ addr n, .eld _ a b => port a addr ++ port b (BitVec.ofNat 64 n)
  | .est _ addr, .est _ a => port a addr
  | .eeval _ _ x, .eeval _ _ a => port a x
  | _, _ => []

/-- Discards a command in progress: its word executes again from its beginning, and the ports it popped stay popped (R191, R336). -/
def Tile.discard (t : Tile) (c : EnvCmd) : Tile :=
  { t with
    envq := t.envq.filter fun d => d.seq != c.seq
    fe := { t.fe with
      xq := ⟨c.seq, c.pc, c.loops, .word c.word⟩ :: t.fe.xq
      kept := if c.portVals.isEmpty then t.fe.kept else ⟨c.pc, t.mode, c.portVals⟩ :: t.fe.kept } }
/-- Discards the command in progress that holds X (R191). -/
def Tile.discardEnv (t : Tile) : Tile :=
  match t.holding with
  | none => t
  | some c => t.discard c

/-- Whether no word behind an envelope command has issued: A stands at the words that fetch has read behind it. -/
def Tile.lastOut (t : Tile) (c : EnvCmd) : Bool :=
  let later := t.fe.xq.filter fun x => c.seq < x.seq && x.seq < t.nextA && (match x.work with
    | .word _ | .split => true
    | .part _ | .push .. => false)
  t.nextA == c.seq + 1 + later.length && t.fe.ahead.all fun a => decide (a.seq ≤ c.seq)

/-- The command in progress that an interrupt discards: the head of the FIFO when it holds X, or when no word behind it has issued and it is alone
(R189, R191, R355; log 9). -/
def Tile.discards (t : Tile) : Option EnvCmd :=
  match t.envq with
  | [] => none
  | c :: r => if c.op.holdsX || (r.isEmpty && t.lastOut c) then some c else none

/-- Takes source n (R355). EPC names the envelope command in progress, which is discarded (R191), or else the next A word. What X words behind that
have done is undone, as at a trap (R22, R336, log 10). -/
def State.interrupt (s : State) (n : Nat) : State :=
  let t := s.t.reopen
  match t.discards with
  | some c =>
    let u := t.discard c
    s.setT (({ u with fe := { u.fe with loops := c.loops, iseq := c.seq } }).takeIrq n c.pc)
  | none =>
    match t.fe.aq with
    | x :: _ => s.setT (({ t with fe := { t.fe with loops := x.loops, iseq := x.seq } }).takeIrq n x.pc)
    | [] => s.setT (({ t with fe := { t.fe with loops := t.regs.loop, iseq := t.fe.seq } }).takeIrq n t.fe.pc)

/-- Whether an interrupt ends a wait with the instruction to execute again (R336). -/
def Wait.interruptible : Wait → Bool
  | .rcv .. | .wmsg | .fwait .. | .stream .. => true
  | .barrier .. | .swait _ | .idle | .inval .. => false

/-- Whether A has still to push the result of a word that has issued (R24). -/
def Tile.owing (t : Tile) : Bool := t.fe.aq.any fun x => match x.work with
  | .push .. => true
  | .word _ | .part _ | .split => false

/-- Whether the instructions before N are done. An envelope command in progress is discarded when no word behind it has issued, unless it is about to
fault: the earlier precise trap wins, and the source stays pending (R191, R354, R355). -/
def Tile.irqReady (t : Tile) : Bool :=
  match t.discards with
  | some c => t.lastOut c && !t.envFaults c && t.fe.xl.all fun o => decide (c.seq ≤ o.seq)
  | none => t.holding.isNone && t.drained t.nextA && !t.owing

/-- Takes an enabled pending source, once the instructions before N are done (R355, log 10). -/
def State.irqTurn (s : State) : Option State :=
  let t := s.t
  match t.takeable s.tick with
  | none => none
  | some n =>
    let ok := match t.ctl.stat with
      | .running => true
      | .waiting w => w.interruptible
      | _ => false
    if ok && t.irqReady then some ((s.setT { t with ctl := { t.ctl with stat := .running } }).interrupt n)
    else none

/-- INTERRUPT_TAKE on tile p, at an enabled slot (R2, R355). -/
def execInterruptTake (p : Nat) (s : State) : Out :=
  .next (if s.slotOn p then (({ s with cur := p } : State).irqTurn).getD s else s)

/-- DELAYED_LOOP_WRITE_LAND: the writes of tile p that are due land (R258). -/
def execDelayedLoopWriteLand (p : Nat) (s : State) : Out :=
  .next (s.atTile p fun t => { t with regs := { t.regs with loop := t.regs.loop.landDue } })

/-- TICK_COMPARE: ticks pass towards the compare value of tile p, where its TICK bit is set, but not past a tick at which something
falls due (R357). -/
def execTickCompare (p : Nat) (s : State) : Out := .next { s with tick := s.passTo ((s.tile p).sr.tickcmp.toNat - s.tick) }

/-- IDLE_WAKE, at an enabled slot: the thread of tile p runs on after IDLE once a source is pending, enabled or not (R2, R333). -/
def execIdleWake (p : Nat) (s : State) : Out :=
  .next (
    let t := s.tile p
    if s.slotOn p = true ∧ t.ctl.stat = .waiting .idle ∧ (t.pending s.tick).toNat % 2 ^ 14 ≠ 0 then s.setTile p t.resume else s)

/-- WMSG_WAKE, at an enabled slot: the mailbox holds an entry (R2, R321). -/
def execWmsgWake (p : Nat) (s : State) : Out :=
  .next (
    let t := s.tile p
    if s.slotOn p = true ∧ t.ctl.stat = .waiting .wmsg ∧ t.ni.mbox ≠ [] then s.setTile p t.resume else s)

end Sys2Proof.Machine
end

