-- ==== Sys2Proof/Machine/SpecialReg.lean ====
section
/-! DEFINITION. SpecialReg: MFS and MTS over every special register, and the register writes with a behaviour of their own
(R51 to R55, R142, R330, R357, R359, R361, R362). -/

namespace Sys2Proof.Machine

/-! ## Writes with a behaviour of their own -/

/-- Discards every packet of queue n of tile p, the delivered one included; slots of a stream queue return (R55, R142). -/
def State.rqEmpty (s : State) (p n : Nat) : State :=
  let t := s.tile p
  let q := t.rq n
  let s := s.setTile p (t.setRq n { q with wr := 0, ents := [], delivered := none })
  if q.stream then (q.delivered.toList ++ q.ents).foldl (fun s e => s.send t e.src (.slotBack n none)) s else s

/-- LOG2 of a queue is 0 or 10 to 19 (R53). -/
def rqLogBad (k : Nat) : Bool := k != 0 && (k < 10 || 19 < k)
/-- In U mode with a schedule table, an enabled queue may not overlap the schedule-table region (R36, R53). -/
def Tile.rqOverlap (t : Tile) (base log : Nat) : Bool :=
  t.user && t.task.hasSched && log != 0 && Config.schedBase < base - base % 2 ^ log + 2 ^ log
/-- Whether a value of RQBASEn or RQSIZEn is out of range (R36, R53). -/
def Tile.rqWriteBad (t : Tile) (n : QNum) (size : Bool) (v : Word) : Bool :=
  if size then rqLogBad (bitsOf v 4 0) || t.rqOverlap (t.ur.rqbase.toList.getD n.toNat 0).toNat (bitsOf v 4 0)
  else t.rqOverlap (bitsOf v 20 0) (t.rqLog n.toNat)

/-- RQBASEn or RQSIZEn of tile p takes a value; the queue empties (R53, R55). -/
def State.rqRegion (s : State) (p : Nat) (n : QNum) (size : Bool) (val : Word) : State :=
  (s.rqEmpty p n.toNat).onTile p fun t => { t with ur :=
      if size then { t.ur with rqsize := t.ur.rqsize.set n.toNat (val &&& 0x1F) n.isLt }
      else { t.ur with rqbase := t.ur.rqbase.set n.toNat (val &&& 0x1F_FFFF) n.isLt } }
/-- RQ_REGION_WRITE; a value out of range leaves the register as it is (R36, R53, R55). -/
def execRqRegionWrite (p : Nat) (n : QNum) (size : Bool) (val : Word) (s : State) : Out :=
  .next (if p < Config.tiles ∧ !(s.tile p).rqWriteBad n size val then s.rqRegion p n size val else s)

/-- A new compare value (R361). -/
def Tile.setTickcmp (t : Tile) (val : Word) : Tile := { t with sr := { t.sr with tickcmp := val } }
/-- TICKCMP_WRITE (R361). -/
def execTickcmpWrite (p : Nat) (val : Word) (s : State) : Out := .next (s.atTile p fun t => t.setTickcmp val)

/-- Ones clear the latched bits of INTPEND (R357). -/
def Tile.clearPend (t : Tile) (bits : Word) : Tile :=
  let m := bits &&& 0x1_3EC0
  { t with sr := { t.sr with
    intpend := t.sr.intpend &&& ~~~m
    srcs := t.sr.srcs.filter fun e => !m.getLsbD e.1 } }
/-- INTPEND_CLEAR (R357). -/
def execIntpendClear (p : Nat) (bits : Word) (s : State) : Out := .next (s.atTile p fun t => t.clearPend bits)

/-- Ones clear MERR and MORE; OPND, ROW and COL keep what they hold, as R53 names no value of theirs once MERR is cleared (DESIGN CHOICE, log 83). -/
def Tile.clearMerr (t : Tile) (bits : Word) : Tile := { t with ir := { t.ir with merrlog := t.ir.merrlog &&& ~~~(bits &&& 3) } }
/-- MERRLOG_CLEAR (R53). -/
def execMerrlogClear (p : Nat) (bits : Word) (s : State) : Out := .next (s.atTile p fun t => t.clearMerr bits)

/-- QUEUE_REARM: SPILLED bit n is cleared (R359). -/
def execQueueRearm (p : Nat) (n : QNum) (s : State) : Out :=
  .next (s.atTile p fun t => { t with sr := { t.sr with ovfstat := setField t.sr.ovfstat n.toNat n.toNat 0 } })
/-- MAILBOX_REARM: MBOX is cleared (R359). -/
def execMailboxRearm (p : Nat) (s : State) : Out :=
  .next (s.atTile p fun t => { t with sr := { t.sr with ovfstat := setField t.sr.ovfstat 4 4 0 } })
/-- OVERFLOW_AREA_RESTART: OFF becomes 0 (R359). -/
def execOverflowAreaRestart (p : Nat) (s : State) : Out :=
  .next (s.atTile p fun t => { t with sr := { t.sr with ovfstat := setField t.sr.ovfstat 56 32 0 } })
/-- LOST_CLEAR: the count of discarded packets becomes 0 (R6, R361). -/
def execLostClear (p : Nat) (s : State) : Out :=
  .next (s.atTile p fun t => { t with sr := { t.sr with ovfstat := setField t.sr.ovfstat 31 16 0 } })

/-- The checks of CAPREQ (R362). -/
def State.capBad (s : State) (t : Tile) (v : Word) : Bool :=
  v.toNat / 2 ^ 21 != 0 || !s.hasIndex t (bitsOf v 10 0) || bitsOf v 16 14 < bitsOf v 13 11

/-- Minting begins (R362). -/
def Tile.startMint (t : Tile) (val : Word) : Tile := { t with sr := { t.sr with minting := some val } }
/-- CAPREQ_WRITE (R362). -/
def execCapreqWrite (p : Nat) (val : Word) (s : State) : Out :=
  .next (if s.capBad (s.tile p) val then s else s.atTile p fun t => t.startMint val)

/-- The draw that a partition's keys are (R439). -/
def State.keyOf (s : State) (part : Nat) : Nat := ((s.part? part).map (·.key)).getD 0

/-- The capability with its MAC under a partition's key (R171). -/
def mint (key : Nat) (v : Word) : Word :=
  let mac := sipHash (Config.capKey key) (leBytes 8 (v.toNat % 2 ^ 24))
  BitVec.ofNat 64 (v.toNat % 2 ^ 24 + mac.toNat % 2 ^ 40 * 2 ^ 24)

/-- CAPABILITY_MINTED (R362). -/
def execCapabilityMinted (p : Nat) (s : State) : Out :=
  .next (
    let t := s.tile p
    match t.sr.minting, s.gangOf t with
    | some v, some g => s.setTile p { t with sr := { t.sr with minting := none, capval := mint (s.keyOf g.part) v } }
    | _, _ => s)

/-! ## The registers -/

/-- Where a register is read (R52): by A, by X, by both. -/
inductive SprSlice where
  | a | x | both
  deriving DecidableEq, Repr

/-- The registers of R52 and R361. -/
inductive Spr where
  | tick | tileid | domain | tstamp | fflags | pstride | permit
  | rqbase (n : QNum) | rqsize (n : QNum)
  | loop (l : Level) (f : LoopField) | j (r : JReg)
  | estat | etol | elimit | merrlog | mring | scancfg | chainpos | netstat | relstat | clkpat | wearacc
  | status | cause | epc | tval | tvec | ssave (n : BitVec 2) | inten | intpend | tickcmp
  | bwlimit | rslimit | dltimeout | bhkey | lfsrseed | ovfbase | ovfsize | ovfstat | capreq | capval
  deriving DecidableEq, Repr

/-- The register a number names (R52, R361). -/
def sprOf (n : Nat) : Option Spr :=
  match n with
  | 0x001 => some .tick
  | 0x002 => some .tileid
  | 0x003 => some .domain
  | 0x004 => some .tstamp
  | 0x008 => some .fflags
  | 0x010 => some .pstride
  | 0x011 => some .permit
  | 0x020 => some (.loop .zero .lc)
  | 0x021 => some (.loop .zero .ls)
  | 0x022 => some (.loop .zero .le)
  | 0x023 => some (.loop .one .lc)
  | 0x024 => some (.loop .one .ls)
  | 0x025 => some (.loop .one .le)
  | 0x030 => some .estat
  | 0x031 => some .etol
  | 0x032 => some .elimit
  | 0x038 => some .merrlog
  | 0x039 => some .mring
  | 0x040 => some .scancfg
  | 0x041 => some .chainpos
  | 0x048 => some .netstat
  | 0x049 => some .relstat
  | 0x04A => some .clkpat
  | 0x04B => some .wearacc
  | 0x100 => some .status
  | 0x101 => some .cause
  | 0x102 => some .epc
  | 0x103 => some .tval
  | 0x104 => some .tvec
  | 0x110 => some .inten
  | 0x111 => some .intpend
  | 0x112 => some .tickcmp
  | 0x118 => some .bwlimit
  | 0x119 => some .rslimit
  | 0x11A => some .dltimeout
  | 0x120 => some .bhkey
  | 0x121 => some .lfsrseed
  | 0x128 => some .ovfbase
  | 0x129 => some .ovfsize
  | 0x12A => some .ovfstat
  | 0x130 => some .capreq
  | 0x131 => some .capval
  | n =>
    if 0x018 ≤ n ∧ n < 0x01C then some (.rqbase (BitVec.ofNat 2 (n - 0x018)))
    else if 0x01C ≤ n ∧ n < 0x020 then some (.rqsize (BitVec.ofNat 2 (n - 0x01C)))
    else if 0x028 ≤ n ∧ n < 0x02C then some (.j (BitVec.ofNat 2 (n - 0x028)))
    else if 0x108 ≤ n ∧ n < 0x10C then some (.ssave (BitVec.ofNat 2 (n - 0x108)))
    else none

/-- The Slice column of R52; the S range is in the A slice (R361). -/
def Spr.slice : Spr → SprSlice
  | .tick | .tileid | .domain | .tstamp | .clkpat | .wearacc => .both
  | .fflags | .estat | .etol | .elimit | .merrlog | .mring | .scancfg | .chainpos => .x
  | _ => .a

/-- Whether an MTS is refused because the register is RO in the mode (R51, R52, R361). -/
def Spr.ro (r : Spr) (user : Bool) : Bool :=
  match r with
  | .tick | .tileid | .domain | .tstamp | .estat | .mring | .scancfg | .chainpos | .netstat | .relstat | .clkpat | .wearacc => true
  | .dltimeout | .capval => true
  | .permit => user
  | _ => false

/-- What MFS reads (R52, R330, R361); the loop registers as they stand at the word's place, which fetch may have passed (R22). -/
def State.readSpr (s : State) (t : Tile) (r : Spr) : Word :=
  match r with
  | .tick => BitVec.ofNat 64 s.tick
  | .tileid => t.ir.tileid
  | .domain => t.ir.domain
  | .tstamp => t.ir.tstamp
  | .fflags => t.ur.fflags
  | .pstride => t.ur.pstride
  | .permit => t.ir.permit
  | .rqbase n => BitVec.ofNat 64 (t.rqBase n.toNat)
  | .rqsize n => t.ur.rqsize.toList.getD n.toNat 0
  | .loop l f => (match f with
    | .lc => (t.fe.loops.get l).lc
    | .ls => (t.fe.loops.get l).ls
    | .le => (t.fe.loops.get l).le)
  | .j r => t.jval r
  | .estat => t.ur.estat
  | .etol => t.ur.etol
  | .elimit => t.ur.elimit
  | .merrlog => t.ir.merrlog
  | .mring => t.ur.mring
  | .scancfg => t.ur.scancfg
  | .chainpos => t.ir.chainpos
  | .netstat => t.ir.netstat
  | .relstat => t.ir.relstat
  | .clkpat => s.clkpat s.cur
  | .wearacc => t.ir.wearacc
  | .status => t.sr.status
  | .cause => t.sr.cause
  | .epc => t.sr.epc
  | .tval => t.sr.tval
  | .tvec => t.sr.tvec
  | .ssave n => t.sr.ssave.toList.getD n.toNat 0
  | .inten => t.sr.inten
  | .intpend => t.pending s.tick
  | .tickcmp => t.sr.tickcmp
  | .bwlimit => t.sr.bwlimit
  | .rslimit => t.sr.rslimit
  | .dltimeout => ((s.dies.toList.getD (s.cur / 192) .reset).dltimeout).setWidth 64
  | .bhkey => t.sr.bhkey
  | .lfsrseed => t.sr.lfsrseed
  | .ovfbase => t.sr.ovfbase
  | .ovfsize => t.sr.ovfsize
  | .ovfstat => t.sr.ovfstat
  | .capreq => 0
  | .capval => t.sr.capval

/-- Whether an MTS value is out of range (R53, R93, R361, R362). -/
def State.mtsBad (s : State) (t : Tile) (r : Spr) (v : Word) : Bool :=
  match r with
  | .etol => v.getLsbD 63
  | .elimit => v == 0 || 256 < v.toNat
  | .rqsize n => t.rqWriteBad n true v
  | .rqbase n => t.rqWriteBad n false v
  | .permit => (List.range 4).any fun k => 4 < bitsOf v (3 * k + 2) (3 * k)
  | .status => 1 < bitsOf v 3 2
  | .lfsrseed => s.det t
  | .ovfsize => bitsOf v 4 0 != 0 && (bitsOf v 4 0 < 12 || 24 < bitsOf v 4 0)
  | .capreq => s.capBad t v
  | _ => false

/-- OVFSTAT after a write: SPILLED and MBOX by ones, LOST by all ones, OFF a multiple of 32 (R359, R361). -/
def ovfWrite (old v : Word) : Word :=
  let spill := bitsOf old 4 0 &&& (31 - bitsOf v 4 0)
  let lost := if bitsOf v 31 16 = 0xFFFF then 0 else bitsOf old 31 16
  BitVec.ofNat 64 (spill + lost * 2 ^ 16 + bitsOf v 56 37 * 2 ^ 37)

/-- What MTS writes to a register of the tile's own (R52, R361). -/
def Tile.writeSpr (t : Tile) (r : Spr) (v : Word) : Tile :=
  match r with
  | .fflags => { t with ur := { t.ur with fflags := v &&& 0x3F } }
  | .pstride => { t with ur := { t.ur with pstride := v &&& 0x1F_FFF0 } }
  | .permit => { t with ir := { t.ir with permit := v &&& 0xFFF } }
  | .loop l f =>
    let v := match f with
      | .lc => v
      | .ls => v &&& ~~~3#64
      | .le => v &&& ~~~3#64
    { t with regs := { t.regs with loop := t.regs.loop.writeAt t.fe.loops t.fe.ipc l f v } }
  | .j r => t.putJ r v
  | .etol => { t with ur := { t.ur with etol := v } }
  | .elimit => { t with ur := { t.ur with elimit := v } }
  | .status => { t with sr := { t.sr with status := (t.sr.status &&& 3) ||| (v &&& 0x3C) } }
  | .cause => { t with sr := { t.sr with cause := v &&& 0xFFFF_FFFF_01FF } }
  | .epc => { t with sr := { t.sr with epc := v &&& ~~~3#64 } }
  | .tval => { t with sr := { t.sr with tval := v } }
  | .tvec => { t with sr := { t.sr with tvec := v &&& ~~~3#64 } }
  | .ssave n => { t with sr := { t.sr with ssave := t.sr.ssave.set n.toNat v n.isLt } }
  | .inten => { t with sr := { t.sr with inten := v &&& 0x1_3FFF } }
  | .bwlimit => { t with sr := { t.sr with bwlimit := v &&& 0xFFFF_FFFF } }
  | .rslimit => { t with sr := { t.sr with rslimit := v &&& 0xFFFF_FFFF } }
  | .bhkey => { t with sr := { t.sr with bhkey := v &&& 0xFFFF_FFFF } }
  | .lfsrseed =>
    let seed := v &&& 0xFFFF
    { t with sr := { t.sr with lfsrseed := seed, lfsr := if seed = 0 then 0xACE1 else seed.setWidth 16 } }
  | .ovfbase => { t with sr := { t.sr with ovfbase := v &&& ~~~63#64 } }
  | .ovfsize => { t with sr := { t.sr with ovfsize := v &&& 0x1F } }
  | .ovfstat => { t with sr := { t.sr with ovfstat := ovfWrite t.sr.ovfstat v } }
  | _ => t

/-- What MTS writes (R330). -/
def State.writeSpr (s : State) (r : Spr) (v : Word) : State :=
  match r with
  | .rqbase n => s.rqRegion s.cur n false v
  | .rqsize n => s.rqRegion s.cur n true v
  | .tickcmp => s.setT (s.t.setTickcmp v)
  | .intpend => s.setT (s.t.clearPend v)
  | .merrlog => s.setT (s.t.clearMerr v)
  | .capreq => if s.capBad s.t v then s else s.setT (s.t.startMint v)
  | r => s.setT (s.t.writeSpr r v)

/-! ## MFS and MTS (R329, R330) -/

/-- The class of the register field matches the Slice column. -/
def sliceOk (sl : SprSlice) (isX : Bool) : Bool :=
  match sl with
  | .both => true
  | .a => !isX
  | .x => isX

/-- Steps 1 to 3 of R330: the register, or the trap. A number of the V range is above U and S (log 11). -/
def Tile.sprCheck (t : Tile) (n : Nat) (isX : Bool) : Except Cause Spr :=
  match sprOf n with
  | none => if 0xF00 ≤ n && t.mode < 2 then .error (cPrivReg n) else .error (cIllegal 0)
  | some r =>
    if 0x100 ≤ n && t.user then .error (cPrivReg n)
    else if sliceOk r.slice isX then .ok r else .error (cIllegal 0)

/-- MFS: reads a special register; CAPVAL waits for its MAC (R330, R362). -/
def execMfs (rd : Scalar) (spr : BitVec 12) (s : State) : Out :=
  .next (
    let go := fun (isX : Bool) (put : Tile → Word → Tile) (s : State) =>
      match s.t.sprCheck spr.toNat isX with
      | .error c => s.trap c
      | .ok r => if r == .capval && s.t.sr.minting.isSome then s.hold else s.setT (put s.t (s.readSpr s.t r))
    match rd with
    | .x r => s.aWord [] [r] (go false fun t v => t.putX r v)
    | .y r => s.xWord [] [r] (go true fun t v => t.putY r v))

/-- MTS: writes a special register (R330). -/
def execMts (spr : BitVec 12) (rs1 : Scalar) (s : State) : Out :=
  .next (
    let go := fun (isX : Bool) (pop : Tile → Word × Tile) (s : State) =>
      match s.t.sprCheck spr.toNat isX with
      | .error c => s.trap c
      | .ok r =>
        let a := pop s.t
        if r.ro s.t.user || s.mtsBad s.t r a.1 then s.trap (cIllegal 0) else (s.setT a.2).writeSpr r a.1
    match rs1 with
    | .x r => s.aWord [r] [] (go false fun t => t.popX r)
    | .y r => s.xWord [r] [] (go true fun t => t.popY r))

end Sys2Proof.Machine
end

