-- ==== Sys2Proof/Machine/System.lean ====
section
/-! DEFINITION. System: environment calls, returns, breakpoints, IDLE, HALT with the end of a gang, and FRAMEINV
(R331 to R335, R351, R373, R394). -/

namespace Sys2Proof.Machine

/-- The monitor serves a call from S and returns to S at EPC + 4 (R351); no loop level is disarmed and no end test is made. -/
def Tile.served (t : Tile) : Tile :=
  { t with regs := { t.regs with loop := t.regs.loop.landAll }, fe := { t.fe with pc := t.fe.ipc + 4, flow := .jump } }

/-- A call into V waits for the X instructions before it (R355). -/
def State.monitor (s : State) (f : State → State) : State := if s.t.drained s.t.fe.iseq then f s else s.hold

/-- ECALL (R331, R351). -/
def execEcall (s : State) : Out :=
  .next (match s.t.mode with
    | 0 => s.trap (cEcall 0)
    | 1 => s.monitor fun s => s.setT ((s.t.served.supersede [10]).putX 10 ones64)
    | _ => s.trap (cIllegal 0))

/-- BRK (R331, R351, R360). -/
def execBrk (s : State) : Out :=
  .next (match s.t.mode with
    | 0 => s.trap cBreak
    | 1 => s.monitor fun s => (s.setT s.t.served).threadEvent s.t 7 0
    | _ => s.trap (cIllegal 0))

/-- ERET (R329, R332, R353). -/
def execEret (s : State) : Out := .next (if s.t.user then s.trap (cPrivInstr 0x0000_301A) else s.setT s.t.eret)

/-- IDLE (R333). -/
def execIdle (s : State) : Out := .next (if (s.t.pending s.tick).toNat % 2 ^ 14 ≠ 0 then s else s.wait .idle)

/-- Whether everything HALT waits for is done; the X instructions before it have issued (R334, log 15). -/
def Tile.haltReady (t : Tile) : Bool :=
  t.ni.journal.isEmpty && t.loads.all (fun l => l.kind != .remote) && t.copies.isEmpty && t.engineSeqs.isEmpty &&
  t.drained t.fe.iseq

/-- Zeros in all of a tile's state but its assay record (R440). -/
def Tile.scrub (t : Tile) : Tile := { Tile.reset with assay := t.assay }

/-- Whether a physical tile lies in a partition. -/
def Partition.owns (q : Partition) (p : Nat) : Bool := q.groups.contains (p / 16)

/-- A tile of a partition that no longer holds a thread or a follower: idle, or scrubbed when it joined only for it (R378, R440). -/
def State.leave (s : State) (part p : Nat) : State :=
  let inside := match s.part? part with
    | some q => q.owns p
    | none => false
  s.onTile p fun t =>
    if inside then { t with gang := none, ctl := { t.ctl with stat := .idle, moveTo := none, moveEnd := none }, tlb := [], pair := .reset }
    else t.scrub

/-- The tile of a thread that ends, and its follower's. -/
def State.vacate (s : State) (part p : Nat) : State :=
  let s := match (s.tile p).pair.partner with
    | some f => s.leave part f
    | none => s
  s.leave part p

/-- A reply to a request: its header with OP + 0x80 (R432). -/
def replyTo (rq : Request) (status : Nat) (reason : Nat := 0) (body : List Word := []) : Reply :=
  { toHeader := { rq.toHeader with op := rq.op + 0x80 }, status := status, reason := reason, body := body }

def State.addReply (s : State) (r : Reply) : State := { s with svc := { s.svc with replies := s.svc.replies ++ [r] } }
def State.session? (s : State) (id : Word) : Option Session := s.svc.sessions.find? fun c => c.id == id
/-- A request is processed: its SEQ is the session's last (R430). -/
def State.note (s : State) (rq : Request) : State :=
  let upd := fun (c : Session) => if c.id = rq.session then { c with last := some rq.seq, reply := none } else c
  { s with svc := { s.svc with sessions := s.svc.sessions.map upd } }
/-- The reply of a request that the session processed last is stored and sent; one of an earlier request is sent alone (R430). -/
def State.replyLate (s : State) (rq : Request) (r : Reply) : State :=
  let upd := fun (c : Session) => if c.id = rq.session ∧ c.last = some rq.seq then { c with reply := some r } else c
  ({ s with svc := { s.svc with sessions := s.svc.sessions.map upd } }).addReply r
/-- A request is processed: its SEQ is the session's last, and its reply is stored and sent. -/
def State.conclude (s : State) (rq : Request) (r : Reply) : State :=
  let upd := fun (c : Session) => if c.id = rq.session then { c with last := some rq.seq, reply := some r } else c
  ({ s with svc := { s.svc with sessions := s.svc.sessions.map upd } }).addReply r
/-- The PREEMPT requests that wait for the T1 of a gang are answered (R431). -/
def State.answerAsked (s : State) (g : Gang) (status : Nat) (body : List Word) : State :=
  g.asked.foldl (fun s rq => s.replyLate rq (replyTo rq status 0 body)) s

/-- The end of a gang: its windows are freed and its tiles are idle; the service reports it (R394, R399). The AMOs that its threads had issued
before they halted act (R334). A PREEMPT that waits for its T1 is refused (R431). -/
def State.gangEnd (s : State) (gid : Nat) (as : GStat) : State :=
  match s.gang? gid with
  | none => s
  | some g =>
    let s := (s.answerAsked g 4 []).setGang { g with
      stat := as, bmus := [], fired := [], commit := none, staged := [], sealed := false, saved := none, rolling := none, asked := [] }
    let amo := fun (f : Flight) => as == .ended && (match f.msg with
      | .amo .. => true
      | _ => false)
    let s := { s with net := s.net.filter fun f => f.g != gid || amo f }
    let s := if as == .ended then s.notice (.complete gid) else s
    g.l2p.foldl (fun s e => if (s.tile e.2).gang = some gid then s.vacate g.part e.2 else s) s

/-- Whether every member of a gang has halted. -/
def State.allHalted (s : State) (g : Gang) : Bool := g.l2p.all fun e => (s.tile e.2).ctl.stat == .halted

/-- Whether the touchmarks of the gang's pairs, but for that of a HALT on tile p, have agreed to the end (R407). -/
def State.haltAgreed (s : State) (g : Gang) (p : Nat) : Bool :=
  g.l2p.all fun e => if e.2 = p then (s.tile p).pair.partner.isNone else (s.tile e.2).agreed

/-- HALT (R334, R394). With a pair, the gang ends once its touchmarks have agreed (R407). -/
def execHalt (s : State) : Out :=
  .next (
    let t := s.t
    if 1 < t.mode then s.trap (cIllegal 0)
    else if !t.ctl.passedTerm then s.trap cNoTerm
    else if t.task.opened then s.trap cTaskOpen
    else if t.opened.isSome then s.trap cPktSeq
    else if !t.haltReady then s.hold
    else
      let s := s.setT ({ t with ctl := { t.ctl with stat := .halted } }.flow .wait)
      match s.gangOf t with
      | none => s
      | some g => if s.allHalted g && s.haltAgreed g s.cur then s.gangEnd g.id .ended else s)

/-- The tiles that run a gang of a partition. -/
def State.partTiles (s : State) (part : Nat) : List Nat :=
  (s.gangs.filter fun g => g.part == part).flatMap fun g =>
    (g.l2p.filter fun e => (s.tile e.2).gang == some g.id).map (·.2)

/-- The walkers drop the table entries of a partition (R371). -/
def State.dropTables (s : State) (part : Nat) : State :=
  { s with dies := s.dies.map fun d => { d with wcache := d.wcache.filter fun w => match w with
    | .table p .. => p != part
    | .grant .. => true } }

/-- Whether every global access that a tile issued has performed, so that it may acknowledge (R335). -/
def Tile.quiet (t : Tile) : Bool :=
  (t.loads.all fun l => l.kind == .remote) &&
  ((none :: (List.range t.task.tasks.length).map some).all fun k => (t.claimed k).isEmpty) &&
  t.copies.all fun c => c.state != .moving

/-- The threads of a saved gang with accesses that have not performed: the tiles that they issued them from (R373). -/
def Gang.savedBusy (g : Gang) : List Nat :=
  match g.saved with
  | some c => if g.sealed then g.l2p.filterMap fun e => match smFind e.1 c.tiles with
      | some t => if t.quiet then none else some e.2
      | none => none
    else []
  | none => []

/-- The tiles whose threads have ended with AMOs under way, which act all the same (R334). -/
def State.endedBusy (s : State) (g : Gang) : List Nat :=
  if g.stat != .ended then [] else s.net.filterMap fun f => match f.msg with
    | .amo .. => if f.g = g.id then g.phys f.src else none
    | _ => none

/-- The tiles that acknowledge an invalidation: those that run a gang of the partition, and those from which a saved or an ended thread has issued what has
not performed (R373). -/
def State.ackTiles (s : State) (part : Nat) : List Nat :=
  (s.partTiles part ++ (s.gangs.filter fun g => g.part == part).flatMap fun g => g.savedBusy ++ s.endedBusy g).eraseDups

/-- Whether what was issued from a tile has performed: by its thread, by one that a switch has saved, and by one that has ended (R335, R373). -/
def State.quietAt (s : State) (p : Nat) : Bool := (s.tile p).quiet && !s.gangs.any fun g => g.savedBusy.contains p || (s.endedBusy g).contains p

/-- A thread takes what it has issued from one tile to another: an invalidation that waits for the one waits for the other too, also one that a switch or a
migration has stopped (R373). -/
def State.ackMoves (s : State) (p q : Nat) : State :=
  let add := fun (t : Tile) =>
    let more := fun (left : List Nat) => if left.contains p && !left.contains q then left ++ [q] else left
    let put := fun (st : Stat) => { t with ctl := { t.ctl with stat := st } }
    match t.ctl.stat with
    | .waiting (.inval va left) => put (.waiting (.inval va (more left)))
    | .stopped (some (.inval va left)) => put (.stopped (some (.inval va (more left))))
    | .moving (some (.inval va left)) => put (.moving (some (.inval va (more left))))
    | _ => t
  { s with tiles := s.tiles.map fun e => (e.1, add e.2) }

/-- FRAMEINV: waits until every tile of the partition has acknowledged (R335, R373). -/
def execFrameinv (rs1 : XReg) (s : State) : Out :=
  .next (
    if s.t.user then s.trap (cPrivInstr (BitVec.ofNat 64 (0x701A + rs1.toNat * 2 ^ 15)))
    else s.aWord [rs1] [] fun s =>
      let a := s.t.popX rs1
      if Config.globalTop ≤ a.1.toNat then s.trap (cAddress a.1)
      else match s.gangOf s.t with
        | none => s.setT a.2
        | some g => ((s.setT a.2).dropTables g.part).wait (.inval a.1.toNat (s.ackTiles g.part)))

/-- Drops every entry of the 16 MiB page that holds an address, its frame among them (R335). -/
def Tile.dropVa (t : Tile) (va : Nat) : Tile := { t with tlb := t.tlb.filter fun e => e.vf / 256 != va / 2 ^ 24 }

/-- INVALIDATION_ACK: tile p acknowledges every invalidation that waits for it; a FRAMEINV with no tile left runs on (R373). -/
def execInvalidationAck (p : Nat) (s : State) : Out :=
  .next (
    if !s.quietAt p then s
    else s.tiles.foldl (fun s e =>
      match e.2.ctl.stat with
      | .waiting (.inval va left) =>
        if left.contains p then
          let s := s.onTile p fun t => t.dropVa va
          let rest := left.filter (· != p)
          s.onTile e.1 fun t =>
            if rest.isEmpty then t.resume else { t with ctl := { t.ctl with stat := .waiting (.inval va rest) } }
        else s
      | _ => s) s)

end Sys2Proof.Machine
end

