-- ==== Sys2Proof/Machine/EvBarrier.lean ====
section
/-! DEFINITION. EvBarrier: the barrier mask unit's events: fetching cue entries, firing, ready reports, releases, and the
events of long waits (R45, R121 to R133). The gang boundary itself is in EvCommit. -/

namespace Sys2Proof.Machine

/-! ## Cue entries (R30, R123, R124) -/

/-- Members of a domain below the die: 2^k consecutive slots from a multiple of 2^k (R28). -/
def alignedBlock (m : BitVec 192) (n groups : Nat) : Bool :=
  (List.range (16 * groups / n)).any fun i => m.toNat == (2 ^ n - 1) * 2 ^ (n * i)

/-- Whether an entry of logical die d names one whole domain of level 1 or above (R28, R30). -/
def Gang.wholeDomain (g : Gang) (d : Nat) (e : Cue) : Bool :=
  if e.dies = 0 ∨ e.dies.toNat = 2 ^ d then
    e.member == g.slotMask || alignedBlock e.member 4 g.groups || alignedBlock e.member 16 g.groups
  else e.dies.toNat == 2 ^ g.dies.length - 1 && e.member == g.slotMask

/-- The well-formedness of an entry's fields (R124); `w0` is its first doubleword. -/
def Gang.cueOk (g : Gang) (d w0 : Nat) (e : Cue) : Bool :=
  let all := 2 ^ g.dies.length - 1
  w0 % 2 ^ 32 == 0 && w0 / 2 ^ 53 % 8 == 0 && decide (e.vote.toNat ≤ 5) && ((e.vote != 0) == e.v) && e.member != 0 &&
  e.member &&& ~~~g.slotMask == 0 && (e.dies == 0 || e.dies.getLsbD d) && decide (e.dies.toNat ≤ all) &&
  (e.xtag == 0 || e.dies != 0) && (!e.pkg || (e.dies.toNat == all && g.top == 5)) && (!e.s || g.wholeDomain d e)

/-- An entry from its four doublewords. -/
def Gang.cueOf (g : Gang) (d idx k : Nat) (w0 w1 w2 w3 : Nat) : Cue :=
  let e : Cue :=
    { idx := idx, k := k, ok := true, xtag := BitVec.ofNat 8 (w0 / 2 ^ 32), vote := BitVec.ofNat 8 (w0 / 2 ^ 40), s := w0.testBit 48
      v := w0.testBit 49, term := w0.testBit 50, timed := w0.testBit 51, pkg := w0.testBit 52, dies := BitVec.ofNat 8 (w0 / 2 ^ 56)
      member := BitVec.ofNat 192 (w1 + w2 * 2 ^ 64 + w3 * 2 ^ 128), reported := false }
  { e with ok := g.cueOk d w0 e }

/-- An entry that could not be fetched: it stays in its place and never fires. Its members are unknown, so it is armed for no slot, and later entries can
be armed and fire for the slots that it may have named (DESIGN CHOICE, log 82). -/
def Cue.broken (idx : Nat) : Cue := ⟨idx, 0, false, 0, 0, false, false, false, false, false, 0, 0, false⟩

/-- Replaces the unit of a logical die. -/
def Gang.setBmu (g : Gang) (d : Nat) (b : Bmu) : Gang := { g with bmus := g.bmus.set d b }

/-- The cue-format event of entry idx on logical die d (R124, R360). -/
def State.cueEvent (s : State) (gid d idx : Nat) : State := s.event gid 3 0 d (idx % 2 ^ 32)

/-- Whether two matched entries agree (R130). -/
def Cue.agrees (a b : Cue) : Bool :=
  a.dies == b.dies && a.vote == b.vote && a.s == b.s && a.v == b.v && a.term == b.term && a.timed == b.timed && a.pkg == b.pkg
/-- Whether two entries of different dies are matched (R130). -/
def Cue.matches (a b : Cue) : Bool := a.xtag == b.xtag && a.k == b.k && a.dies != 0 && b.dies != 0

/-- An entry that disagrees with a report of its match never fires (R130). -/
def Bmu.checkReports (b : Bmu) : Bmu × List Nat :=
  let bad := fun (e : Cue) => e.ok && b.reports.any fun r => e.matches r.cue && !e.agrees r.cue
  ({ b with win := b.win.map fun e => if bad e then { e with ok := false } else e }, (b.win.filter bad).map (·.idx))

/-- Checks the reports of a die's unit, with its events. -/
def State.checkDie (s : State) (gid d : Nat) : State :=
  match s.gang? gid with
  | none => s
  | some g =>
    match g.bmu d with
    | none => s
    | some b =>
      let r := b.checkReports
      r.2.foldl (fun s i => s.cueEvent gid d i) (s.setGang (g.setBmu d r.1))

/-- CUE_ENTRY_FETCH on logical die d of gang gid: the next entry enters the window, unless the gang's contexts are saved (R121, R122, R124, R133). A malformed cross-die entry counts among
the entries of its XTAG, one that cannot be fetched does not, since its XTAG is unknown (R130 is silent: DESIGN CHOICE, log 77). -/
def execCueEntryFetch (gid d : Nat) (s : State) : Out :=
  .next (match s.gang? gid with
    | none => s
    | some g =>
      match g.bmu d with
      | none => s
      | some b =>
        if g.sealed = true ∨ b.count ≤ b.next ∨ 32 ≤ b.win.length then s
        else
          let rd := fun (k : Nat) =>
            (s.sysPa g.part (b.base.toNat + 32 * b.next + 8 * k) .read).map fun a => s.memNat a 8
          let add := fun (e : Cue) (seen : SMap Nat) =>
            let s := s.setGang (g.setBmu d { b with next := b.next + 1, win := b.win ++ [e], seen := seen })
            let s := if e.ok then s else s.cueEvent gid d e.idx
            s.checkDie gid d
          match rd 0, rd 1, rd 2, rd 3 with
          | some w0, some w1, some w2, some w3 =>
            let x := w0 / 2 ^ 32 % 256
            let k := smGet 0 x b.seen
            add (g.cueOf d b.next k w0 w1 w2 w3) (if w0 / 2 ^ 56 % 256 = 0 then b.seen else smPut x (k + 1) b.seen)
          | _, _, _, _ => add (.broken b.next) b.seen)

/-! ## Firing (R31, R126 to R130) -/

/-- The slots of a member set. -/
def slotsOf (m : BitVec 192) : List Nat := (List.range 192).filter fun t => m.getLsbD t

/-- The tile of a slot. -/
def State.slotTile (s : State) (g : Gang) (d t : Nat) : Tile :=
  match g.phys (192 * d + t) with
  | some p => s.tile p
  | none => .reset

/-- Whether the thread of a tile is being moved (R133). -/
def Tile.migrating (t : Tile) : Bool :=
  match t.ctl.stat with
  | .moving _ => true
  | _ => false

/-- local(E) of R126. -/
def State.localReady (s : State) (g : Gang) (d : Nat) (b : Bmu) (e : Cue) : Bool :=
  e.ok && (slotsOf e.member).all fun t =>
    (smFind t b.arrived).isSome && (b.armed t).map (·.idx) == some e.idx && !(s.slotTile g d t).migrating

/-- The sender and the destination of an item that counts for R31: remote stores, packets, MCMD records. -/
def Flight.sendEnds (f : Flight) : Option (Nat × Nat) :=
  match f.msg with
  | .store .. | .packet _ | .mcmd .. => some (f.src, f.dst)
  | .retry _ | .retryCmd .. => some (f.dst, f.src)
  | _ => none

/-- The logical indices whose scratchpad a copy writes, row by row. -/
def Copy.targets (c : Copy) (own : Nat) : List Nat :=
  (List.range c.regs.crows.toNat).filterMap fun j =>
    match region (rowAddr c.regs.cdst c.regs.cdstr j) with
    | some (.self ..) => some own
    | some (.remote l ..) => some l
    | _ => none

/-- SendsOutstanding (R31): whether something a member sent to a member has not performed. -/
def State.sendsOut (s : State) (g : Gang) (ms : List Nat) : Bool :=
  s.net.any (fun f => f.g == g.id && f.sendEnds.any fun e => ms.contains e.1 && ms.contains e.2) ||
  ms.any fun l =>
    match g.phys l with
    | none => false
    | some p =>
      let t := s.tile p
      t.ni.reorder.any (fun k => ms.contains k.src) ||
      t.fe.late.any (fun e => match e.what with
        | .store d .. => ms.contains d
        | _ => false) ||
      t.copies.any (fun c => c.state != .complete && (c.targets l).any ms.contains) ||
      (t.mx.remote ++ (t.mx.run.map (·.cmd)).toList).any fun c => c.sender.any fun q => ms.contains q.1

/-- The logical indices an entry names on the dies it fires on. -/
def memberIndices (es : List (Nat × Cue)) : List Nat := es.flatMap fun e => (slotsOf e.2.member).map (192 * e.1 + ·)

/-- Whether a journal of the gang is occupied: at a gang boundary each is empty (R92). -/
def State.journalUsed (s : State) (g : Gang) : Bool := g.l2p.any fun e => !(s.tile e.2).ni.journal.isEmpty

/-- Whether R31 holds back a set of matched entries (R126). -/
def State.heldBySends (s : State) (g : Gang) (es : List (Nat × Cue)) : Bool :=
  if es.any fun e => g.isBoundary e.2 then s.sendsOut g g.members || s.journalUsed g
  else es.any (fun e => e.2.s) && s.sendsOut g (memberIndices es)

/-- The operator's identity that WAIT contributes (R128). -/
def voteIdent (op : BitVec 8) : Word :=
  match op.toNat with
  | 1 => 0xFFFF_FFFF
  | 3 => 0x8000_0000
  | 4 => 0x7FFF_FFFF
  | _ => 0

/-- The values the members of an entry contribute. -/
def Bmu.votes (b : Bmu) (e : Cue) : List Word :=
  (slotsOf e.member).map fun t => ((smFind t b.arrived).getD none).getD (voteIdent e.vote)

/-- The result of a vote, sign-extended (R128). -/
def voteResult (op : BitVec 8) (vs : List Word) : Word :=
  let is := vs.map fun v => intOf 32 v.toNat
  let out := fun (v : Int) => BitVec.ofInt 64 (intOf 32 (codeOf 32 v))
  match op.toNat with
  | 1 => BitVec.ofInt 64 (intOf 32 (vs.foldl (· &&& ·) 0xFFFF_FFFF#64).toNat)
  | 2 => BitVec.ofInt 64 (intOf 32 (vs.foldl (· ||| ·) 0#64).toNat)
  | 3 => out (is.foldl max (-2 ^ 31))
  | 4 => out (is.foldl min (2 ^ 31 - 1))
  | 5 => out (satInt 32 (is.foldl (· + ·) 0))
  | _ => 0

/-- The matched entries of a cross-die entry, when every named die has reported and every one has every report (R130). -/
def Gang.crossGroup (g : Gang) (e : Cue) : Option (List (Nat × Cue)) :=
  let ds := (List.range 8).filter fun d => e.dies.getLsbD d
  let es := ds.filterMap fun d => match g.bmu d with
    | none => none
    | some b =>
      if ds.all fun d' => b.reports.any fun r => r.die == d' && r.cue.matches e then
        (b.win.find? fun x => x.ok && x.reported && x.matches e && x.agrees e).map fun x => (d, x)
      else none
  if es.length = ds.length then some es else none

/-- The values contributed to a set of matched entries. -/
def Gang.allVotes (g : Gang) (es : List (Nat × Cue)) : List Word :=
  es.flatMap fun e => match g.bmu e.1 with
    | some b => b.votes e.2
    | none => []

/-- Retires an entry: its arrival bits clear, its reports go (R127, R130). -/
def Bmu.retire (b : Bmu) (e : Cue) : Bmu :=
  { b with
    win := b.win.filter fun x => x.idx != e.idx
    arrived := b.arrived.filter fun a => !e.member.getLsbD a.1
    reports := if e.dies = 0 then b.reports else b.reports.filter fun r => !r.cue.matches e }

/-- The entries of a set fire together; they are released at `due`. -/
def Gang.fire (g : Gang) (es : List (Nat × Cue)) (boundary : Bool) (due : Nat) : Gang :=
  match es with
  | [] => g
  | (_, e) :: _ =>
    let f : Fired :=
      { members := es.map fun x => (x.1, x.2.member), result := voteResult e.vote (g.allVotes es), timed := e.timed, term := e.term
        pkg := e.pkg && g.top == 5, reportedPkg := false, boundary := boundary, due := due }
    let g := es.foldl (fun g x => match g.bmu x.1 with
      | some b => g.setBmu x.1 (b.retire x.2)
      | none => g) g
    { g with fired := g.fired ++ [f] }

/-- The latest tick at which a die reported one of a set of entries (R130). -/
def Gang.reportTick (g : Gang) (es : List (Nat × Cue)) : Nat :=
  es.foldl (fun m e => match g.bmu e.1 with
    | some b => (b.reports.filter fun r => r.cue.matches e.2).foldl (fun m r => max m r.tick) m
    | none => m) 0

/-- The latest tick at which a member of a set of entries arrived: the end of a migration during a wait counts as that (R133). -/
def State.lastArrival (s : State) (g : Gang) (es : List (Nat × Cue)) : Nat :=
  (memberIndices es).foldl (fun m l => match g.phys l with
    | some p => max m (s.tile p).ctl.since
    | none => m) 0

/-- A gang boundary begins: its entries stay in their windows until it publishes (R112, R356). -/
def Gang.begin (g : Gang) (es : List (Nat × Cue)) (cross : Bool) : Gang :=
  { g with commit := some ⟨es.map fun e => (e.1, e.2.idx), cross⟩ }

/-- The entries that fire with entry e of die d, when its condition holds (R126, R130). -/
def State.fireGroup (s : State) (g : Gang) (d : Nat) (b : Bmu) (e : Cue) : Option (List (Nat × Cue)) :=
  if e.dies = 0 then if s.localReady g d b e then some [(d, e)] else none
  else if e.ok && e.reported then
    match g.crossGroup e with
    | some es => if es.any fun x => (slotsOf x.2.member).any fun t => (s.slotTile g x.1 t).migrating then none else some es
    | none => none
  else none

/-- Whether a rollback has stopped the gang's instructions: at or after its tick (R398). -/
def Gang.rolled (g : Gang) (tick : Nat) : Bool :=
  match g.rolling with
  | some (ts, _) => decide (ts ≤ tick)
  | none => false

/-- The entries that fire with entry e of logical die d on this tick, its conditions met (R126, R130). No gang boundary begins once a rollback
is named (R398). -/
def State.firing (s : State) (g : Gang) (d : Nat) (b : Bmu) (e : Cue) : Option (List (Nat × Cue)) :=
  if g.commit.isSome || !g.goes s.tick || g.rolled s.tick || (g.isBoundary e && (g.bcause != 0 || g.rolling.isSome)) then none
  else match s.fireGroup g d b e with
    | none => none
    | some es => if s.heldBySends g es then none else some es

/-- Entry e of logical die d fires, or its gang boundary begins, when its conditions hold (R126, R129, R130). -/
def State.tryFire (s : State) (g : Gang) (d : Nat) (b : Bmu) (e : Cue) : State :=
  match s.firing g d b e with
  | none => s
  | some es =>
      if g.isBoundary e then s.setGang (g.begin es (e.dies != 0))
      else
        let due := if e.dies = 0 then s.tick + 3 else (if e.s then max s.tick (g.reportTick es) else max (g.reportTick es) (s.lastArrival g es)) + 48
        s.setGang (g.fire es false due)

/-- BARRIER_FIRE of the k-th window entry of logical die d (R126). -/
def execBarrierFire (gid d k : Nat) (s : State) : Out :=
  .next (match s.gang? gid with
    | none => s
    | some g =>
      match g.bmu d with
      | none => s
      | some b =>
        match b.win[k]? with
        | none => s
        | some e => s.tryFire g d b e)

/-- Whether a die has a cross-die entry to report (R126, R130). -/
def State.mayReport (s : State) (g : Gang) (d : Nat) (b : Bmu) (e : Cue) : Bool :=
  e.dies != 0 && !e.reported && g.goes s.tick && s.localReady g d b e

/-- READY_REPORT of the k-th window entry of logical die d, once (R126, R130). -/
def execReadyReport (gid d k : Nat) (s : State) : Out :=
  .next (match s.gang? gid with
    | none => s
    | some g =>
      match g.bmu d with
      | none => s
      | some b =>
        match b.win[k]? with
        | none => s
        | some e =>
          if !s.mayReport g d b e then s
          else
            let r : Report := ⟨d, e, b.votes e, s.tick⟩
            let g := g.setBmu d { b with win := b.win.map fun x => if x.idx = e.idx then { x with reported := true } else x }
            let out := ((List.range 8).filter fun dd => e.dies.getLsbD dd).map fun dd =>
              (⟨gid, d, dd, .ready r, s.tick, false, s.tick, 0⟩ : Flight)
            { s.setGang g with net := s.net ++ out })

/-- READY_REPORT_ARRIVAL of network item k: counted, and the entry fires when all dies have reported (R130). -/
def execReadyReportArrival (k : Nat) (s : State) : Out :=
  .next (match s.arrival k with
    | none => s
    | some (f, s1) =>
      match f.msg with
      | .ready r =>
        (match s1.gang? f.g with
        | none => s1
        | some g =>
          match g.bmu f.dst with
          | none => s1
          | some b =>
            let s := (s1.setGang (g.setBmu f.dst { b with reports := b.reports ++ [r] })).checkDie f.g f.dst
            match s.gang? f.g with
            | none => s
            | some g =>
              match g.bmu f.dst with
              | none => s
              | some b =>
                match b.win.find? fun e => e.ok && e.matches r.cue with
                | none => s
                | some e => s.tryFire g f.dst b e)
      | _ => s)

/-! ## Releases (R129, R131, R132, R325) -/

/-- What a release writes: the old values of the thread's DAMOs at a gang boundary, in program order, then WAITV's result (R128, R325). -/
def Tile.dueAt (t : Tile) (f : Fired) (rd : Option XReg) : List (XReg × Word) :=
  (if f.boundary then t.damos.map fun d => (d.rd, d.old) else []) ++ rd.toList.map fun r => (r, f.result)

/-- What the release of a gang boundary writes belongs to its snapshot (R32, R56). -/
def Tile.snapRelease (t : Tile) (owed : List (XReg × Word)) : Tile :=
  { t with snap := t.snap.map fun k =>
    { k with
      regs := t.delivered.regs, pc := t.fe.pc, passedTerm := t.ctl.passedTerm, xl := t.fe.xl, owed := owed, skip := t.fe.skip, ni := { k.ni with timedWin := t.ni.timedWin } } }

/-- A member is released: DAMO deliveries, WAITV's result, TERM passed, TIMED class (R128, R129, R131, R134, R325). A result whose
port is full A pushes once there is room, before its next word (R24). -/
def Tile.release (t : Tile) (f : Fired) : Tile :=
  match t.ctl.stat with
  | .waiting (.barrier rd _) =>
    let a := t.give (t.dueAt f rd)
    let u := { a.1 with
      damos := if f.boundary then [] else a.1.damos
      ctl := { a.1.ctl with passedTerm := a.1.ctl.passedTerm || f.term }
      ni := { a.1.ni with timedWin := f.timed } }.resume
    let u := if a.2.isEmpty then u else u.owes a.2
    if f.boundary then u.snapRelease a.2 else u
  | _ => t

/-- What a release writes, as the touchmark of a pair takes it (R407). -/
def Tile.releaseBytes (t : Tile) (f : Fired) : List Byte :=
  match t.ctl.stat with
  | .waiting (.barrier rd _) => (t.dueAt f rd).flatMap fun w => leBytes 8 w.2.toNat
  | _ => []

/-- The physical tiles of a fired entry's members. -/
def Gang.firedTiles (g : Gang) (f : Fired) : List Nat :=
  f.members.flatMap fun m => (slotsOf m.2).filterMap fun t => g.phys (192 * m.1 + t)

/-- Whether every member of a fired entry still waits. -/
def State.allWait (s : State) (g : Gang) (f : Fired) : Bool :=
  (g.firedTiles f).all fun p => match (s.tile p).ctl.stat with
    | .waiting (.barrier ..) => true
    | _ => false

/-- The k-th fired entry releases its members. -/
def State.releaseNow (s : State) (g : Gang) (k : Nat) (f : Fired) : State :=
  let s := s.setGang { g with fired := g.fired.eraseIdx k }
  (g.firedTiles f).foldl (fun s p => (s.onTile p fun t => t.release f).markMore p ((s.tile p).releaseBytes f)) s

/-- BARRIER_RELEASE of the k-th fired entry, from its release tick on; step makes it on that tick (R129). -/
def execBarrierRelease (gid k : Nat) (s : State) : Out :=
  .next (match s.gang? gid with
    | none => s
    | some g =>
      match g.fired[k]? with
      | none => s
      | some f => if f.pkg || s.tick < f.due || !g.goes s.tick || !s.allWait g f then s else s.releaseNow g k f)

/-- PKG_READY_REPORT: the oldest fired PKG entry is reported to the coordinator at c + 48 or later (R132). -/
def execPkgReadyReport (gid : Nat) (s : State) : Out :=
  .next (match s.gang? gid with
    | none => s
    | some g =>
      match g.fired.findIdx? fun f => f.pkg && !f.reportedPkg with
      | none => s
      | some k =>
        if s.tick < (g.fired.map (·.due)).getD k 0 then s
        else s.setGang { g with fired := g.fired.modify k fun f => { f with reportedPkg := true, due := s.tick } })

/-- PKG_RELEASE: the coordinator names the release tick, at least 4,096 after the report; the entry is released then (R129, R132). -/
def execPkgRelease (gid at_ : Nat) (s : State) : Out :=
  .next (match s.gang? gid with
    | none => s
    | some g =>
      match g.fired.findIdx? fun f => f.pkg && f.reportedPkg with
      | none => s
      | some k =>
        if at_ < (g.fired.map (·.due)).getD k 0 + 4096 || at_ < s.tick then s
        else s.setGang { g with fired := g.fired.modify k fun f => { f with pkg := false, due := at_ } })

/-! ## Long waits (R45, R133, R163) -/

/-- BARRIER_STALL_EVENT on tile p: a wait at WAIT, WAITV or SWAIT, or a rotation step, longer than BWLIMIT (R133, R163). A rotation
step is measured from the start of its command (log 77). -/
def execBarrierStallEvent (p : Nat) (s : State) : Out :=
  .next (
    let t := s.tile p
    let lim := bitsOf t.sr.bwlimit 31 0
    let late := fun (since : Nat) => lim != 0 && since + lim < s.tick
    let atWait := match t.ctl.stat with
      | .waiting (.barrier ..) => true
      | .waiting (.swait _) => true
      | _ => false
    if atWait && !t.ctl.raised && late t.ctl.since then
      (s.setTile p ({ t with ctl := { t.ctl with raised := true } }.raise 6 (BitVec.ofNat 64 (s.tick - t.ctl.since)))).threadEvent t 1 0
    else match t.mx.run with
      | some r =>
        if r.cmd.rot && !r.swapped && !r.raised && late r.since then
          (s.setTile p ({ t with mx := { t.mx with run := some { r with raised := true } } }.raise 6
            (BitVec.ofNat 64 (s.tick - r.since)))).threadEvent t 1 0
        else s
      | none => s)

/-- LONG_RECEIVE_EVENT on tile p: a wait at RCV, or at a stream SNDH, longer than RSLIMIT (R45). -/
def execLongReceiveEvent (p : Nat) (s : State) : Out :=
  .next (
    let t := s.tile p
    let lim := bitsOf t.sr.rslimit 31 0
    let q := match t.ctl.stat with
      | .waiting (.rcv q _) => some q.toNat
      | .waiting (.stream _ q) => some q
      | _ => none
    match q with
    | none => s
    | some q =>
      if lim = 0 ∨ t.ctl.raised ∨ s.tick ≤ t.ctl.since + lim then s
      else (s.setTile p ({ t with ctl := { t.ctl with raised := true } }.raise 7 (BitVec.ofNat 64 q))).threadEvent t 2 q)

end Sys2Proof.Machine
end

