-- ==== Sys2Proof/Machine/EvCommit.lean ====
section
/-! DEFINITION. EvCommit: the gang boundary: merging, aborts, DAMOs, hallmarks, publication, the snapshot point
(R56, R107 to R120, R395, R396, R402 to R404). -/

namespace Sys2Proof.Machine

/-! ## Ends of a gang, error log (R399, R410) -/

/-- The gang ends as failed: nothing is restored, committed memory keeps the last publication; the report names a tile and
an address, 0x7FF and 0 when there are none (R399). -/
def State.gangFail (s : State) (gid : Nat) (pidx : Nat := 0x7FF) (addr : Word := 0) : State :=
  (s.gangEnd gid .failed).notice (.failed gid pidx addr)

/-- The members of a gang as (logical index, physical tile). -/
def Gang.pairs (g : Gang) : List (Nat × Nat) := g.l2p

/-- Applies a change to every member's tile. -/
def State.onMembers (s : State) (g : Gang) (f : Tile → Tile) : State := g.pairs.foldl (fun s e => s.onTile e.2 f) s

/-! ## The tasks of a boundary (R34, R35) -/

/-- A task of the gang: its key, its tile, its place there (none: the background task). -/
structure TaskAt where
  key : Nat × Nat × Nat
  p : Nat
  idx : Option Nat
  task : Task
  deriving DecidableEq, Repr

/-- The tasks of one tile. The background task has no index in the table; against a scheduled task of its own timestamp it comes last
(DESIGN CHOICE, log 77). -/
def Tile.tasksAt (t : Tile) (p : Nat) : List TaskAt :=
  (t.task.tasks.zipIdx.map fun k => ⟨(k.1.ts, t.lidx, k.1.pos), p, some k.2, k.1⟩) ++
  [⟨(Config.bgStamp, t.lidx, 4096), p, none, t.task.bg⟩]

/-- The slice of a physical address: of a stack of 64 GiB, by address bits [10:8] (R17). -/
def sliceOf (pa : Nat) : Nat := pa / 2 ^ 36 * 8 + pa / 2 ^ 8 % 8

/-- The first of some tasks in the order of R34. -/
def firstTask : List TaskAt → Option TaskAt
  | [] => none
  | k :: r => match firstTask r with
    | none => some k
    | some m => if taskBefore m.key k.key then some m else some k

/-- Insertion in the order of R34. -/
def insertTask (k : TaskAt) : List TaskAt → List TaskAt
  | [] => [k]
  | m :: r => if taskBefore k.key m.key then k :: m :: r else m :: insertTask k r

/-- Every task of the gang, in the order of R34. -/
def State.allTasks (s : State) (g : Gang) : List TaskAt :=
  (g.pairs.flatMap fun e => (s.tile e.2).tasksAt e.2).foldr insertTask []

/-- Whether a member waits at the boundary, arrived. -/
def State.arrivedAt (s : State) (g : Gang) (l p : Nat) : Bool :=
  (match (s.tile p).ctl.stat with
    | .waiting (.barrier ..) => true
    | _ => false) &&
  (match g.bmu (l / 192) with
    | some b => (smFind (l % 192) b.arrived).isSome
    | none => false)

/-- Whether every global load of a tile has performed. -/
def Tile.readsDone (t : Tile) : Bool := t.loads.all fun l => match l.kind with
  | .global .. => false
  | _ => true

/-- Whether an aborted task that its tile has still to run again stands before a key in the order of R34: no later task merges before it. A tile
that has run again to the boundary has no more to run, whichever of its entries it opened (R112, R114). -/
def State.redoBefore (s : State) (g : Gang) (key : Nat × Nat × Nat) : Bool :=
  g.pairs.any fun e => !s.arrivedAt g e.1 e.2 && (s.tile e.2).task.redo.any fun r => taskBefore (r.1, e.1, r.2) key

/-- The next task to merge, when it is final and its loads have performed (R112 step 2). -/
def State.nextMerge (s : State) (g : Gang) : Option TaskAt :=
  match firstTask ((g.pairs.flatMap fun e => (s.tile e.2).tasksAt e.2).filter fun k => !k.task.merged) with
  | none => none
  | some k =>
    if !(s.tile k.p).readsDone || s.redoBefore g k.key then none else
    match k.idx with
    | some _ => if k.task.final then some k else none
    | none => if g.commit.isSome && s.arrivedAt g k.key.2.1 k.p then some k else none

/-! ## B causes (R356) -/

/-- A thread takes a B cause at its WAIT: it leaves the wait in S, its arrival bit cleared. -/
def Tile.bTrap (t : Tile) (c : Cause) : Tile :=
  match t.ctl.stat with
  | .waiting (.barrier ..) =>
    ({ t with fe := { t.fe with loops := t.regs.loop }, ctl := { t.ctl with stat := .running } }).enter t.fe.pc c
  | _ => t

/-- Whether a switch or a migration has stopped a member that waits at a barrier. -/
def Tile.waitsStopped (t : Tile) : Bool :=
  match t.ctl.stat with
  | .stopped (some (.barrier ..)) | .moving (some (.barrier ..)) => true
  | _ => false

/-- Every member takes a B cause, one that runs again when it arrives, one that is stopped at its WAIT when it goes on; the boundary is
unpublished, its entry unfired. -/
def State.boundaryTrap (s : State) (g : Gang) (code : Nat) (c : Cause) (lidx : Nat) : State :=
  let late := (g.pairs.filter fun e => !s.arrivedAt g e.1 e.2).map Prod.fst
  let stays := fun (l : Nat) => match g.phys l with
    | some p => (s.tile p).waitsStopped
    | none => false
  let s := s.onMembers g fun t =>
    let t := t.bTrap c
    { t with task := { t.task with
      tasks := t.task.tasks.map fun k => { k with merged := false, sliced := [] }
      bg := { t.task.bg with merged := false, sliced := [] } } }
  s.setGang { g with
    commit := none, staged := [], bcause := code, btake := late, suspect := lidx
    bmus := g.bmus.zipIdx.map fun b => { b.1 with arrived := b.1.arrived.filter fun a => stays (192 * b.2 + a.1) } }

/-- The members that had run again take an abort-unprotected cause at their WAIT (R356). -/
def State.lateCause (s : State) (g : Gang) : State :=
  match g.pairs.find? fun e => g.btake.contains e.1 && s.arrivedAt g e.1 e.2 with
  | none => s
  | some e =>
    let s := s.onTile e.2 fun t => t.bTrap (boundaryCause 0x61 0 g.suspect)
    let g := { g with btake := g.btake.filter (· != e.1) }
    s.setGang (match g.bmu (e.1 / 192) with
      | some b => g.setBmu (e.1 / 192) { b with arrived := smDel (e.1 % 192) b.arrived }
      | none => g)

/-! ## Merging and aborts (R113, R114) -/

/-- The aborted tile, whose unit is idle, restarts at the NEXT that opened or skipped task n, from its checkpoint (R110, R114). What no rule names keeps its value:
the completion FIFO and the push count, STATUS with its mode; no completion is then owed (DESIGN CHOICE, log 77). -/
def Tile.abort (t : Tile) (n : Nat) : Tile :=
  match t.task.tasks[n]? with
  | none => t
  | some u =>
    match t.task.cks[u.ck]? with
    | none => t
    | some c =>
      let keep := fun (id : Nat) => decide (id < c.serial)
      { t with
        regs := c.regs
        ur := { c.ur with cursor := u.pos }
        ir := { t.ir with tstamp := c.tstamp }
        ctl := { t.ctl with stat := .running, raised := false }
        fe := { t.fe with pc := c.pc, flow := .seq, aq := [], xq := [], xl := [], late := [], kept := [], ahead := [], skip := [], res := [] }
        spad := c.spad
        env := c.env
        envq := []
        mx := { t.mx with
          ring := c.ur.mring, acc := c.acc, modes := c.modes, xmodes := c.modes, fifo := [], run := none, owed := 0, sending := false, lastRemote := true
          front := c.front, back := c.back, fills := c.fills, nb := c.nb, scales := c.scales }
        scan := { t.scan with fifo := [], run := none, ready := false, out := [], fl := 0 }
        copies := []
        loads := t.loads.filter fun l => keep l.id
        damos := t.damos.filter fun d => keep d.id
        ni := { t.ni with mbox := c.mbox, held := [] }
        task := { t.task with
          opened := false
          tasks := t.task.tasks.take n
          cks := t.task.cks.take (u.ck + 1)
          bg := { t.task.bg with gsb := c.bgGsb, merged := false, sliced := [] }
          redo := (t.task.tasks.drop n).map (fun k => (k.ts, k.pos)) ++ t.task.redo } }

/-- The first task in table order of a tile that has read a merged line, the merging task at position `pos` apart where it is one of this tile's
(R39, R114). -/
def Tile.firstRead (t : Tile) (own : Bool) (pos : Nat) (lines : List Nat) : Option Nat :=
  t.task.tasks.findIdx? fun k => !k.merged && !(own && k.pos == pos) && k.reads.any lines.contains

/-- Aborts on one tile, or the end of its protection (R114). -/
def State.abortAt (s : State) (gid l p n : Nat) : State :=
  let c := ((s.tile p).task.cks[((s.tile p).task.tasks.map (·.ck)).getD n 0]?).map (·.serial)
  let s := s.onTile p fun t => t.abort n
  let s := { s with net := s.net.filter fun f => !(f.g == gid && f.src == l && (match f.msg with
    | .damo id => decide (c.getD 0 ≤ id)
    | _ => false)) }
  match s.gang? gid with
  | none => s
  | some g =>
    match g.bmu (l / 192) with
    | some b => s.setGang (g.setBmu (l / 192) { b with arrived := smDel (l % 192) b.arrived })
    | none => s

/-- The bytes of a task that merge next: those of one slice that has not merged it, or of all of them, a free choice (R17, R112, log 80). -/
def Task.nextSlices (k : Task) (seed : Nat) : List Nat :=
  let left := ((k.gsb.map fun b => sliceOf b.1).eraseDups).filter fun n => !k.sliced.contains n
  match left[Config.choice seed 0 - 1]? with
  | some n => if Config.choice seed 0 = 0 then left else [n]
  | none => left

/-- Bytes of a task are merged at some slices; the task is merged when every slice has merged it (R112, R113). -/
def Task.sliceMerged (k : Task) (ns : List Nat) : Task :=
  let done := k.sliced ++ ns
  if (k.gsb.all fun b => done.contains (sliceOf b.1)) then { k with merged := true, sliced := [] } else { k with sliced := done }

/-- TASK_MERGE: the next final task's bytes are staged, at one slice or at all, and later tasks that read their lines are aborted (R112 to R114);
in a serial run no task is aborted, and a task merges before the boundary (R403). -/
def execTaskMerge (gid : Nat) (s : State) : Out :=
  .next (match s.gang? gid with
    | none => s
    | some g =>
      if g.commit.isNone && g.serial == 0 then s
      else match s.nextMerge g with
        | none => s
        | some k =>
          let ns := k.task.nextSlices s.steps
          let bs := k.task.gsb.filter fun b => ns.contains (sliceOf b.1)
          let g := { g with staged := bs.foldl (fun m b => smPut b.1 b.2.2 m) g.staged }
          let s := (s.setGang g).onTile k.p fun t => t.setTask k.idx fun k => k.sliceMerged ns
          let lines := linesOf (bs.map (·.1))
          if g.serial ≠ 0 ∨ lines.isEmpty then s
          else
            let hits := g.pairs.filterMap fun e => ((s.tile e.2).firstRead (k.idx.isSome && e.2 == k.p) k.key.2.2 lines).map fun n => (e.1, e.2, n)
            match hits.find? fun h => (s.tile h.2.1).undo.full with
            | some h =>
              let s := s.event gid 5 h.1 (h.1 / 192) 0
              s.boundaryTrap ((s.gang? gid).getD g) 0x61 (boundaryCause 0x61 0 h.1) h.1
            | none => hits.foldl (fun s h => s.abortAt gid h.1 h.2.1 h.2.2) s)

/-! ## DAMOs (R117) -/

/-- The value of w bytes at a place as the boundary sees it. -/
def stagedNat (mem : Memory) (staged : SMap Byte) (pa w : Nat) : Nat :=
  leNat ((List.range w).map fun i => (smFind (pa + i) staged).getD (memRead (pa + i) mem))

/-- Stages w bytes of a value. -/
def stagePut (staged : SMap Byte) (pa w v : Nat) : SMap Byte :=
  (List.range w).foldl (fun m i => smPut (pa + i) (BitVec.ofNat 8 (v / 256 ^ i)) m) staged

/-- One request applied: the staged bytes and its old value. -/
def applyDamo (mem : Memory) (a : SMap Byte × List Damo) (d : Damo) : SMap Byte × List Damo :=
  let n := wBytes d.w
  let old := stagedNat mem a.1 d.pa n
  (stagePut a.1 d.pa n (d.form.apply d.w old d.b.toNat), a.2 ++ [{ d with old := wSext d.w old }])

/-- Every request of the gang in logical-index order, then program order. -/
def State.applyDamos (s : State) (g : Gang) : State :=
  g.pairs.foldl (fun s e =>
    match s.gang? g.id with
    | none => s
    | some g =>
      let r := (s.tile e.2).damos.foldl (applyDamo s.mem) (g.staged, [])
      (s.setGang { g with staged := r.1 }).onTile e.2 fun t => { t with damos := r.2 }) s

/-! ## Hallmarks (R118 to R120) -/

/-- The 80 B record of one line of a task's bytes. -/
def lineRecord (bs : List (Nat × Byte)) (line : Nat) : List Byte :=
  let here := bs.filter fun b => b.1 / 64 == line
  let mask := here.foldl (fun m b => m ||| 2 ^ (b.1 % 64)) 0
  leBytes 8 (line * 64) ++ leBytes 8 mask ++ (List.range 64).map fun i => (smFind (line * 64 + i) here).getD 0

/-- The message of a task (R118). -/
def Task.message (k : Task) : List Byte :=
  let pred := match k.pred with
    | some (a, v) => leBytes 8 (a.toNat % 2 ^ 63 + 2 ^ 63) ++ leBytes 8 255 ++ leBytes 8 v.toNat ++ List.replicate 56 0
    | none => []
  let bs : List (Nat × Byte) := k.gsb.foldl (fun m b => smPut b.2.1 b.2.2 m) []
  pred ++ ((bs.map fun b => b.1 / 64).eraseDups).flatMap (lineRecord bs)

/-- The task hallmark. -/
def Task.hallmark (key : BitVec 128) (k : Task) : Word := sipHash key k.message

/-- The gang hallmark (R119). -/
def gangHallmark (key : BitVec 128) (ks : List TaskAt) : Word :=
  ks.foldl (fun a k => a + sipHash key (leBytes 2 k.key.2.1 ++ leBytes 6 k.key.1 ++ leBytes 8 (k.task.hallmark key).toNat)) 0

/-- A 32 B entry of the hallmark table (R120). -/
def hallEntry (ts l : Nat) (gt : Bool) (hm : Word) (step : Nat) : List Byte :=
  leBytes 8 (ts % 2 ^ 48 + l * 2 ^ 48 + (if gt then 2 ^ 63 else 0)) ++ leBytes 8 hm.toNat ++ leBytes 8 step ++ leBytes 8 0

/-- Writes entries at consecutive places of the table; none on a write fault (R120, R372). -/
def State.writeHall (s : State) (g : Gang) : Nat → List (List Byte) → Option State
  | _, [] => some s
  | i, e :: r =>
    match s.sysPa g.part (g.htab.toNat + 32 * i) .write with
    | none => none
    | some a => (s.memPuts a e).writeHall g (i + 1) r

/-- A table entry read back: its first word and its hallmark. -/
def State.readHall (s : State) (g : Gang) (i : Nat) : Option (Nat × Word × Nat) :=
  match s.sysPa g.part (g.htab.toNat + 32 * i) .read with
  | none => none
  | some a => some (s.memNat a 8, BitVec.ofNat 64 (s.memNat (a + 8) 8), s.memNat (a + 16) 8)

/-- The entries of one boundary from place i on, up to and without its GT entry; none where a read of the table faults: R372 names no fate for that, and it
has that of a write (DESIGN CHOICE, log 54). -/
def State.hallStretch (s : State) (g : Gang) (step : Nat) : Nat → Nat → Option (List (Nat × Word))
  | 0, _ => some []
  | n + 1, i =>
    match s.readHall g i with
    | none => none
    | some (w, h, st) => if st ≠ step ∨ w.testBit 63 then some [] else (s.hallStretch g step n (i + 1)).map ((w, h) :: ·)

/-- The first task whose hallmark differs from the entry of equal STEP, LIDX and TS; reserved bits are ignored (R8, R120). -/
def firstMismatch (key : BitVec 128) : List TaskAt → List (Nat × Word) → Option TaskAt
  | [], _ => none
  | k :: r, es =>
    let w := k.key.1 % 2 ^ 48 + k.key.2.1 * 2 ^ 48
    match es.findIdx? fun e => e.1 % 2 ^ 59 == w with
    | none => some k
    | some i => if ((es.map (·.2)).getD i 0) = k.task.hallmark key then firstMismatch key r (es.eraseIdx i) else some k

/-- What step 5 of R112 answers. -/
inductive HallEnd where
  | ok (s : State) (used : Nat)
  | fault
  | mismatch (k : TaskAt)
  deriving DecidableEq, Repr

/-- Step 5 of R112. -/
def State.hallStep (s : State) (g : Gang) : HallEnd :=
  if !g.det || g.hsub == 0 then .ok s 0
  else
    let key := Config.gangKey g.key
    let ks := s.allTasks g
    if g.hsub = 1 then
      let es := ks.map (fun k => hallEntry k.key.1 k.key.2.1 false (k.task.hallmark key) (g.step + 1)) ++
        [hallEntry 0 0 true (gangHallmark key ks) (g.step + 1)]
      match s.writeHall g g.hcount es with
      | none => .fault
      | some s => .ok s es.length
    else
      match s.hallStretch g (g.step + 1) 6300000 g.hcount with
      | none => .fault
      | some es => match firstMismatch key ks es with
        | some k => .mismatch k
        | none => .ok s (es.length + 1)

/-! ## The snapshot point (R32, R56, R396) -/

/-- The shadow bank and the copies of R396, with the results of the words that have issued; the undo region empties. -/
def Tile.takeSnap (t : Tile) : Tile :=
  let k : Snap :=
    { regs := t.delivered.regs, ur := t.delivered.ur, spad := t.spad, acc := t.mx.acc, modes := t.mx.modes, env := t.env, front := t.mx.front
      back := t.mx.back, fills := t.mx.fills, nb := t.mx.nb, scales := t.mx.scales, ni := t.ni, cpNext := t.cpNext, scan := t.scan
      pc := t.fe.pc, status := t.sr.status, serial := t.ctl.serial, passedTerm := t.ctl.passedTerm
      ring := t.mx.ring, pushes := t.mx.pushes, xl := t.fe.xl, owed := [], skip := t.fe.skip }
  { t with
    snap := some k
    undo := { t.undo with
      used := 0, written := 0, lines := [], accRows := [], envs := [], latch := [], full := false, raised := true, calls := [], amos := [], replay := [] } }

/-- RELSTAT after a publication: PROT 1, SERIAL, REPLAY and RCOUNT 0 (R397, R409). -/
def relPublished (w : Word) : Word := setField (setField w 6 2 0) 0 0 1

/-- A new stretch between gang boundaries begins on a tile (R35, R110, R385). -/
def Tile.newStretch (t : Tile) : Tile :=
  { t with
    task := { t.task with opened := false, region := false, tasks := [], bg := .background, cks := [], redo := [] }
    ir := { t.ir with relstat := relPublished t.ir.relstat }
    ctl := { t.ctl with poisoned := false, failed := false }
    pair := { t.pair with bad := 0 } }

/-! ## The boundary (R112) -/

/-- GANG_BOUNDARY_COMMIT: the conditions of the armed gang boundary are met and merging begins (R112 step 1). After an
abort-unprotected cause, or a fault of the hallmark table, the gang ends when every member has arrived again (R403, R404). -/
def execGangBoundaryCommit (gid : Nat) (s : State) : Out :=
  .next (match s.gang? gid with
    | none => s
    | some g =>
      match g.bmus.zipIdx.findSome? fun b => (b.1.win.find? fun e => g.isBoundary e).map fun e => (b.2, b.1, e) with
      | none => s
      | some (d, b, e) =>
        if g.bcause = 0x61 then
          (if g.pairs.all fun m => s.arrivedAt g m.1 m.2 then s.gangFail gid else s)
        else s.tryFire g d b e)

/-- Whether an AMO under way has the line of an earlier or later store of its thread: they perform in program order (R324). -/
def State.amoFirst (s : State) (g : Gang) : Bool := s.net.any fun f => f.g == g.id && (match f.msg with
  | .amo _ pa .. =>
    (match g.phys f.src with
    | some p => ((s.tile p).tasksAt p).any fun k => k.task.gsb.any fun b => b.1 / 64 == pa / 64
    | none => false)
  | _ => false)

/-- Whether every package of a TOP 5 gang has started since its resumption: only the coordinator can tell (R392; log 20). -/
def State.packagesStarted (s : State) (g : Gang) : Bool := g.top != 5 || !g.slice || decide (g.t1 + Config.lateStart g.t1 ≤ s.tick)

/-- Whether steps 4 to 7 of R112 may run: every member waits, every task is merged, every DAMO request is at its slice; what a run after
an abort has sent has performed (R31, R92). -/
def State.publishReady (s : State) (g : Gang) : Bool :=
  g.pairs.all (fun e => s.arrivedAt g e.1 e.2) &&
  (g.pairs.all fun e => ((s.tile e.2).tasksAt e.2).all fun k => k.task.merged) &&
  (g.pairs.all fun e => (s.tile e.2).damos.all (·.recorded) && (s.tile e.2).agreed) && g.rolling.isNone &&
  !s.sendsOut g g.members && !s.journalUsed g && !s.amoFirst g && s.packagesStarted g

/-- The entries of a commit, as they stand in their windows. -/
def Gang.commitEntries (g : Gang) (c : Commit) : List (Nat × Cue) :=
  c.keys.filterMap fun k => match g.bmu k.1 with
    | some b => (b.win.find? fun e => e.idx == k.2).map fun e => (k.1, e)
    | none => none

/-- ERROR and its reasons at a completed boundary: MERR that became 1, or after a rollback for that an element that failed again (R402); a
program fault found (R403). -/
def Tile.boundaryErrors (t : Tile) (rolled : Bool) (serial : Nat) : Tile :=
  let t := if rolled then (if t.ctl.failed then t.error 4 else t) else if t.ctl.poisoned then t.error 3 else t
  if serial = 0 then t
  else
    let n := bitsOf t.ir.relstat 39 32
    { t with ir := { t.ir with relstat := setField t.ir.relstat 39 32 (if n < 255 then n + 1 else 255) } }.error 5

/-- Carries on the wires at a snapshot point belong to it: a rollback restores them as received (R199). -/
def State.snapCarries (s : State) (g : Gang) : State :=
  s.net.foldl (fun s f => match f.msg with
    | .carry cfg lanes =>
      if f.g != g.id then s
      else match g.phys f.dst with
        | some p => s.onTile p fun t => { t with snap := t.snap.map fun k => { k with scan := { k.scan with carryIn := some (cfg, lanes) } } }
        | none => s
    | _ => s) s

/-- Steps 6 and 7: publication, the snapshot, the entry fired (R112); a gang that a shutdown waits for stops here (R435). A byte that one task has staged at
the old frame of a move and another at the new one takes the value staged at the higher physical address (R376 names no order: DESIGN CHOICE, log 83). -/
def State.publish (s : State) (g : Gang) (c : Commit) (used : Nat) : State :=
  let s := (g.staged.foldl (fun s b => s.memPut b.1 b.2) s).mend (g.staged.map (·.1))
  let s := if g.serial = 0 then s else match g.phys g.suspect with
    | some p => s.logTile 5 p .other 0
    | none => s
  let s := s.onMembers g fun t => ((t.boundaryErrors g.poisonRolled g.serial).newStretch).takeSnap
  let s := s.snapCarries g
  let g := g.fire (g.commitEntries c) true (s.tick + if c.cross then 48 else 3)
  let s := s.setGang { g with
    commit := none, staged := [], step := g.step + 1, hcount := g.hcount + used, consumed := 0, poisonRolled := false, serial := 0
    bcause := 0, btake := [], bmuSnap := g.bmus, slice := false, saved := none }
  if g.endAtBoundary then s.gangEnd g.id .failed else s

/-- A rollback of the gang is scheduled 512 ticks ahead, for reason `why`; that of a TOP 5 gang at the coordinator's tick (R398). -/
def State.schedRoll (s : State) (g : Gang) (why : Nat) : State :=
  s.setGang { g with rolling := some (s.tick + 512 + (if g.top = 5 then Config.coordDelay s.steps else 0), why), commit := none, staged := [] }

/-- What follows step 5 when the hallmarks stand: the POISON policy, or publication (R402). -/
def State.afterHall (s : State) (g : Gang) (c : Commit) (used : Nat) : State :=
  if g.poison && !g.poisonRolled && g.pairs.any (fun e => (s.tile e.2).ctl.poisoned) then
    s.schedRoll { g with poisonRolled := true } 1
  else s.publish g c used

/-- GANG_BOUNDARY_PUBLISH: steps 4 to 7 of R112. A fault of the hallmark table stops it with DETAIL 0x7FF (R372). -/
def execGangBoundaryPublish (gid : Nat) (s : State) : Out :=
  .next (match s.gang? gid with
    | none => s
    | some g =>
      match g.commit with
      | none => s
      | some c =>
        if !s.publishReady g then s
        else
          let u := s.applyDamos g
          match u.gang? gid with
          | none => s
          | some g =>
            match u.hallStep g with
            | .fault => s.boundaryTrap g 0x61 (boundaryCause 0x60 (BitVec.ofNat 64 (g.step + 1)) 0x7FF) 0x7FF
            | .mismatch k =>
              if g.serial = 0 then
                let s := s.event gid 6 k.key.2.1 (k.key.2.1 / 192) 0
                s.boundaryTrap ((s.gang? gid).getD g) 0x60 (boundaryCause 0x60 (BitVec.ofNat 64 (g.step + 1)) k.key.2.1) k.key.2.1
              else s.setGang { g with commit := none, bcause := 0x60, suspect := k.key.2.1 }
            | .ok v used =>
              match v.gang? gid with
              | none => s
              | some g => v.afterHall g c used)

/-- DAMO_REQUEST_RECORD of network item k: the request is at its slice (R116). -/
def execDamoRequestRecord (k : Nat) (s : State) : Out :=
  .next (match s.arrival k with
    | none => s
    | some (f, s1) =>
      match f.msg, s1.flightTile f f.src with
      | .damo id, some p => s1.onTile p fun t =>
          { t with damos := t.damos.map fun d => if d.id = id then { d with recorded := true } else d }
      | _, _ => s)

end Sys2Proof.Machine
end

