-- ==== Sys2Proof/Machine/VMem.lean ====
section
/-! DEFINITION. VMem: the vector memory forms, A parts and X parts (R268 to R274). -/

namespace Sys2Proof.Machine

/-! ## Places of lanes (R86, R87, R269) -/

/-- The element position of lane i; `idx` is its index lane. -/
def VForm.pos (f : VForm) (i idx : Nat) : Int :=
  match f with
  | .unit => i
  | .stride k => i * k
  | .index _ => idx
  | .bcast => 0

/-- The pieces of lane i in a scratchpad. -/
def lanePieces (f : VForm) (ty : LTy) (fmt pln off : Nat) (pstride : Word) (i idx : Nat) : List Piece :=
  let s := winBits fmt ty
  match f with
  | .index _ =>
    if s = 4 then
      let q := (2 * off + idx) % 2 ^ 22
      [⟨q / 2, q % 2 * 4, 4⟩]
    else bytePieces ((off + idx * (s / 8)) % 2 ^ 21) (s / 8)
  | f => if fmt = 1 then planePieces off pstride.toNat (pln + 1) i else elemPieces off s (f.pos i idx)

/-- The byte addresses of lane i in global memory, RAW at the lane width (R95). -/
def laneVas (f : VForm) (ty : LTy) (va i : Nat) : List Nat :=
  let w := laneBits ty / 8
  (List.range w).map fun b => ((va : Int) + f.pos i 0 * w).toNat + b

/-! ## The checks of the A part (R270) -/

/-- Whether scratchpad bytes [lo, lo + n) lie inside. -/
def spadIn (lo : Int) (n : Nat) : Bool := 0 ≤ lo && lo + n ≤ (Config.scratchBytes : Nat)

/-- The extent check in a scratchpad. -/
def extentOk (f : VForm) (ty : LTy) (fmt pln off : Nat) (pstride : Word) : Bool :=
  let n := lanesOf ty
  let s := winBits fmt ty
  match f with
  | .index _ => true
  | .bcast => spadIn off (if s = 4 then 1 else s / 8)
  | .unit =>
    if fmt = 1 then (List.range (pln + 1)).all fun q => spadIn (off + q * pstride.toNat : Nat) (n / 8)
    else spadIn off (n * s / 8)
  | .stride k =>
    let last : Int := (n - 1 : Nat) * k
    if s = 4 then spadIn off 1 && spadIn ((2 * (off : Int) + last) / 2) 1
    else spadIn off (s / 8) && spadIn (off + last * (s / 8 : Nat)) (s / 8)

/-- Whether any element of a store lies in the schedule-table region (R36). -/
def schedTouched (f : VForm) (ty : LTy) (fmt pln off : Nat) (pstride : Word) : Bool :=
  (List.range (lanesOf ty)).any fun i => (lanePieces f ty fmt pln off pstride i 0).any fun p => Config.schedBase ≤ p.off

/-- Translates byte addresses in order, one walk for each frame in a row: physical addresses, or the first fault. -/
def State.translateAll (s : State) (t : Tile) (need : Access) : List Nat → Except (Nat × Nat) (List Nat) × List TlbEnt
  | [] => (.ok [], t.tlb)
  | va :: r =>
    match s.translate t va need t.user with
    | (.error d, tlb) => (.error (va, d), tlb)
    | (.ok pa, tlb) =>
      match s.translateAll { t with tlb := tlb } need r with
      | (.error e, tlb) => (.error e, tlb)
      | (.ok pas, tlb) => (.ok (pa :: pas), tlb)

/-- The checks of R270 in order: the region and, for global memory, the physical bytes of all lanes. -/
def State.checkVec (s : State) (t : Tile) (a : Word) (f : VForm) (ty : LTy) (store : Bool) :
    Except Cause (Region × List Nat) × Tile :=
  let bad := (Except.error (cAddress a), t)
  let indexed := match f with
    | .index _ => true
    | _ => false
  let unit := match f with
    | .unit => true
    | _ => false
  match region a with
  | none => bad
  | some (.self off fmt span pln) =>
    let w := winBits fmt ty / 8
    if (fmt == 1 && !unit) || (fmt != 1 && pln != 0) || !extentOk f ty fmt pln off t.ur.pstride then bad
    else if fmt != 1 && w != 0 && off % w != 0 then bad
    else if store && !indexed && t.user && t.task.hasSched && schedTouched f ty fmt pln off t.ur.pstride then
      (.error (cStorePerm a), t)
    else (.ok (.self off fmt span pln, []), t)
  | some (.remote l off fmt span) =>
    let w := winBits fmt ty / 8
    if fmt == 1 || indexed || !s.hasIndex t l || !extentOk f ty fmt 0 off 0 then bad
    else if w != 0 && off % w != 0 then bad
    else if t.task.region then (.error cTaskRegion, t)
    else (.ok (.remote l off fmt span, []), t)
  | some (.global va) =>
    let w := laneBits ty / 8
    let n := lanesOf ty
    let last : Int := va + f.pos (n - 1) 0 * w
    if indexed || Config.globalTop < va + w || last < 0 || (Config.globalTop : Int) < last + w then bad
    else if va % w != 0 then bad
    else
      let vas := (List.range n).flatMap fun i => laneVas f ty va i
      match s.translateAll t (if store then .write else .read) vas with
      | (.error e, tlb) => (.error (cTranslation (BitVec.ofNat 64 e.1) e.2), { t with tlb := tlb })
      | (.ok pas, tlb) =>
        let t := { t with tlb := tlb }
        let cost := if store then t.storeCost t.openTask pas else t.loadCost t.openTask pas
        if cost != 0 && !s.areaFits t cost then (.error (cGsbFull a), t) else (.ok (.global va, pas), t)

/-! ## X parts (R271) -/

/-- The index lane of lane i. -/
def Tile.indexLane (t : Tile) (a : VAcc) (i : Nat) : Nat :=
  match a.form with
  | .index vs => laneGet (laneBits a.ty) (t.vval vs) i
  | _ => 0

/-- The raw codes of every lane read from the own scratchpad. -/
def Tile.readLanes (t : Tile) (a : VAcc) : List Word :=
  match region a.base with
  | some (.self off fmt span pln) => (List.range (lanesOf a.ty)).map fun i =>
      BitVec.ofNat 64 (readPieces (t.spadSeen a.got span a.bhkey) (lanePieces a.form a.ty fmt pln off a.pstride i (t.indexLane a i)))
  | _ => []

/-- The places of the own scratchpad that a vector access touches. -/
def Tile.vPlaces (t : Tile) (a : VAcc) : List Nat :=
  match region a.base with
  | some (.self off fmt span pln) => (List.range (lanesOf a.ty)).flatMap fun i =>
      (lanePieces a.form a.ty fmt pln off a.pstride i (t.indexLane a i)).map fun q => placeOf span a.bhkey q.off
  | _ => []

/-- The window and plane count of an access. -/
def winOf (a : Word) : Nat × Nat :=
  match region a with
  | some (.self _ fmt _ pln) => (fmt, pln + 1)
  | some (.remote _ _ fmt _) => (fmt, 1)
  | _ => (0, 1)

/-- Whether the access names the own scratchpad. -/
def isSelf (a : Word) : Bool :=
  match region a with
  | some (.self ..) => true
  | _ => false

/-- The X part of a load: unmasked lanes converted in, masked-off lanes kept. -/
def Tile.loadLanes (t : Tile) (vd : VReg) (a : VAcc) (mask : Word) (data : List Word) : Tile :=
  let (fmt, k) := winOf a.base
  let r := maskedLanes (laneBits a.ty) mask (t.vval vd) fun i => convertIn fmt k a.ty (data.getD i 0).toNat
  (t.putV vd r.1).flags r.2

/-- The lanes a store writes: those unmasked, with their pieces and converted codes. -/
def Tile.storeLanes (t : Tile) (vs : VReg) (a : VAcc) (fmt pln off : Nat) : List (Nat × List Piece × Nat × Fl) :=
  let w := laneBits a.ty
  ((List.range (lanesOf a.ty)).filter (laneOn (w / 8) (t.mval a.vm))).map fun i =>
    let c := convertOut fmt (pln + 1) a.ty (laneGet w (t.vval vs) i)
    (i, lanePieces a.form a.ty fmt pln off a.pstride i (t.indexLane a i), c.1, c.2)

/-- Whether a lane's place lies in the schedule-table region (R36). -/
def laneBarred (a : VAcc) (ps : List Piece) : Bool :=
  a.sched && a.user && ps.any fun p => Config.schedBase ≤ p.off

/-- The refusal of the scatter lanes that lie in the schedule-table region: the lowest such place (R270, R358). -/
def Tile.scatterRefusal (t : Tile) (base : Word) (barred : List (List Piece)) : Tile :=
  match (barred.flatMap fun ps => (ps.take 1).map (·.off)) with
  | [] => t
  | o :: r =>
    let low := r.foldl min o
    t.refuse ⟨BitVec.ofNat 64 (base.toNat / 2 ^ 21 * 2 ^ 21 + low), 0, false, true⟩

/-- The writes of a store to the own scratchpad that it has still to do, in order: lanes by rising number, plane k - 1 of each last (R87, R271). -/
def Tile.storeLeft (t : Tile) (vs : VReg) (a : VAcc) : List (Piece × Nat) :=
  match region a.base with
  | some (.self off fmt span pln) =>
    let ok := (t.storeLanes vs a fmt pln off).filter fun l => !laneBarred a l.2.1
    (ok.flatMap fun l => (writePieces l.2.2.1 l.2.1).reverse).filter fun w => !a.done.contains (placeOf span a.bhkey w.1.off / 16)
  | _ => []

/-- The X part of a vector access, when its data is there (R271, R273). Plane k - 1 is written last (R87). -/
def State.runPartV (s : State) (p : XPart) : Option State :=
  let t := s.t
  match p with
  | .loadV vd a (some data) => some (s.setT (t.loadLanes vd a (t.mval a.vm) data))
  | .loadV vd a none => if isSelf a.base then some (s.setT (t.loadLanes vd a (t.mval a.vm) (t.readLanes a))) else none
  | .storeV vs a .self =>
    match region a.base with
    | some (.self off fmt span pln) =>
      let ls := t.storeLanes vs a fmt pln off
      let ok := ls.filter fun l => !laneBarred a l.2.1
      let t := t.spadPieces span a.bhkey (t.storeLeft vs a)
      let t := t.scatterRefusal a.base ((ls.filter fun l => laneBarred a l.2.1).map (·.2.1))
      some (s.setT (t.flags (ok.foldl (fun f l => f ||| l.2.2.2) 0)))
    | _ => some s
  | .storeV vs a (.remote dst ent) =>
    match region a.base with
    | some (.remote _ off fmt _) =>
      let ls := t.storeLanes vs a fmt 0 off
      let t := t.flags (ls.foldl (fun f l => f ||| l.2.2.2) 0)
      some (s.sendStore t dst ent a.id a.base a.bhkey (ls.flatMap fun l => writePieces l.2.2.1 l.2.1))
    | _ => some s
  | .storeV vs a (.global pas k') =>
    let w := laneBits a.ty / 8
    let ls := t.storeLanes vs a 0 0 0
    let bs := ls.flatMap fun l =>
      ((pas.drop (l.1 * w)).take w).zipIdx.map fun q =>
        (q.1, ((laneVas a.form a.ty a.base.toNat l.1).getD q.2 0, BitVec.ofNat 8 (l.2.2.1 / 256 ^ q.2)))
    some (s.setT (t.setTask k' fun k => k.store (bs.map fun b => (b.1, b.2.1, b.2.2))))
  | p => s.runPartY p

/-- Puts an X part in its place; with nothing before it, it issues at once if it can (R23). -/
def State.partV (s : State) (p : XPart) : State := s.part State.runPartV p

/-- The data of an issued split load is written to its register, once it is there and its port has room (R23, R24). -/
def Tile.landLoad (t : Tile) (o : OutLoad) : Option Tile :=
  let u := { t with fe := { t.fe with xl := t.fe.xl.filter fun q => q.seq != o.seq } }
  match o.part with
  | .loadY yd size signed _ (some bs) =>
    if (yd == 12 || yd == 13) && t.inY yd != 0 then none
    else (match u.gateY [] [yd] with
    | .go => some (u.putY yd (extend signed size (leNat bs)))
    | _ => none)
  | .loadV vd a (some data) => some (u.loadLanes vd a o.mask data)
  | _ => none

/-! ## A parts (R270, R272, R273) -/

/-- The access as its A part fixes it. -/
def Tile.vacc (t : Tile) (a : Word) (ty : LTy) (vm : MReg) (f : VForm) (id : Nat) : VAcc :=
  ⟨a, ty, vm, f, t.ur.pstride, t.sr.bhkey, t.user, t.task.hasSched, id, [], []⟩

/-- A vector load from base a. -/
def State.vload (s : State) (t : Tile) (ty : LTy) (vm : MReg) (vd : VReg) (a : Word) (f : VForm) : State :=
  match s.checkVec t a f ty false with
  | (.error c, t) => s.setT ({ s.t with tlb := t.tlb }.trap c)
  | (.ok (r, pas), t) =>
    if t.behindSelf r || t.noPlace then s.hold
    else match r with
      | .self .. =>
        let acc := t.vacc a ty vm f 0
        let late := vm != 0 || (match f with
          | .index _ => true
          | _ => false)
        (s.setT t).partV (.loadV vd acc (if late then none else some (t.readLanes acc)))
      | .remote l off fmt _ =>
        let (id, t) := t.addLoad s.tick .remote none 0 false a (lanesOf ty)
        let ps := (List.range (lanesOf ty)).map fun i => lanePieces f ty fmt 0 off 0 i 0
        (s.remoteLoad t r l id a ps vd).partV (.loadV vd (t.vacc a ty vm f id) none)
      | .global _ =>
        let (id, t) := t.globalLoad s.tick r pas none (laneBits ty / 8) false a (lanesOf ty)
        (s.setT t).partV (.loadV vd (t.vacc a ty vm f id) none)

/-- A vector store from base a, with the sources of its A part. -/
def State.vstore (s : State) (t : Tile) (ty : LTy) (vm : MReg) (vs : VReg) (a : Word) (f : VForm) (srcs : List XReg) : State :=
  match s.checkVec t a f ty true with
  | (.error c, t) => s.setT ({ s.t with tlb := t.tlb }.trap c)
  | (.ok (r, pas), t) =>
    if t.behindSelf r || t.noPlace then s.hold
    else match r with
      | .self .. =>
        let (id, t) := t.serial
        (s.setT t).partV (.storeV vs (t.vacc a ty vm f id) .self)
      | .remote l _ _ _ =>
        match t.freeEntry with
        | none => s.stall srcs
        | some n =>
          let (id, t) := t.takeEntry n l a
          (s.setT t).partV (.storeV vs (t.vacc a ty vm f id) (.remote l n))
      | .global _ =>
        let (id, t) := t.serial
        (s.setT t).partV (.storeV vs (t.vacc a ty vm f id) (.global pas t.openTask))

/-! ## The meanings (R268) -/

/-- VLD: the offset counts 64 bytes (R268). -/
def execVld (ty : LTy) (vm : MReg) (vd : VReg) (rs1 : XReg) (imm : BitVec 5) (s : State) : Out :=
  .next (s.aWord [rs1] [] fun s =>
    let a := s.t.popX rs1
    s.vload a.2 ty vm vd (a.1 + imm.signExtend 64 * 64) .unit)
/-- VST (R268). -/
def execVst (ty : LTy) (vm : MReg) (vd : VReg) (rs1 : XReg) (imm : BitVec 5) (s : State) : Out :=
  .next (s.aWord [rs1] [] fun s =>
    let a := s.t.popX rs1
    s.vstore a.2 ty vm vd (a.1 + imm.signExtend 64 * 64) .unit [rs1])
/-- VLDS: the stride counts elements (R268, R269). -/
def execVlds (ty : LTy) (vm : MReg) (vd : VReg) (rs1 rs2 : XReg) (s : State) : Out :=
  .next (s.aWord [rs1, rs2] [] fun s =>
    let a := s.t.popX rs1
    let b := a.2.popX rs2
    s.vload b.2 ty vm vd a.1 (.stride b.1.toInt))
/-- VSTS (R268, R269). -/
def execVsts (ty : LTy) (vm : MReg) (vd : VReg) (rs1 rs2 : XReg) (s : State) : Out :=
  .next (s.aWord [rs1, rs2] [] fun s =>
    let a := s.t.popX rs1
    let b := a.2.popX rs2
    s.vstore b.2 ty vm vd a.1 (.stride b.1.toInt) [rs1, rs2])
/-- VGATHER (R268, R269). -/
def execVgather (ty : LTy) (vm : MReg) (vd : VReg) (rs1 : XReg) (vs2 : VReg) (s : State) : Out :=
  .next (s.aWord [rs1] [] fun s =>
    let a := s.t.popX rs1
    s.vload a.2 ty vm vd a.1 (.index vs2))
/-- VSCATTER (R268, R269). -/
def execVscatter (ty : LTy) (vm : MReg) (vd : VReg) (rs1 : XReg) (vs2 : VReg) (s : State) : Out :=
  .next (s.aWord [rs1] [] fun s =>
    let a := s.t.popX rs1
    s.vstore a.2 ty vm vd a.1 (.index vs2) [rs1])
/-- VLDB: the offset counts 8 bytes, every lane reads element 0 (R268, R269). -/
def execVldb (ty : LTy) (vm : MReg) (vd : VReg) (rs1 : XReg) (imm : BitVec 5) (s : State) : Out :=
  .next (s.aWord [rs1] [] fun s =>
    let a := s.t.popX rs1
    s.vload a.2 ty vm vd (a.1 + imm.signExtend 64 * 8) .bcast)

/-- Whether a load waits for the mask that X is to supply (R221, R273). -/
def Tile.maskAwaited (t : Tile) (id : Nat) : Bool := t.fe.xq.any fun x => match x.work with
  | .part (.loadV _ a none) => a.id == id && a.vm != 0 && !isSelf a.base
  | _ => false

end Sys2Proof.Machine
end

