-- ==== Sys2Proof/Machine/EvNet.lean ====
section
/-! DEFINITION. EvNet: arrivals and responses of the network, receive queues, the mailbox, copies, translation walks, and
the ends of waits they bring (R31, R40, R92 to R94, R100, R107, R138 to R155, R323, R358, R359, R368 to R374, R401). -/

namespace Sys2Proof.Machine

/-! ## Counters and spills (R141, R144, R155, R359) -/

/-- Adds 1 to a 16-bit field that saturates. -/
def satInc (w : Word) (hi lo : Nat) : Word :=
  let n := bitsOf w hi lo
  if n < 0xFFFF then setField w hi lo (n + 1) else w

def Tile.netCount (t : Tile) (hi lo : Nat) : Tile := { t with ir := { t.ir with netstat := satInc t.ir.netstat hi lo } }

/-- Writes 32 B records straight to committed memory from a virtual address on; none on a fault (R372). -/
def State.putRecords (s : State) (part va : Nat) : List (List Byte) → Option State
  | [] => some s
  | r :: rest =>
    match s.sysPa part va .write with
    | none => none
    | some pa => (s.memPuts pa r).putRecords part (va + 32) rest

/-- The overflow area of tile p takes flits, or loses them: `bit` is the SPILLED or MBOX bit (R141, R144, R359). -/
def State.spill (s : State) (p bit : Nat) (flits : List (List Byte)) : State :=
  let t := s.tile p
  let first := !t.sr.ovfstat.getLsbD bit
  let t := if first then { t with sr := { t.sr with ovfstat := setField t.sr.ovfstat bit bit 1 } }.raise 11 0 else t
  let s := s.setTile p t
  let log := bitsOf t.sr.ovfsize 4 0
  let off := bitsOf t.sr.ovfstat 56 32
  let n := 32 * flits.length
  let lose :=
    (s.setTile p { t with sr := { t.sr with ovfstat := satInc t.sr.ovfstat 31 16 } }).threadEvent t 8 0
  if log = 0 ∨ 2 ^ log < off + n then lose
  else match s.gangOf t with
    | none => lose
    | some g =>
      match s.putRecords g.part (t.sr.ovfbase.toNat + off) flits with
      | none => lose
      | some s => s.onTile p fun t => { t with sr := { t.sr with ovfstat := setField t.sr.ovfstat 56 32 (off + n) } }

/-- A network entry for the mailbox of tile p: delivered, or spilled when it is full, spilled before or halted (R131, R144). -/
def State.netMail (s : State) (p : Nat) (w0 w1 : Word) : State :=
  let t := s.tile p
  if t.ctl.stat == .halted || Config.mailboxDepth ≤ t.ni.mbox.length || t.sr.ovfstat.getLsbD 4 then
    s.spill p 4 [leBytes 8 w0.toNat ++ leBytes 8 w1.toNat ++ leBytes 16 0]
  else s.setTile p { t with ni := { t.ni with mbox := t.ni.mbox ++ [(w0, w1)] } }

/-! ## Packets (R138 to R142, R152) -/

/-- The descriptor of a packet (R139). -/
def descriptor (k : Pkt) (stream : Bool) (tick : Nat) : List Byte :=
  let w0 := k.src + k.queue * 2 ^ 11 + k.data.length / 4 * 2 ^ 13 + (if k.timed then 2 ^ 16 else 0) + (if stream then 2 ^ 17 else 0) +
    k.seq % 2 ^ 32 * 2 ^ 32
  leBytes 8 w0 ++ leBytes 8 k.tag.toNat ++ leBytes 8 tick ++ leBytes 8 0

/-- The flits of a packet: its descriptor, then its payload. -/
def Pkt.flits (k : Pkt) (stream : Bool) (tick : Nat) : List (List Byte) :=
  descriptor k stream tick :: (List.range (k.data.length / 4)).map fun i =>
    ((k.data.drop (4 * i)).take 4).flatMap fun w => leBytes 8 w.toNat

/-- Bytes in use in a queue. -/
def RecvQ.used (q : RecvQ) : Nat := (q.delivered.toList ++ q.ents).foldl (fun a e => a + e.size) 0

/-- Writes flits to queue n, wrapping at its end (R139). A stream queue that MTS has made smaller than its bound is written without a check of
its room, over packets that are not yet delivered: R142 says that room always suffices (DESIGN CHOICE, log 77). -/
def Tile.rqWrite (t : Tile) (n : Nat) (src : Nat) (flits : List (List Byte)) : Tile :=
  let q := t.rq n
  let base := t.rqBase n
  let size := 2 ^ t.rqLog n
  let t := flits.zipIdx.foldl (fun t f => t.spadPut 0 0 (base + (q.wr + 32 * f.2) % size) 32 (leNat f.1)) t
  let len := 32 * flits.length
  t.setRq n { q with wr := (q.wr + len) % size, ents := q.ents ++ [⟨base + q.wr, len, src⟩] }

/-- A packet performs at its destination: written to its queue, spilled, or discarded from a stream (R139, R141, R142). -/
def State.performPkt (s : State) (p : Nat) (k : Pkt) : State :=
  let t := s.tile p
  if k.queue = 4 then s.netMail p (mboxWord 3 0 0 0 k.src) k.tag
  else
    let q := t.rq k.queue
    let flits := k.flits q.stream s.tick
    let off := t.ctl.stat == .halted || t.rqLog k.queue == 0
    if q.stream then
      if off then (s.setTile p (t.netCount 47 32)).send t k.src (.slotBack k.queue (some k.seq))
      else s.setTile p (t.rqWrite k.queue k.src flits)
    else if off || t.sr.ovfstat.getLsbD k.queue || 2 ^ t.rqLog k.queue < q.used + 32 * flits.length then
      (s.setTile p (t.netCount 47 32)).spill p k.queue flits
    else s.setTile p (t.rqWrite k.queue k.src flits)

/-- The key of a packet's sequence at its receiver. -/
def Pkt.key (k : Pkt) : Nat := seqKey k.src k.queue

/-- A packet in its turn: performed, the next number expected, acknowledged (R138, R152). -/
def State.inTurn (s : State) (p : Nat) (k : Pkt) : State :=
  let s := s.performPkt p k
  let t := s.tile p
  let t := { t with ni := { t.ni with expect := smPut k.key ((k.seq + 1) % 2 ^ 32) t.ni.expect } }
  (s.setTile p t).send t k.src (.ack k.queue k.seq)

/-- Buffered successors follow while there are any (R152). -/
def State.drain (s : State) (p : Nat) : Nat → State
  | 0 => s
  | n + 1 =>
    let t := s.tile p
    match t.ni.reorder.find? fun k => k.seq == smGet 0 k.key t.ni.expect with
    | none => s
    | some k =>
      let s := s.setTile p { t with ni := { t.ni with reorder := t.ni.reorder.filter fun m => m != k } }
      (s.inTurn p k).drain p n

/-- An arriving packet: in turn, buffered, or refused with a retry (R152). -/
def State.pktArrive (s : State) (f : Flight) (p : Nat) (k : Pkt) : State :=
  let t := s.tile p
  if k.seq = smGet 0 k.key t.ni.expect then (s.inTurn p k).drain p Config.reorderDepth
  else if t.ni.reorder.length < Config.reorderDepth then s.setTile p { t with ni := { t.ni with reorder := t.ni.reorder ++ [k] } }
  else s.send t f.src (.retry k) (s.tick + 64)

/-- PACKET_ARRIVAL of network item k (R138 to R143, R152). -/
def execPacketArrival (k : Nat) (s : State) : Out :=
  .next (match s.arrival k with
    | none => s
    | some (f, s1) =>
      match f.msg, s1.flightTile f f.dst with
      | .packet m, some p => if m.queue = 4 then s else s1.pktArrive f p m
      | _, _ => s)

/-- Sends an item that an agreement has already covered (R406). -/
def State.sendAgain (s : State) (g : Nat) (src dst : Nat) (m : Msg) : State :=
  { s with net := s.net ++ [⟨g, src, dst, m, 0, false, s.tick, 0⟩] }

/-- RETRY_RESEND of network item k: 64 ticks after its refusal the sender sends the packet or the command again (R152, R155, R172). -/
def execRetryResend (k : Nat) (s : State) : Out :=
  .next (match s.arrival k with
    | none => s
    | some (f, s1) =>
      match f.msg, s1.flightTile f f.dst with
      | .retry m, some p =>
        let t := (s1.tile p).netCount 31 16
        (s1.setTile p t).sendAgain f.g t.lidx f.src (.packet m)
      | .retryCmd ent id cap cmd clean, some p =>
        let t := (s1.tile p).netCount 31 16
        (s1.setTile p t).sendAgain f.g t.lidx f.src (.mcmd ent id cap cmd clean)
      | _, _ => s)

/-- PACKET_ACK_ARRIVAL of network item k: a replay-buffer entry frees (R138). -/
def execPacketAckArrival (k : Nat) (s : State) : Out :=
  .next (match s.arrival k with
    | none => s
    | some (f, s1) =>
      match f.msg, s1.flightTile f f.dst with
      | .ack q n, some p => s1.onTile p fun t => { t with ni := { t.ni with replay := t.ni.replay.erase (f.src, q, n) } }
      | _, _ => s)

/-- STREAM_SLOT_RETURN of network item k: the sender's count rises, a refused packet is named by a KIND 5 entry, and an SNDH that
waits for a slot of that stream executes again (R40, R45, R142). -/
def execStreamSlotReturn (k : Nat) (s : State) : Out :=
  .next (match s.arrival k with
    | none => s
    | some (f, s1) =>
      match f.msg, s1.flightTile f f.dst with
      | .slotBack q lost, some p =>
        let s := s1.onTile p fun t =>
          let t := t.slotAdd f.src q (· + 1)
          let go := fun (d n : Nat) (st : Stat) => if d = f.src ∧ n = q then { t with ctl := { t.ctl with stat := st } } else t
          match t.ctl.stat with
          | .waiting (.stream d n) => go d n .running
          | .stopped (some (.stream d n)) => go d n (.stopped none)
          | .moving (some (.stream d n)) => go d n (.moving none)
          | _ => t
        (match lost with
        | some n => s.netMail p (mboxWord 5 0 0 0 f.src) (BitVec.ofNat 64 (n % 2 ^ 32 + q * 2 ^ 32))
        | none => s)
      | _, _ => s)

/-- NOTE_ARRIVAL of network item k: a note in its sequence, or another network entry for the mailbox (R138, R144). -/
def execNoteArrival (k : Nat) (s : State) : Out :=
  .next (match s.arrival k with
    | none => s
    | some (f, s1) =>
      match f.msg, s1.flightTile f f.dst with
      | .packet m, some p => if m.queue = 4 then s1.pktArrive f p m else s
      | .mail w0 w1, some p => s1.netMail p w0 w1
      | _, _ => s)

/-- The copy whose completion entry was held is over (R144). -/
def Tile.copyOver (t : Tile) (id : Nat) : Tile := { t with copies := t.copies.filter fun c => c.id != id || c.state != .complete }

/-- LOCAL_MAILBOX_DELIVERY on tile p: the oldest held entry of its own engines and copies enters the mailbox (R144). -/
def execLocalMailboxDelivery (p : Nat) (s : State) : Out :=
  .next (s.atTile p fun t =>
    match t.ni.held with
    | [] => t
    | e :: r =>
      if Config.mailboxDepth ≤ t.ni.mbox.length then t
      else
        let t := { t with ni := { t.ni with held := r, mbox := t.ni.mbox ++ [e] } }
        if bitsOf e.1 3 0 = 1 then t.copyOver (bitsOf e.1 31 16) else t)

/-! ## Remote accesses (R92 to R94, R100, R134) -/

def Msg.isRemote : Msg → Bool
  | .store .. | .load .. => true
  | _ => false

/-- Whether an earlier remote access of the same thread to the same tile is still under way (R100, R134). Remote loads and stores keep their order so on the
network: they take no place of the reorder buffer and are refused with no retry (R152 does not say: DESIGN CHOICE, log 83). -/
def State.remoteBehind (s : State) (k : Nat) (f : Flight) : Bool :=
  (s.net.take k).any fun h => h.g == f.g && h.src == f.src && h.dst == f.dst && h.msg.isRemote

/-- Whether a PERMIT field of tile t grants logical index l (R93, R94). -/
def Tile.grants (t : Tile) (hi lo l : Nat) : Bool :=
  l == t.lidx || (t.ctl.stat != .halted && (let n := bitsOf t.ir.permit hi lo; n != 0 && domLevel l t.lidx ≤ n))

/-- The span of a remote address. -/
def spanOf (a : Word) : Nat :=
  match region a with
  | some (.remote _ _ _ span) => span
  | some (.self _ _ span _) => span
  | _ => 0

/-- REMOTE_STORE_ARRIVAL of network item k: it is refused whole, or performs, 16 B unit by unit; what is left stands at the item's place, and the
acknowledgement goes when nothing is (R36, R94, R97, R100, R131). -/
def execRemoteStoreArrival (k : Nat) (s : State) : Out :=
  .next (match s.arrival k with
    | none => s
    | some (f, s1) =>
      match f.msg, s1.flightTile f f.dst with
      | .store ent id va key ws timed begun, some p =>
        if s.remoteBehind k f then s
        else
          let t := s1.tile p
          let barred := t.task.hasSched && ws.any fun w => Config.schedBase ≤ w.1.off
          if begun || (t.grants 5 3 f.src && t.ctl.stat != .halted && !barred) then
            let at' := fun (w : Piece × Nat) => placeOf (spanOf va) key w.1.off
            let ws' := ws.partition fun w => touchesNow s.steps (ws.map at') (at' w)
            let t := t.spadPieces (spanOf va) key ws'.1
            if ws'.2.isEmpty then (s1.setTile p t).send t f.src (.storeAck ent)
            else { s with net := s.net.modify k fun f => { f with msg := .store ent id va key ws'.2 timed true } }.setTile p t
          else s1.send t f.src (.refusal ⟨va, BitVec.ofNat 5 ent, false, false⟩ (some ent) none)
      | _, _ => s)

/-- A journal entry frees (R92). -/
def Tile.freeJournal (t : Tile) (ent : Nat) : Tile := { t with ni := { t.ni with journal := t.ni.journal.filter fun e => e.num != ent } }

/-- REMOTE_STORE_ACK of network item k (R92). -/
def execRemoteStoreAck (k : Nat) (s : State) : Out :=
  .next (match s.arrival k with
    | none => s
    | some (f, s1) =>
      match f.msg, s1.flightTile f f.dst with
      | .storeAck ent, some p => s1.onTile p fun t => t.freeJournal ent
      | _, _ => s)

/-- REMOTE_LOAD_ARRIVAL of network item k: it is refused, or its elements are read, 16 B unit by unit; what it has read stands at the item's place
until nothing is left (R94, R97, R100). -/
def execRemoteLoadArrival (k : Nat) (s : State) : Out :=
  .next (match s.arrival k with
    | none => s
    | some (f, s1) =>
      match f.msg, s1.flightTile f f.dst with
      | .load id va key places low got, some p =>
        if s.remoteBehind k f then s
        else
          let t := s1.tile p
          if !got.isEmpty || (t.grants 2 0 f.src && t.ctl.stat != .halted) then
            let ps := places.flatMap fun l => l.map fun q => placeOf (spanOf va) key q.off
            let left := leftOf ps got
            if left.all (touchesNow s.steps left) then
              s1.send t f.src (.loadResp id (places.map fun ps => BitVec.ofNat 64 (readPieces (t.spadSeen got (spanOf va) key) ps)) true)
            else { s with net := s.net.modify k fun f => { f with msg := .load id va key places low (t.readUnits s.steps ps got) } }
          else
            (s1.send t f.src (.loadResp id (places.map fun _ => 0) false)).send t f.src (.refusal ⟨va, low, true, false⟩ none (some id))
      | _, _ => s)

/-! ## Data that returns (R223, R246, R323) -/

/-- Fills the data of a waiting X part. -/
def XPart.fill (x : XPart) (id : Nat) (size : Nat) (data : List Word) : XPart :=
  match x with
  | .loadY yd n sg (some k) none => if k = id then .loadY yd n sg (some k) (some (leBytes size (data.headD 0).toNat)) else x
  | .loadV vd a none => if a.id = id ∧ !isSelf a.base then .loadV vd a (some data) else x
  | x => x

/-- A register value that was outstanding when registers were saved belongs to the saved registers (R110, R56). -/
def Regs.patch (r : Regs) (rd : XReg) (v : Word) : Regs := (({ Tile.reset with regs := r } : Tile).putX rd v).regs

/-- A load or AMO returns: its register or X part receives the data (R223), and registers and parts saved while it was theirs. -/
def Tile.land (t : Tile) (l : Load) (data : List Word) : Tile :=
  let t := { t with loads := t.loads.filter fun m => m.id != l.id }
  match l.rd with
  | some rd =>
    let v := extend l.signed l.size (data.headD 0).toNat
    let t := if l.dead.isNone then t.putX rd v else t
    let owns := fun (n : Nat) => l.id < n && (match l.dead with
      | some k => decide (n ≤ k)
      | none => true)
    { t with
      task := { t.task with cks := t.task.cks.map fun c => if owns c.serial then { c with regs := c.regs.patch rd v } else c }
      snap := t.snap.map fun c => if owns c.serial then { c with regs := c.regs.patch rd v } else c }
  | none =>
    let fills := fun (os : List OutLoad) => os.map fun o => { o with part := o.part.fill l.id l.size data }
    { t with
      fe := { t.fe with
        xq := t.fe.xq.map fun x => match x.work with
          | .part q => { x with work := .part (q.fill l.id l.size data) }
          | _ => x
        xl := fills t.fe.xl }
      snap := t.snap.map fun c => { c with xl := fills c.xl } }

/-- What the response of a load writes to a register, as the touchmark of a pair takes it (R407). -/
def Load.markBytes (l : Load) (data : List Word) : List Byte :=
  if l.rd.isSome && l.dead.isNone then leBytes 8 (extend l.signed l.size (data.headD 0).toNat).toNat else []

def Tile.findLoad (t : Tile) (id : Nat) : Option Load := t.loads.find? fun l => l.id == id

/-- REMOTE_LOAD_RESPONSE of network item k (R94, R246). -/
def execRemoteLoadResponse (k : Nat) (s : State) : Out :=
  .next (match s.arrival k with
    | none => s
    | some (f, s1) =>
      match f.msg, s1.flightTile f f.dst with
      | .loadResp id data _, some p =>
        (match (s1.tile p).findLoad id with
        | some l => (s1.onTile p fun t => t.land l data).markMore p (l.markBytes data)
        | none => s1)
      | _, _ => s)

/-- REFUSAL_ARRIVAL of network item k: the journal entry of a store frees, and the refusal is queued or lost (R92, R358). -/
def execRefusalArrival (k : Nat) (s : State) : Out :=
  .next (match s.arrival k with
    | none => s
    | some (f, s1) =>
      match f.msg, s1.flightTile f f.dst with
      | .refusal r ent _, some p => s1.onTile p fun t => (match ent with
        | some n => t.freeJournal n
        | none => t).refuse r
      | _, _ => s)

/-- The lanes of a global load from its bytes. -/
def laneWords (w : Nat) : Nat → List Byte → List Word
  | 0, _ => []
  | n + 1, bs => BitVec.ofNat 64 (leNat (bs.take w)) :: laneWords w n (bs.drop w)

/-- Whether an earlier AMO of the thread to a line of a load has not acted (R324). -/
def State.amoBefore (s : State) (t : Tile) (id : Nat) (pas : List Nat) : Bool :=
  s.net.any fun f => some f.g == t.gang && f.src == t.lidx && (match f.msg with
    | .amo n pa .. => n < id && (linesOf pas).contains (pa / 64)
    | _ => false)

/-- GLOBAL_LOAD_RESPONSE on tile p of the load with serial k: the bytes it takes that its task did not hold come from committed memory, and
their lines join the read set (R107, R108, R324). Bytes that a gang boundary has staged and not published are those that it reads: it is part
of a run again after an abort (R112), also where the background task makes it (DESIGN CHOICE, log 82). -/
def execGlobalLoadResponse (p k : Nat) (s : State) : Out :=
  .next (
    let t := s.tile p
    match t.findLoad k with
    | none => s
    | some l =>
      match l.kind with
      | .global bytes task =>
        let pas := bytes.map (·.1)
        if t.gang.any s.ejected || s.amoBefore t l.id pas || t.maskAwaited l.id || t.fe.late.any (fun e => match e.what with
          | .read id .. => id == l.id
          | _ => false) then s
        else
          let g := s.gangOf t
          let bs := bytes.map fun b => b.2.getD (s.committed g b.1)
          let t := t.setTask task fun q => q.read ((bytes.filter fun b => b.2.isNone).map (·.1))
          let ws := laneWords l.size l.lanes bs
          (s.setTile p (t.land l ws)).markMore p (l.markBytes ws)
      | _ => s)

/-! ## AMOs (R323, R401) -/

/-- The record that the k-th AMO of a replay matches, and the records that remain; `true` when it differs, which discards it and
every later record (R401). -/
def Undo.replayed (u : Undo) (k : Nat) (r : AmoRec) : Option Word × Undo × Bool :=
  match smFind k u.replay with
  | none => (none, u, false)
  | some h =>
    if { r with old := h.old } = h then (some h.old, { u with replay := smDel k u.replay }, false)
    else (none, { u with replay := u.replay.filter fun e => e.1 < k }, true)

/-- Whether an earlier AMO of the same thread to the same slice has not acted (R324). -/
def State.amoAhead (s : State) (k : Nat) (f : Flight) (pa : Nat) : Bool :=
  (s.net.take k).any fun h => h.g == f.g && h.src == f.src && (match h.msg with
    | .amo _ a .. => sliceOf a == sliceOf pa
    | _ => false)

/-- AMO_ACTION of network item k: one indivisible step on committed memory, or the recorded value in a replay (R323, R401). An AMO
that was issued before the snapshot is none of this superstep's; that of a thread whose gang has ended acts all the same (R334). What a replay matches is
the thread's own address, also where the frame has moved since (R376). -/
def execAmoAction (k : Nat) (s : State) : Out :=
  .next (match s.arrival k with
    | none => s
    | some (f, s1) =>
      match f.msg, s1.flightTile f f.src with
      | .amo id pa w form b c, some p =>
        if s.amoAhead k f pa then s
        else if (s1.tile p).gang != some f.g then
          s1.memPuts pa (leBytes (wBytes w) (form.apply w (s1.memNat pa (wBytes w)) b.toNat c.toNat))
        else
          let t := s1.tile p
          let n := wBytes w
          let old := s1.memNat pa n
          let r : AmoRec := ⟨((t.findLoad id).map (·.va)).getD (BitVec.ofNat 64 pa), w, form, b, c, BitVec.ofNat 64 old⟩
          let (hit, t) := match t.undo.calls.findIdx? (· == id) with
            | none => (none, t)
            | some i =>
              let (hit, u, differs) := t.undo.replayed i r
              let old' := hit.getD (BitVec.ofNat 64 old)
              let t := { t with undo := { u with amos := smPut i { r with old := old' } u.amos } }.claim 32
              (hit, if differs then t.error 6 else t)
          let old' := (hit.getD (BitVec.ofNat 64 old)).toNat
          let s := s1.setTile p t
          let s := if hit.isSome then s else s.memPuts pa (leBytes n (form.apply w old b.toNat c.toNat))
          s.send t f.src (.amoResp id (pa / 2 ^ 36) (wSext w old'))
      | _, _ => s)

/-- AMO_RESPONSE of network item k (R323). -/
def execAmoResponse (k : Nat) (s : State) : Out :=
  .next (match s.arrival k with
    | none => s
    | some (f, s1) =>
      match f.msg, s1.flightTile f f.dst with
      | .amoResp id _ old, some p =>
        (match (s1.tile p).findLoad id with
        | some l => (s1.onTile p fun t => t.land l [old]).markMore p (l.markBytes [old])
        | none => s1)
      | _, _ => s)

/-! ## Copies (R148, R149) -/

/-- The tile an endpoint's scratchpad belongs to, and its place; none for global memory. -/
def State.endTile (s : State) (p : Nat) (a : Word) : Option (Nat × Nat × Nat) :=
  match region a with
  | some (.self off _ span _) => some (p, off, span)
  | some (.remote l off _ span) =>
    match s.gangOf (s.tile p) with
    | none => none
    | some g => (g.phys l).map fun q => (q, off, span)
  | _ => none

/-- Whether an endpoint grants a copy launched by tile p (R94, R131). -/
def State.copyGrant (s : State) (p : Nat) (a : Word) (hi lo : Nat) : Bool :=
  match s.endTile p a with
  | none => true
  | some (q, _, _) => q == p || ((s.tile q).ctl.stat != .halted && (s.tile q).grants hi lo (s.tile p).lidx)

/-- Whether a copy writes into a schedule-table region (R36). -/
def State.copyBarred (s : State) (p : Nat) (c : CpRegs) : Bool :=
  let n := rowBytes c.clen.toNat (copyBits c.csrc c.cdst).2
  (List.range c.crows.toNat).any fun j =>
    match s.endTile p (rowAddr c.cdst c.cdstr j) with
    | none => false
    | some (q, off, _) => (s.tile q).task.hasSched && Config.schedBase < off + n

/-- Whether both endpoints grant every row of a copy. -/
def State.copyGranted (s : State) (p : Nat) (c : CpRegs) : Bool :=
  (List.range c.crows.toNat).all fun j =>
    s.copyGrant p (rowAddr c.csrc c.csstr j) 8 6 && s.copyGrant p (rowAddr c.cdst c.cdstr j) 11 9

def Tile.setCopy (t : Tile) (c : Copy) : Tile := { t with copies := t.copies.map fun d => if d.id = c.id then c else d }

/-- Whether a split store to the own scratchpad that stands before place n has no data yet (R101, R104). -/
def Tile.storesBefore (t : Tile) (n : Nat) : Bool :=
  t.fe.xq.any fun x => x.seq < n && (match x.work with
    | .part (.storeY _ _ _ _ .self _) => true
    | .part (.storeV _ _ .self) => true
    | _ => false)

/-- Whether the routers hold a copy's traffic, as the context of another tile at one of its ends moves (R419 step 3). -/
def State.copyHeld (s : State) (p : Nat) (c : CpRegs) : Bool := [c.csrc, c.cdst].any fun a => match s.endTile p a with
  | some (q, _, _) => q != p && (s.tile q).ctl.moveEnd.isSome
  | none => false

/-- COPY_START on tile p of the copy with identifier id, at an enabled slot and before a gang switch has ended it (R387): after the thread's earlier stores to its own scratchpad (R104) and any
ORDERED wait it takes both grants, or is refused (R2, R94, R148, R149). Its reads take one route (R151, log 76). -/
def execCopyStart (p id : Nat) (s : State) : Out :=
  .next (
    let t := s.tile p
    match t.copies.findIdx? fun c => c.id == id && c.state == .waiting with
    | none => s
    | some n =>
      match t.copies[n]? with
      | none => s
      | some c =>
        if !s.slotOn p || t.gang.any s.ejected || (c.regs.cflags.getLsbD 0 && n != 0) || t.storesBefore c.place || s.copyHeld p c.regs then s
        else if t.pair.partner.isSome && decide (t.pair.agreed < c.nth) then s
        else
          let ok := s.copyGranted p c.regs && !s.copyBarred p c.regs
          let t := match region c.regs.csrc with
            | some (.self ..) => t
            | _ => t.route
          s.setTile p (t.setCopy { c with state := .moving, status := if ok then 0 else 1, since := s.tick }))

/-- The running state of a copy. -/
structure CopyAcc where
  s : State
  c : Copy
  stop : Bool

/-- One byte of global memory as a copy reads it: its task's GSB, then committed memory (R104). -/
def State.copyByte (s : State) (t : Tile) (c : Copy) (pa : Nat) : Byte :=
  match smFind pa (t.getTask c.task).gsb with
  | some b => b.2
  | none => s.committed (s.gangOf t) pa

/-- Translation for a copy; none is a fault. -/
def State.copyPa (s : State) (t : Tile) (c : Copy) (va : Nat) (need : Access) : Option Nat :=
  match s.partOf t with
  | none => none
  | some q =>
    match s.walk (s.walkersOf t) q va need c.user with
    | .ok e => some (e.pa va)
    | .error _ => none

/-- The walkers of a die keep what a walk has read (R371). -/
def Die.keepWalk (d : Die) (es : List WalkEnt) : Die := { d with wcache := es.filter (fun e => !d.wcache.contains e) ++ d.wcache }

/-- The walkers of a die keep what the walk of an address of a partition reads. -/
def State.keepWalk (s : State) (d part va : Nat) : State :=
  match s.part? part with
  | none => s
  | some q => s.onDie d fun x => x.keepWalk (s.walkEnts x.wcache q va)

/-- The walkers of a tile's die keep what the walks for a copy have read (R371). -/
def State.copyWalked (s : State) (p : Nat) (vas : List Nat) : State :=
  match s.gangOf (s.tile p) with
  | none => s
  | some g => ((vas.map (· / 65536)).eraseDups).foldl (fun s vf => s.keepWalk (p / 192) g.part (vf * 65536)) s

/-- The virtual pages of a copy's rows in global memory. -/
def Copy.pages (c : Copy) : List Nat :=
  let b := copyBits c.regs.csrc c.regs.cdst
  ((List.range c.regs.crows.toNat).flatMap fun j => [(rowAddr c.regs.csrc c.regs.csstr j, b.1), (rowAddr c.regs.cdst c.regs.cdstr j, b.2)].flatMap fun e =>
    match region e.1 with
    | some (.global va) =>
      let first := va / 65536
      (List.range ((va + rowBytes c.regs.clen.toNat e.2 + 65535) / 65536 - first)).map (first + ·)
    | _ => []).eraseDups

/-- A copy with a miss whose frame's walk is under way joins that walk, and one whose router has 64 pages queued waits; none when neither is so (R371). -/
def State.copyJoins (s : State) (p : Nat) (c : Copy) : Option State :=
  let t := s.tile p
  let walks := (s.die (p / 192)).walks
  match s.gangOf t with
  | none => none
  | some g =>
    if walks.isEmpty then none
    else
      let vfs := c.pages.filter fun v => !t.tlb.any (·.hits (v * 65536))
      match walks.findIdx? fun w => w.part == g.part && vfs.contains w.vf with
      | some k => some (s.onDie (p / 192) fun d => { d with walks := d.walks.modify k fun w =>
          { w with waiters := if w.waiters.any (fun u => u.1 == p) then w.waiters else w.waiters ++ [(p, BitVec.ofNat 64 (w.vf * 65536), .read)] } })
      | none => if vfs.any (fun v => decide (64 ≤ (walks.filter fun w => w.vf / 256 % 4 == v / 256 % 4).length)) then some s else none

/-- Reads element i of a row: its code and the new state; none on a translation fault. -/
def State.copyRead (s : State) (p : Nat) (c : Copy) (row : Word) (bits i : Nat) : Option (Nat × State) :=
  match s.endTile p row with
  | some (q, off, span) => some (readPieces ((s.tile q).spadRead span c.bhkey) (elemPieces off bits i), s)
  | none =>
    let ps := elemPieces row.toNat bits i
    let t := s.tile p
    match ps.mapM fun x => (s.copyPa t c x.off .read).map fun pa => (pa, x) with
    | none => none
    | some xs =>
      let v := xs.foldr (fun x acc => (s.copyByte t c x.1).toNat / 2 ^ x.2.bit % 2 ^ x.2.n + 2 ^ x.2.n * acc) 0
      some (v, (s.setTile p (t.setTask c.task fun k => k.read (xs.map (·.1)))).copyWalked p (ps.map (·.off)))

/-- Writes element i of a row; none on a translation fault. -/
def State.copyWrite (s : State) (p : Nat) (c : Copy) (row : Word) (bits i v : Nat) : Option State :=
  match s.endTile p row with
  | some (q, off, span) => some (s.onTile q fun t => t.spadPieces span c.bhkey (writePieces v (elemPieces off bits i)))
  | none =>
    let t := s.tile p
    match (writePieces v (elemPieces row.toNat bits i)).mapM fun x => (s.copyPa t c x.1.off .write).map fun pa => (pa, x) with
    | none => none
    | some xs =>
      some ((s.setTile p (t.setTask c.task fun k =>
        k.store (xs.map fun x => (x.1, x.2.1.off, setBits (s.copyByte t c x.1) x.2.1.bit x.2.1.n x.2.2)))).copyWalked p (xs.map (·.2.1.off)))

/-- An element converted between two windows (R69, R73, R148); to or from global memory its bits move unchanged. -/
def copyConvert (src dst : Word) (v : Nat) : Nat × Fl :=
  match copyFmt src dst, endFmt src, endFmt dst with
  | some (f, h), some _, some _ =>
    if f = h then
      match nfKind f with
      | .flt k => if (k.dec v).isNan then (k.nan, flIf (k.dec v).snan flInvalid) else (v, 0)
      | _ => (v, 0)
    else convert h f .rne true v
  | _, _, _ => (v, 0)

/-- The row of an element of a copy, and its place there. -/
def Copy.at (c : Copy) (e : Nat) : Nat × Nat := (e / c.regs.clen.toNat, e % c.regs.clen.toNat)

/-- The elements of a row that begin in the 16 B unit of element e, for rows from base on with elements of some bits: the first, and the
one behind the last (R97). -/
def Copy.unitRun (c : Copy) (base stride : Word) (bits e : Nat) : Nat × Nat :=
  let r := c.at e
  let o := 8 * (rowAddr base stride r.1).toNat
  let u := (o + r.2 * bits) / 128 * 128
  let hi := (u + 128 - o + bits - 1) / bits
  (r.1 * c.regs.clen.toNat + (u - o + bits - 1) / bits, r.1 * c.regs.clen.toNat + min hi c.regs.clen.toNat)

/-- A copy reads element e, unless it has. -/
def CopyAcc.fetch (p : Nat) (a : CopyAcc) (e : Nat) : CopyAcc :=
  if a.stop || (smFind e a.c.got).isSome then a
  else
    let r := a.c.regs
    match a.s.copyRead p a.c (rowAddr r.csrc r.csstr (a.c.at e).1) (copyBits r.csrc r.cdst).1 (a.c.at e).2 with
    | none => { a with stop := true }
    | some (v, s) => { a with s := s, c := { a.c with got := smPut e v a.c.got } }

/-- A copy writes its next element, read before or now (R148). -/
def CopyAcc.step (p : Nat) (a : CopyAcc) : CopyAcc :=
  let e := a.c.moved
  let a := a.fetch p e
  if a.stop then a
  else
    let r := a.c.regs
    let w := copyConvert r.csrc r.cdst (smGet 0 e a.c.got)
    match a.s.copyWrite p a.c (rowAddr r.cdst r.cdstr (a.c.at e).1) (copyBits r.csrc r.cdst).2 (a.c.at e).2 w.1 with
    | none => { a with stop := true }
    | some s => { s := s, c := { a.c with moved := e + 1, got := smDel e a.c.got, flags := a.c.flags ||| w.2.setWidth 5 }, stop := false }

/-- Elements of a copy. -/
def Copy.total (c : Copy) : Nat := c.regs.crows.toNat * c.regs.clen.toNat

/-- The elements that a copy reads ahead next: a free number of them from a free one on, in whole 16 B units (R97, R104, log 76). -/
def Copy.reads (c : Copy) (seed : Nat) : List Nat :=
  let n := Config.choice seed (2 * c.id)
  let left := c.total - c.moved
  if n = 0 ∨ left = 0 then []
  else
    let first := c.moved + Config.choice seed (2 * c.id + 1) % left
    let last := min (c.total - 1) (first + n - 1)
    let run := c.unitRun c.regs.csrc c.regs.csstr (copyBits c.regs.csrc c.regs.cdst).1
    let lo := max c.moved (min first (run first).1)
    ((List.range (max (last + 1) (run last).2 - lo)).map (lo + ·)).filter fun e => (smFind e c.got).isNone

/-- How many elements a copy writes next, in whole 16 B units of its destination: some or all of those left, a free number (R97, R104). -/
def Copy.chunk (c : Copy) : Nat :=
  let n := Config.copyChunk c.id c.moved
  let left := c.total - c.moved
  if n = 0 ∨ left < n then left
  else max n ((c.unitRun c.regs.cdst c.regs.cdstr (copyBits c.regs.csrc c.regs.cdst).2 (c.moved + n - 1)).2 - c.moved)

/-- A copy goes on: it reads elements ahead, or writes the next ones (R104). -/
def State.copyMove (s : State) (p : Nat) (c : Copy) : CopyAcc :=
  match c.reads s.steps with
  | [] => (List.range c.chunk).foldl (fun a _ => a.step p) ⟨s, c, false⟩
  | es => es.foldl (CopyAcc.fetch p) ⟨s, c, false⟩

/-- Whether a background copy to or from global memory waits until the boundary that has merged its task is over (R35, R104). -/
def Tile.copyWaits (t : Tile) (c : Copy) : Bool :=
  let glob := fun (a : Word) => match region a with
    | some (.global _) => true
    | _ => false
  c.task.isNone && t.task.bg.merged && (glob c.regs.csrc || glob c.regs.cdst)

/-- COPY_COMPLETE on tile p of the moving copy with identifier id, at an enabled slot: further elements move; after the last one mailbox entry of KIND 1
(R2, R104, R144, R148, R149). -/
def execCopyComplete (p id : Nat) (s : State) : Out :=
  .next (
    match (s.tile p).copies.find? fun c => c.id == id && c.state == .moving with
    | none => s
    | some c =>
      if !s.slotOn p || (s.tile p).gang.any s.ejected || (s.tile p).copyWaits c || s.copyHeld p c.regs then s
      else match (if c.status = 1 then none else s.copyJoins p c) with
      | some u => u
      | none =>
        let a : CopyAcc := if c.status = 1 then ⟨s, c, false⟩ else s.copyMove p c
        let t := a.s.tile p
        if c.status != 1 && !a.stop && a.c.moved < c.total then a.s.setTile p (t.setCopy a.c)
        else
          let c := { a.c with state := .complete, status := if a.stop then 2 else c.status }
          let t := if a.stop then t.raise 12 (BitVec.ofNat 64 id) else t
          let w := mboxWord 1 c.status c.flags.toNat id 0
          let now := t.mboxRoom
          let t := (t.setCopy c).post w (BitVec.ofNat 64 c.moved)
          a.s.setTile p (if now then t.copyOver id else t))

/-! ## Escape (R154) -/

/-- Items on the shared pools of the router grid and the rings; carries, ring transfers and ready reports have wires of their own (R128, R163, R197). -/
def Msg.onGrid : Msg → Bool
  | .carry .. | .ring .. | .credit | .ready _ => false
  | _ => true

/-- Traffic of the Request class (R150): what a tile asks of another or of memory, TIMED traffic apart. -/
def Msg.isRequest (m : Msg) : Bool := m.leavesPair && !m.isTimed

/-- The dies that traffic passes from one die to another in a ring direction, both ends among them (R18, R151). -/
def ringDies (a b dir : Nat) : List Nat := a :: if a = b then [] else ringNodes a b dir

/-- The die on which what waits on its way from one die to another escapes: one of its way, which the spec leaves open (R154, R155; log 76). -/
def State.escapeDie (s : State) (a b dir since : Nat) : Nat :=
  let ds := ringDies a b dir
  ds.getD (Config.choice s.steps since % ds.length) a

/-- The physical die from which an item comes: that of its source tile, or of the stack that has performed an atomic. -/
def State.itemFrom (s : State) (f : Flight) : Nat :=
  match f.msg with
  | .amoResp _ stack _ => stack
  | _ => ((s.flightTile f f.src).getD 0) / 192

/-- The physical die to which an item goes: that of its destination tile, or of the stack that an atomic acts on. -/
def State.itemDie (s : State) (f : Flight) (p : Nat) : Nat :=
  match f.msg with
  | .amo _ pa .. => pa / 2 ^ 36
  | .damo id => ((((s.tile p).damos.find? fun d => d.id == id).map (·.pa)).getD (p / 192 * 2 ^ 36)) / 2 ^ 36
  | _ => ((s.flightTile f f.dst).getD p) / 192

/-- The ticks an item waits in a shared pool before it escapes: DLTIMEOUT, and at least 64 (R154, R361). -/
def State.escapeWait (s : State) (d : Nat) : Nat := max 64 (s.die d).dltimeout.toNat

/-- Counts an escape on die d: of a request that tile p sent, and on the die (R155). -/
def State.escaped (s : State) (p d : Nat) (request : Bool) : State :=
  let s := if request then s.onTile p fun t => t.netCount 15 0 else s
  (s.tiles.filter fun e => e.1 / 192 == d).foldl (fun s e => s.onTile e.1 fun t => t.netCount 63 48) s

/-- Traffic under way that is no network item of the model: the tile it serves, the dies it goes from and to, whether it is a request, the tick
since which it waits, the tile after its escape. -/
structure Under where
  p : Nat
  a : Nat
  b : Nat
  request : Bool
  since : Nat
  after : Tile
  deriving DecidableEq, Repr

/-- The die of an endpoint of a copy: of its tile, or of the stack that holds it. -/
def State.endDie (s : State) (p : Nat) (c : Copy) (e : Word) (need : Access) : Nat :=
  match s.endTile p e with
  | some (q, _, _) => q / 192
  | none => match s.copyPa (s.tile p) c e.toNat need with
    | some pa => pa / 2 ^ 36
    | none => p / 192

/-- The requests and responses of global loads, and of copies from or to another place: copy reads are requests, copy data is a response (R150). -/
def State.farRequests (s : State) : List Under :=
  s.tiles.flatMap fun e =>
    let t := e.2
    let self := fun (a : Word) => (s.endTile e.1 a).any fun q => q.1 == e.1
    t.loads.flatMap (fun l => match l.kind with
      | .global (b :: _) _ =>
        let u := { t with loads := t.loads.map fun m => if m.id = l.id then { m with since := s.tick } else m }
        [⟨e.1, e.1 / 192, b.1 / 2 ^ 36, true, l.since, u⟩, ⟨e.1, b.1 / 2 ^ 36, e.1 / 192, false, l.since, u⟩]
      | _ => []) ++
    t.copies.flatMap fun c =>
      let u := t.setCopy { c with since := s.tick }
      let src := s.endDie e.1 c c.regs.csrc .read
      (if c.state != .moving || self c.regs.csrc then [] else [⟨e.1, e.1 / 192, src, true, c.since, u⟩]) ++
      if c.state != .moving || (self c.regs.csrc && self c.regs.cdst) then []
      else [⟨e.1, src, s.endDie e.1 c c.regs.cdst .write, false, c.since, u⟩]

/-- Whether an item may have waited for its way: a TIMED one waits for other TIMED traffic only (R134, R143). -/
def State.mayWait (s : State) (f : Flight) : Bool := f.msg.onGrid && (!f.msg.isTimed || s.crossed f || decide (f.due < s.tick))

/-- ESCAPE_MOVE of the k-th request or response under way, network items first: once it has waited longer than DLTIMEOUT ticks it is parked, and counted
at its sender, where it is a request, and on the die where it escapes (R154, R155). The parking of one that is no item of the model ends at once. -/
def execEscapeMove (k : Nat) (s : State) : Out :=
  .next (match s.net[k]? with
    | none =>
      (match s.farRequests[k - s.net.length]? with
      | none => s
      | some u =>
        let d := s.escapeDie u.a u.b 0 u.since
        if s.tick ≤ u.since + s.escapeWait d then s else (s.setTile u.p u.after).escaped u.p d u.request)
    | some f =>
      if f.parked || !s.mayWait f then s
      else match s.flightTile f f.src with
        | none => s
        | some p =>
          let d := s.escapeDie (s.itemFrom f) (s.itemDie f p) f.msg.rdir f.since
          if s.tick ≤ f.since + s.escapeWait d then s
          else ({ s with net := s.net.modify k fun f => { f with parked := true } } : State).escaped p d f.msg.isRequest)

/-- PARKED_REINJECT of network item k (R154). -/
def execParkedReinject (k : Nat) (s : State) : Out :=
  .next ({ s with net := s.net.modify k fun f => if f.parked then { f with parked := false, since := s.tick } else f })

/-! ## Translation walks (R368, R370, R371, R374) -/

/-- TRANSLATION_WALK: a miss of tile p joins the walk of its frame or queues one at its memory router (R371). -/
def execTranslationWalk (p : Nat) (va : Word) (need : Access) (s : State) : Out :=
  .next (
    let t := s.tile p
    match s.gangOf t with
    | none => s
    | some g =>
      let vf := va.toNat / 65536
      if Config.globalTop ≤ va.toNat || t.tlb.any (·.hits va.toNat) then s
      else
        let d := s.die (p / 192)
        let router := fun (f : Nat) => f / 256 % 4
        match d.walks.findIdx? fun w => w.part == g.part && w.vf == vf with
        | some k => s.onDie (p / 192) fun d =>
            { d with walks := d.walks.modify k fun w => { w with waiters := w.waiters ++ [(p, va, need)] } }
        | none =>
          if 64 ≤ (d.walks.filter fun w => router w.vf == router vf).length then s
          else s.onDie (p / 192) fun d => { d with walks := d.walks ++ [⟨g.part, vf, [(p, va, need)]⟩] })

/-- A waiter's tile keeps a translation that succeeded (R370). -/
def State.answer (s : State) (w : Nat × Word × Access) : State :=
  let t := s.tile w.1
  let r := s.translate t w.2.1.toNat w.2.2 t.user
  s.setTile w.1 { t with tlb := r.2 }

/-- WALK_COMPLETE of the k-th walk of die d: every joined miss is answered, and with a large page every queued miss of it (R371). -/
def execWalkComplete (d k : Nat) (s : State) : Out :=
  .next (match (s.die d).walks[k]? with
    | none => s
    | some w =>
      let big := match s.part? w.part with
        | none => false
        | some q => match s.leaf (s.die d).wcache q (w.vf * 65536) with
          | .ok l => l.level == 2
          | .error _ => false
      let here := fun (v : Walk) => v.part == w.part && (v.vf == w.vf || (big && v.vf / 256 == w.vf / 256))
      let ws := (s.die d).walks.filter here
      let s := s.onDie d fun q => { q with walks := q.walks.filter fun v => !here v }
      (ws.flatMap (·.waiters)).foldl (fun s v => s.answer v) (s.keepWalk d w.part (w.vf * 65536)))

/-- Drops the entries of a partition frame from every tile of its partition and from the walkers (R374). -/
def State.shoot (s : State) (part pfi : Nat) : State :=
  let s := (s.partTiles part).foldl (fun s p => s.onTile p fun t =>
    { t with tlb := t.tlb.filter fun e => !(e.pfi ≤ pfi && pfi < e.pfi + e.frames) }) s
  { s with dies := s.dies.map fun d => { d with wcache := d.wcache.filter fun w => match w with
    | .grant p f _ => p != part || f / 256 != pfi / 256
    | .table .. => true } }

/-- The shootdown of a frame move is complete: the boundaries that its mirror waits for count from now (R376 step 5). -/
def State.moveShot (s : State) (part pfi : Nat) : State :=
  let steps := (s.gangs.filter fun g => g.part == part).map fun g => (g.id, g.step)
  { s with svc := { s.svc with moves := s.svc.moves.map fun (m : FrameMove) =>
    if m.part = part ∧ m.pfi = pfi ∧ m.switched = true ∧ m.shot = false then { m with shot := true, steps := steps } else m } }

/-- SERVICE_SHOOTDOWN of a partition's frame: every tile drops it once its accesses have performed (R374). -/
def execServiceShootdown (part pfi : Nat) (s : State) : Out :=
  .next (
    if !(s.ackTiles part).all s.quietAt then s
    else (s.shoot part pfi).moveShot part pfi)

/-! ## Ends of waits (R316, R319) -/

/-- FWAIT_DONE on tile p, at an enabled slot (R2, R106, R316). -/
def execFwaitDone (p : Nat) (s : State) : Out :=
  .next (
    let t := s.tile p
    match t.ctl.stat with
    | .waiting (.fwait n) => if s.slotOn p && s.tokenDone t n then s.setTile p ((t.unkeep.freeToken n).resume) else s
    | _ => s)

/-- RCV_WAKE on tile p, at an enabled slot: the packet that became visible is delivered (R2, R140, R319). -/
def execRcvWake (p : Nat) (s : State) : Out :=
  .next (
    let t := s.tile p
    match t.ctl.stat with
    | .waiting (.rcv q rd) =>
      if !s.slotOn p then s
      else (match (t.supersede [rd]).deliver q.toNat rd with
      | some t => (s.setTile p t.resume).markMore p (leBytes 8 (t.xval rd).toNat)
      | none => s)
    | _ => s)

end Sys2Proof.Machine
end

