-- ==== Sys2Proof/Machine/Scan.lean ====
section
/-! DEFINITION. Scan: the scan instructions with their push checks, the composition of maps, and the completion of SLOCAL
and SAPPLY (R192 to R199, R302 to R307). The events of the chain are in EvEngine. -/

namespace Sys2Proof.Machine

/-! ## SCANCFG (R193) -/

def scPlus (c : Word) : Nat := bitsOf c 1 0
def scTimes (c : Word) : Nat := bitsOf c 2 2
def scFmt (c : Word) : Nat := bitsOf c 5 3
def scLanes (c : Word) : Nat := bitsOf c 10 6
/-- MODE: SUM, where a is the identity of ⊗. -/
def scSum (c : Word) : Bool := c.getLsbD 11

/-- A value that SCFG refuses. -/
def scBad (c : Word) : Bool :=
  bitsOf c 63 12 != 0 || scPlus c == 3 || 4 < scFmt c || scTimes c != (if scPlus c = 0 then 0 else 1) || scLanes c == 0 ||
  (if scFmt c = 1 ∨ scFmt c = 3 then 8 else 16) < scLanes c

/-- Bytes of an input lane and of a state lane (R194). -/
def scW (c : Word) : Nat :=
  match scFmt c with
  | 1 => 8
  | 3 => 8
  | 4 => 2
  | _ => 4
def scWs (c : Word) : Nat := if scFmt c = 4 then 4 else scW c

/-- The float format of the state; none for the integers. -/
def scFlt (c : Word) : Option FFmt :=
  match scFmt c with
  | 0 => some .f32
  | 1 => some .f64
  | 4 => some .f32
  | _ => none

/-! ## The semiring (R192) -/

/-- The identity of ⊗. -/
def scOne (c : Word) : Nat :=
  if scTimes c = 1 then 0
  else match scFlt c with
    | some f => f.bias * 2 ^ f.frac
    | none => 1

/-- The identity of ⊕. -/
def scZero (c : Word) : Nat :=
  match scPlus c with
  | 0 => 0
  | 1 => (match scFlt c with
    | some f => f.infS true
    | none => 2 ^ (8 * scWs c - 1))
  | _ => (match scFlt c with
    | some f => f.infS false
    | none => 2 ^ (8 * scWs c - 1) - 1)

/-- a ⊗ x on one lane. -/
def scMul (c : Word) (a x : Nat) : Nat × Fl :=
  match scFlt c with
  | some f => if scTimes c = 0 then fMul f a x else fAdd f a x
  | none =>
    if scTimes c = 1 ∧ (a = scZero c ∨ x = scZero c) then (scZero c, 0)
    else ((if scTimes c = 0 then a * x else a + x) % 2 ^ (8 * scWs c), 0)

/-- x ⊕ b on one lane. -/
def scAdd (c : Word) (x b : Nat) : Nat × Fl :=
  match scFlt c with
  | some f => if scPlus c = 0 then fAdd f x b else fMinMax f (scPlus c == 1) x b
  | none =>
    if scPlus c = 0 then ((x + b) % 2 ^ (8 * scWs c), 0)
    else
      let n := 8 * scWs c
      (codeOf n (if scPlus c = 1 then max (intOf n x) (intOf n b) else min (intOf n x) (intOf n b)), 0)

/-- a ⊗ x ⊕ b on one lane: linear floats round once. -/
def scApply (c : Word) (a x b : Nat) : Nat × Fl :=
  match scFlt c, scPlus c with
  | some f, 0 => fMadd f a x b
  | _, _ =>
    let p := scMul c a x
    let r := scAdd c p.1 b
    (r.1, p.2 ||| r.2)

/-- Lane by lane, with the flags of all lanes. -/
def scLanewise (c : Word) (f : Nat → Nat × Fl) : List Nat × Fl :=
  let rs := (List.range (scLanes c)).map f
  (rs.map (·.1), rs.foldl (fun a r => a ||| r.2) 0)

/-- The map (as, bs) applied to a state; in SUM mode the map is bs ⊕ h (R192). -/
def scMap (c : Word) (as bs h : List Nat) : List Nat × Fl :=
  scLanewise c fun i =>
    let b := bs.getD i 0
    let x := h.getD i 0
    if scSum c then scAdd c x b else scApply c (as.getD i 0) x b

/-- An input lane in the state format: BF16 widens (R69). -/
def scLaneIn (c : Word) (v : Nat) : Nat × Fl := if scFmt c = 4 then convert .f32 .bf16 .rne false v else (v, 0)

/-- The identity map in every lane. -/
def scIdent (c : Word) : List Nat × List Nat := (List.replicate (scLanes c) (scOne c), List.replicate (scLanes c) (scZero c))

/-! ## Scratchpad layouts (R194) -/

/-- n lanes of w bytes from an offset. -/
def Tile.scRead (t : Tile) (span : Nat) (key : Word) (off w n : Nat) : List Nat :=
  (List.range n).map fun i => t.spadNat span key (off + w * i) w
/-- Lanes of w bytes to an offset of the unswizzled window. -/
def Tile.scWrite (t : Tile) (off w : Nat) (vs : List Nat) : Tile :=
  vs.zipIdx.foldl (fun t v => t.spadPut 0 0 (off + w * v.2) w v.1) t

/-- The running state of a local scan. -/
structure ScAcc where
  t : Tile
  as : List Nat
  bs : List Nat
  fl : Fl

/-- One element of SLOCAL: read, composed, written (R195). -/
def ScAcc.step (c : ScCmd) (off span : Nat) (a : ScAcc) (i : Nat) : ScAcc :=
  let cfg := c.cfg
  let l := scLanes cfg
  let k := if scSum cfg then l else 2 * l
  let vs := (a.t.scRead span c.bhkey (off + i * k * scW cfg) (scW cfg) k).map (scLaneIn cfg)
  let ea := if scSum cfg then List.replicate l (scOne cfg) else (vs.take l).map (·.1)
  let eb := ((if scSum cfg then vs else vs.drop l)).map (·.1)
  let ra := scLanewise cfg fun j => scMul cfg (ea.getD j 0) (a.as.getD j 0)
  let rb := scLanewise cfg fun j => scApply cfg (ea.getD j 0) (a.bs.getD j 0) (eb.getD j 0)
  let out := if scSum cfg then rb.1 else ra.1 ++ rb.1
  { t := a.t.scWrite (bitsOf c.word 52 32 + i * k * scWs cfg) (scWs cfg) out
    as := ra.1
    bs := rb.1
    fl := vs.foldl (fun f v => f ||| v.2) (a.fl ||| ra.2 ||| rb.2) }

def toWords (vs : List Nat) : List Word := vs.map (BitVec.ofNat 64)
def toNats (ws : List Word) : List Nat := ws.map (·.toNat)

/-- SLOCAL as it completes (R195): its outputs, the Summary tagged with its SCANCFG. -/
def Tile.scLocal (t : Tile) (c : ScCmd) : Tile × Fl :=
  match selfParts c.addr with
  | none => (t, 0)
  | some (off, _, span, _) =>
    let z := scIdent c.cfg
    let r := (List.range (bitsOf c.word 16 0)).foldl (ScAcc.step c off span) ⟨t, z.1, z.2, 0⟩
    ({ r.t with scan := { r.t.scan with sumCfg := some c.cfg, sumA := toWords r.as, sumB := toWords r.bs } }, r.fl)

/-- One element of SAPPLY (R195, R304). -/
def applyStep (c : ScCmd) (off span : Nat) (h : List Nat) (a : Tile × Fl) (i : Nat) : Tile × Fl :=
  let cfg := c.cfg
  let l := scLanes cfg
  let k := if scSum cfg then l else 2 * l
  let vs := a.1.scRead span c.bhkey (off + i * k * scWs cfg) (scWs cfg) k
  let r := scMap cfg (vs.take l) (if scSum cfg then vs else vs.drop l) h
  (a.1.scWrite (bitsOf c.word 52 32 + i * l * scWs cfg) (scWs cfg) r.1, a.2 ||| r.2)

/-- SAPPLY as it completes: it reads the Carry's lanes under its own SCANCFG, a lane that the SPASS did not make as 0 (DESIGN CHOICE, log 82). -/
def Tile.scApplyAll (t : Tile) (c : ScCmd) : Tile × Fl :=
  match selfParts c.addr with
  | none => (t, 0)
  | some (off, _, span, _) =>
    (List.range (bitsOf c.word 16 0)).foldl (applyStep c off span (toNats t.scan.carry)) (t, 0)

/-! ## Pushes (R302 to R305) -/

def Tile.scFull (t : Tile) : Bool := Config.fifoDepth ≤ t.scan.fifo.length

/-- Enters a command (R54, R197). -/
def Tile.scEnter (t : Tile) (op : ScOp) (addr word : Word) : Tile :=
  let n := (t.scan.pushes + 1) % 2 ^ 16
  let c : ScCmd := { op := op, cfg := t.ur.scancfg, addr := addr, word := word, bhkey := t.sr.bhkey, seq := t.fe.iseq, id := n }
  { t with scan := { t.scan with fifo := t.scan.fifo ++ [c], pushes := n } }

/-- Input and output bytes of SLOCAL or SAPPLY (R304). -/
def scExtents (cfg : Word) (n : Nat) (apply : Bool) : Nat × Nat :=
  let l := scLanes cfg
  let k := if scSum cfg then l else 2 * l
  if apply then (n * k * scWs cfg, n * l * scWs cfg) else (n * k * scW cfg, n * k * scWs cfg)

/-- The push checks of SLOCAL and SAPPLY (R304), and of the schedule-table region (R36). -/
def Tile.scCheck (t : Tile) (addr word : Word) (apply : Bool) : Option Cause :=
  let cfg := t.ur.scancfg
  let n := bitsOf word 16 0
  let doff := bitsOf word 52 32
  let dst := BitVec.ofNat 64 (Config.selfBase + doff)
  if scLanes cfg = 0 ∨ 65536 < n ∨ bitsOf word 31 18 ≠ 0 ∨ bitsOf word 63 53 ≠ 0 then some (cIllegal 0)
  else if apply && (!t.chMemb || !t.scan.everSpass) then some (cIllegal 0)
  else match selfParts addr with
    | none => some (cAddress addr)
    | some (off, fmt, _, _) =>
      let (ein, eout) := scExtents cfg n apply
      if fmt != 0 || off % 16 != 0 then some (cAddress addr)
      else if doff % 16 != 0 then some (cAddress dst)
      else if Config.scratchBytes < off + ein then some (cAddress addr)
      else if Config.scratchBytes < doff + eout then some (cAddress dst)
      else if apply && doff != off && off < doff + eout && doff < off + ein then some (cAddress dst)
      else if t.user && t.task.hasSched && eout != 0 && Config.schedBase < doff + eout then some (cStorePerm dst)
      else none

/-- The push checks of SPASS (R305). -/
def Tile.spassCheck (t : Tile) (addr : Word) : Option Cause :=
  let cfg := t.ur.scancfg
  if t.task.region then some cTaskRegion
  else if !t.chMemb || scLanes cfg == 0 then some (cIllegal 0)
  else if (match t.scan.lastLocal with
    | some c => c != cfg
    | none => false) then some (cIllegal 0)
  else if !t.chHead then none
  else match selfParts addr with
    | none => some (cAddress addr)
    | some (off, fmt, _, _) =>
      if fmt != 0 || off % 16 != 0 || Config.scratchBytes < off + scLanes cfg * scWs cfg then some (cAddress addr) else none

/-- SCFG (R303). -/
def execScfg (ys1 : YReg) (s : State) : Out :=
  .next (s.xWord [ys1] [] fun s =>
    let a := s.t.popY ys1
    if scBad a.1 then s.trap (cIllegal 0) else s.setT { a.2 with ur := { a.2.ur with scancfg := a.1 } })

/-- SLOCAL (R195, R304). -/
def execSlocal (ys1 ys2 : YReg) (s : State) : Out :=
  .next (s.xWord [ys1, ys2] [] fun s =>
    if s.t.scFull then s.hold
    else
      let a := s.t.popY ys1
      let b := a.2.popY ys2
      match s.t.scCheck a.1 b.1 false with
      | some c => s.trap c
      | none =>
        let t := b.2.scEnter .slocal a.1 b.1
        s.setT { t with scan := { t.scan with lastLocal := some t.ur.scancfg } })

/-- SAPPLY (R195, R304). -/
def execSapply (ys1 ys2 : YReg) (s : State) : Out :=
  .next (s.xWord [ys1, ys2] [] fun s =>
    if s.t.scFull then s.hold
    else
      let a := s.t.popY ys1
      let b := a.2.popY ys2
      match s.t.scCheck a.1 b.1 true with
      | some c => s.trap c
      | none => s.setT (b.2.scEnter .sapply a.1 b.1))

/-- SPASS (R197, R305). -/
def execSpass (ys1 : YReg) (s : State) : Out :=
  .next (s.xWord [ys1] [] fun s =>
    if s.t.scFull then s.hold
    else
      let a := s.t.popY ys1
      match s.t.spassCheck a.1 with
      | some c => s.trap c
      | none =>
        let t := a.2.scEnter .spass a.1 0
        s.setT { t with scan := { t.scan with everSpass := true, spassPushed := true } })

/-- SCLOSE (R305). -/
def execSclose (s : State) : Out :=
  .next (s.xWord [] [] fun s =>
    let t := s.t
    if t.scFull then s.hold
    else if t.task.region then s.trap cTaskRegion
    else if !t.chMemb || !t.chTail || !t.scan.spassPushed then s.trap (cIllegal 0)
    else s.setT (t.scEnter .sclose 0 0))

/-- SWAIT: an arrival, so the TIMED window ends (R125, R134, R197, R306). -/
def execSwait (vd : VReg) (s : State) : Out :=
  .next (
    let t := s.t
    if !t.user then s.trap (cIllegal 0)
    else if t.task.region then s.trap cTaskRegion
    else if !t.chMemb then s.trap (cIllegal 0)
    else (s.setT { t with ni := { t.ni with timedWin := false } }).wait (.swait vd))

/-! ## Completion of SLOCAL and SAPPLY (R195, R197) -/

/-- Word 1 of a scan notification (R197). -/
def scNote (c : ScCmd) (f : Fl) : Word :=
  BitVec.ofNat 64 (c.id + (if c.op = .sapply then 2 ^ 16 else 0) + f.toNat % 32 * 2 ^ 20 + 2 * 2 ^ 60)

/-- The running SLOCAL or SAPPLY computes, once, and has then written some of its result (R102). -/
def Tile.scCompute (t : Tile) (c : ScCmd) (seed : Nat) : Tile :=
  let r := if c.op == .slocal then t.scLocal c else t.scApplyAll c
  let w := Tile.partWritten t r.1
    (spanPlaces 0 0 (bitsOf c.word 52 32) (scExtents c.cfg (bitsOf c.word 16 0) (c.op == .sapply)).2) seed
  { w.1 with scan := { w.1.scan with ready := true, out := w.2, fl := r.2 } }

/-- A computed SLOCAL or SAPPLY completes; with NOTE it first needs room in the mailbox (R144). -/
def Tile.scFinish (t : Tile) (c : ScCmd) : Tile :=
  if c.word.getLsbD 17 && !t.mboxRoom then t
  else
    let f := t.scan.fl
    let t := { t.flags f with scan := { t.scan with run := none, ready := false, fl := 0 } }
    if c.word.getLsbD 17 then t.post (mboxWord 2 0 0 0 0) (scNote c f) else t

/-- The running SLOCAL or SAPPLY goes on: it computes and completes; one whose result is in part unwritten completes the next time. -/
def Tile.scanDone (t : Tile) (seed : Nat) : Tile :=
  match t.scan.run with
  | none => t
  | some c =>
    if c.op != .slocal && c.op != .sapply then t
    else if t.scan.ready then ({ t.spadBytes t.scan.out with scan := { t.scan with out := [] } }).scFinish c
    else
      let u := t.scCompute c seed
      if u.scan.out.isEmpty then u.scFinish c else u

/-- SCAN_COMMAND_COMPLETE on tile p, at an enabled slot (R2). -/
def execScanCommandComplete (p : Nat) (s : State) : Out :=
  .next (if s.slotOn p then s.onTile p fun t => t.scanDone s.steps else s)

end Sys2Proof.Machine
end

