-- ==== Sys2Proof/Machine/EvEngine.lean ====
section
/-! DEFINITION. EvEngine: the starts and completions of engine commands, the operand ring, remote matrix records, and the
pass chain (R163, R168 to R172, R197, R285, R305, R307). -/

namespace Sys2Proof.Machine

/-! ## Ring positions (R162) -/

/-- L of an MRING value. -/
def ringLen (mring : Word) : Nat := 2 ^ bitsOf mring 2 0
/-- The logical index d positions on in the ring of a tile. -/
def Tile.ringAt (t : Tile) (mring : Word) (d : Nat) : Nat :=
  let l := ringLen mring
  let s := t.lidx % 192
  t.lidx / 192 * 192 + (s - s % l) + (s % l + d) % l
def Tile.ringSucc (t : Tile) (mring : Word) : Nat := t.ringAt mring 1
def Tile.ringPred (t : Tile) (mring : Word) : Nat := t.ringAt mring (ringLen mring - 1)

/-- Bytes a half streams: rows of 32 columns, all its planes. -/
def Half.bytes (h : Half) : Nat :=
  match h.fmt with
  | some (.plane k) => h.kb * 4 * k
  | some f => h.kb * 32 * f.bits / 8
  | none => 0

/-- A send of the running step begins: it takes the credit and arrives ⌈bytes / 256⌉ + 2 ticks later (R163). -/
def State.ringSend (s : State) (p : Nat) : State :=
  let t := s.tile p
  match t.mx.run with
  | none => s
  | some r =>
    if !t.mx.credit then s.setTile p { t with mx := { t.mx with sending := true } }
    else
      let s := s.setTile p { t with mx := { t.mx with sending := false, credit := false } }
      s.send t (t.ringSucc r.cmd.mring) (.ring t.mx.front (bitsOf r.cmd.mring 2 0)) (s.tick + (t.mx.front.bytes + 255) / 256 + 2)

/-! ## Starts (R44, R168, R285) -/

/-- The command the unit takes next: the two queues alternate, the local FIFO first (R44, R169). -/
def Matrix.pick (m : Matrix) : Option (MxCmd × Matrix) :=
  match m.fifo, m.remote with
  | c :: r, [] => some (c, { m with fifo := r, lastRemote := false })
  | [], c :: r => some (c, { m with remote := r, lastRemote := true })
  | c :: r, c' :: r' =>
    if m.lastRemote then some (c, { m with fifo := r, lastRemote := false }) else some (c', { m with remote := r', lastRemote := true })
  | [], [] => none

/-- A matrix command starts with its start checks; a rotation step begins its send (R163, R168). -/
def State.mxStart (s : State) (p : Nat) : State :=
  let t := s.tile p
  match t.mx.run, t.mx.pick with
  | none, some (c, m) =>
    let bad := t.mxFaults c
    let run : MxRun :=
      { cmd := c, fault := bad, computed := false, swapped := false, flags := 0, bad := [], merr := false, errs := [], out := []
        since := s.tick, raised := false }
    let t := { t with mx := { m with run := some run, sent := false, sending := false } }
    let t := if bad && c.sender.isNone then t.raise 9 (BitVec.ofNat 64 c.id) else t
    let s := s.setTile p t
    if c.rot && 1 < ringLen c.mring then s.ringSend p else s
  | _, _ => s

/-- A scan command starts; an SPASS of the next round waits in the FIFO for the release (R197). -/
def Tile.scStart (t : Tile) : Tile :=
  match t.scan.run, t.scan.fifo with
  | none, c :: r => if c.op == .spass && t.scan.spassDone then t else { t with scan := { t.scan with fifo := r, run := some c } }
  | _, _ => t

/-- ENGINE_COMMAND_START, at an enabled slot (R2, R285). The head of the envelope's FIFO is its started command. -/
def execEngineCommandStart (p : Nat) (eng : Engine) (s : State) : Out :=
  .next (
    if !s.slotOn p then s
    else match eng with
      | .matrix => s.mxStart p
      | .envelope => s
      | .scan => s.onTile p Tile.scStart)

/-! ## Matrix completion (R54, R169, R172) -/

/-- The computation of the running command, once. MRDACC has then written some of its result (R102); one that has faulted at its start writes nothing (R168). -/
def Tile.mxCompute (t : Tile) (seed : Nat) : Tile :=
  match t.mx.run with
  | none => t
  | some r =>
    if r.computed then t
    else
      let e := if r.fault then (t, 0) else t.mxEffect r.cmd (t.badOperands r)
      let w := if r.cmd.op == .mrdacc && !r.fault then Tile.partWritten t e.1 r.cmd.outPlaces seed else (e.1, [])
      { w.1 with mx := { w.1.mx with run := w.1.mx.run.map fun q => { q with computed := true, flags := e.2, out := w.2 } } }

/-- The rest of the result of the running command is written (R102). -/
def Tile.mxWriteOut (t : Tile) : Tile :=
  match t.mx.run with
  | none => t
  | some r => { t.spadBytes r.out with mx := { t.mx with run := some { r with out := [] } } }

/-- Whether the completion target of the running command has room. -/
def Tile.mxRoom (t : Tile) (c : MxCmd) : Bool :=
  c.sender.isSome || c.notify == 0 || (if c.notify = 1 then t.mx.cf.length < 8 else t.mboxRoom)

/-- The completion of a local command. -/
def Tile.mxLocalDone (t : Tile) (r : MxRun) : Tile :=
  let t := (t.flags r.flags).merr r.errs
  if r.cmd.notify = 1 then { t with mx := { t.mx with cf := t.mx.cf ++ [r.element], owed := t.mx.owed - 1 } }
  else if r.cmd.notify = 2 then t.post (mboxWord 2 0 0 0 0) (r.element.setWidth 64)
  else t

/-- The completion of a remote command: its notification and its acknowledgement go to the sender (R172). -/
def State.mxRemoteDone (s : State) (p : Nat) (r : MxRun) (src ent : Nat) : State :=
  let t := s.tile p
  let w := setField (r.element.setWidth 64) 15 0 (Config.remoteSeq s.steps).toNat
  let s := if r.cmd.notify = 2 then s.send t src (.mail (mboxWord 2 0 0 0 0) w) else s
  s.send t src (.storeAck ent)

/-- The running command completes when it has computed, has swapped if it rotates, and its target has room. -/
def State.mxFinish (s : State) (p : Nat) : State :=
  let t := s.tile p
  match t.mx.run with
  | none => s
  | some r =>
    if !r.computed || (r.cmd.rot && !r.swapped) || !t.mxRoom r.cmd then s
    else
      let idle := t.mx.fifo.isEmpty && t.mx.remote.isEmpty
      let u := { t with mx := { t.mx with run := none, lastRemote := idle || t.mx.lastRemote } }
      match r.cmd.sender with
      | none => s.setTile p (u.mxLocalDone r)
      | some (src, ent) => (s.setTile p (u.merr r.errs)).mxRemoteDone p r src ent

/-- Whether the running command has computed with result bytes left to write. -/
def Tile.mxWriting (t : Tile) : Bool :=
  match t.mx.run with
  | none => false
  | some r => !r.out.isEmpty

/-- The error log takes the poisoned operands that the running command finds (R174, R410). -/
def State.logFound (s : State) (p : Nat) : State :=
  match (s.tile p).mx.run with
  | none => s
  | some r => ((s.tile p).foundBad r).foldl (fun s a => s.logTile 4 p .scratchpad (BitVec.ofNat 64 a)) s

/-- MATRIX_COMMAND_COMPLETE on tile p, at an enabled slot (R2): the command computes and completes; one whose result is in part
unwritten completes the next time (R102). -/
def execMatrixCommandComplete (p : Nat) (s : State) : Out :=
  .next (
    if !s.slotOn p then s
    else if (s.tile p).mxWriting then (s.onTile p Tile.mxWriteOut).mxFinish p
    else
      let u := (s.logFound p).onTile p fun t => t.mxCompute s.steps
      if (u.tile p).mxWriting then u else u.mxFinish p)

/-! ## The rotation step (R163, R164) -/

/-- The ring item that comes next to a tile. -/
def State.ringItem (s : State) (t : Tile) : Option Nat :=
  s.net.findIdx? fun f => some f.g == t.gang && f.dst == t.lidx && (match f.msg with
    | .ring _ _ => true
    | _ => false)

/-- ROTATION_SEND_ARRIVAL at tile p: the half fills the back half, or is refused with reason 7 (R163, R172). -/
def execRotationSendArrival (p : Nat) (s : State) : Out :=
  .next (
    let t := s.tile p
    match s.ringItem t with
    | none => s
    | some k =>
      match s.arrival k with
      | none => s
      | some (f, s) =>
        match f.msg with
        | .ring h logl =>
          let s := match s.flightTile f f.src with
            | some q => s.onTile q fun u => { u with mx := { u.mx with sent := true } }
            | none => s
          let t := s.tile p
          if logl ≠ bitsOf t.mx.ring 2 0 then s.send t f.src (.mail (mboxWord 4 0 0 0 t.lidx) 7)
          else
            let t := t.logLatch 1
            s.setTile p { t with mx := { t.mx with back := h, backIn := true } }
        | _ => s)

/-- Whether the halves of a tile may swap. -/
def Tile.swapReady (t : Tile) : Bool :=
  match t.mx.run with
  | none => false
  | some r => r.cmd.rot && r.computed && !r.swapped && (ringLen r.cmd.mring == 1 || (t.mx.sent && t.mx.backIn))

/-- ROTATION_SWAP on tile p, at an enabled slot: the command computes, with the poisoned operands that it finds in the error log (R410), the halves swap, FILLS counts, a credit goes back, and the command completes (R163). -/
def execRotationSwap (p : Nat) (s : State) : Out :=
  .next (
    let s0 := s
    let s := s.logFound p
    let t := (s.tile p).mxCompute s.steps
    match t.mx.run with
    | none => s
    | some r =>
      if !t.swapReady || !s.slotOn p then s0
      else
        let t := (t.logLatch 0).logLatch 1
        let t := { t with mx := { t.mx with
          front := t.mx.back, back := t.mx.front, backIn := false, run := some { r with swapped := true } } }
        let t := t.fill r.cmd
        let s := s.setTile p t
        let s := if 1 < ringLen r.cmd.mring then s.send t (t.ringPred r.cmd.mring) .credit (s.tick + 2) else s
        s.mxFinish p)

/-- RING_CREDIT_ARRIVAL at tile p: a held send begins (R163). -/
def execRingCreditArrival (p : Nat) (s : State) : Out :=
  .next (
    let t := s.tile p
    match s.net.findIdx? (fun f => some f.g == t.gang && f.dst == t.lidx && f.msg == .credit) with
    | none => s
    | some k =>
      match s.arrival k with
      | none => s
      | some (_, s) =>
        let s := s.onTile p fun t => { t with mx := { t.mx with credit := true } }
        if t.mx.sending then s.ringSend p else s)

/-! ## Remote records (R170 to R172) -/

/-- The first failed check of a record at its target, in the order of the table of R172 (DESIGN CHOICE, log 82). -/
def State.mcmdReason (s : State) (t : Tile) (cap : Word) (c : MxCmd) (clean : Bool) : Option Nat :=
  let group := match anyWin c.addr with
    | some (fmt, pln) => (mxFmt fmt pln).map LFmt.group
    | none => none
  match s.gangOf t with
  | none => some 2
  | some g =>
  if mint (s.keyOf g.part) cap != cap then some 1
  else if bitsOf cap 10 0 ≠ t.lidx then some 2
  else if c.acc.toNat < bitsOf cap 13 11 ∨ bitsOf cap 16 14 < c.acc.toNat then some 3
  else if (match group with
    | some k => !cap.getLsbD (17 + k)
    | none => false) then some 4
  else if !clean || (mmaCheck c.word c.addr t.ur.pstride).isSome then some 5
  else if t.ctl.stat == .halted then some 6
  else none

/-- MCMD_RECORD_ARRIVAL of network item k: checked and queued, refused, or retried while 8 are held (R172). It takes the target's PSTRIDE, BHKEY
and MRING as they stand when it is queued (DEDUCED, log 27). The remote command being performed is not among the eight held (DESIGN CHOICE, log 83). -/
def execMcmdRecordArrival (k : Nat) (s : State) : Out :=
  .next (match s.arrival k with
    | none => s
    | some (f, s1) =>
      match f.msg, s1.flightTile f f.dst with
      | .mcmd ent id cap c clean, some p =>
        let t := s1.tile p
        match s1.mcmdReason t cap c clean with
        | some r =>
          (s1.send t f.src (.mail (mboxWord 4 0 0 0 t.lidx) (BitVec.ofNat 64 (r + c.acc.toNat * 16)))).send t f.src (.storeAck ent)
        | none =>
          if Config.fifoDepth ≤ t.mx.remote.length then s1.send t f.src (.retryCmd ent id cap c clean) (s.tick + 64)
          else
            let c := { c with pstride := t.ur.pstride, mring := t.ur.mring, bhkey := t.sr.bhkey }
            s1.setTile p { t with mx := { t.mx with remote := t.mx.remote ++ [c] } }
      | _, _ => s)

/-! ## The pass chain (R197, R305, R307) -/

/-- Ticks of a carry hop between two physical tiles. -/
def carryTicks (p q : Nat) : Nat := if p / 192 = q / 192 then 2 else 14 * ringHops (p / 192) (q / 192) 0

/-- CARRY_ARRIVAL of network item k (R197). -/
def execCarryArrival (k : Nat) (s : State) : Out :=
  .next (match s.arrival k with
    | none => s
    | some (f, s1) =>
      match f.msg, s1.flightTile f f.dst with
      | .carry cfg lanes, some p => s1.onTile p fun t => { t with scan := { t.scan with carryIn := some (cfg, lanes) } }
      | _, _ => s)

/-- The state that enters a tile's SPASS, and whether its carry has another configuration; none while it is awaited (R197, R307). -/
def Tile.spassIn (t : Tile) (c : ScCmd) : Option (List Nat × Bool) :=
  if t.chHead then
    match selfParts c.addr with
    | some (off, _, span, _) => some (t.scRead span c.bhkey off (scWs c.cfg) (scLanes c.cfg), false)
    | none => none
  else match t.scan.carryIn with
    | none => none
    | some (cfg, h) =>
      if bitsOf cfg 10 0 = bitsOf c.cfg 10 0 then some (toNats h, false)
      else some (List.replicate (scLanes c.cfg) (scZero c.cfg), true)

/-- SPASS_COMPLETE on tile p, at an enabled slot (R2, R197). -/
def execSpassComplete (p : Nat) (s : State) : Out :=
  .next (
    let t := s.tile p
    match t.scan.run with
    | none => s
    | some c =>
      if c.op != .spass || !s.slotOn p then s
      else match t.spassIn c with
        | none => s
        | some (h, other) =>
          let z := scIdent c.cfg
          let as := if t.scan.sumCfg.isSome then toNats t.scan.sumA else z.1
          let bs := if t.scan.sumCfg.isSome then toNats t.scan.sumB else z.2
          let r := scMap c.cfg as bs h
          let out := toWords r.1
          let t := { t.flags r.2 with scan := { t.scan with
            run := none, carry := toWords h, carryIn := none, spassDone := true
            final := if t.chTail then out else t.scan.final
            finalCfg := c.cfg } }
          let t := if other then t.raise 10 (BitVec.ofNat 64 t.chPred) else t
          let s := s.setTile p t
          if t.chTail then s
          else match s.gangOf t with
            | none => s
            | some g => s.send t t.chSucc (.carry c.cfg out) (s.tick + carryTicks p ((g.phys t.chSucc).getD p)))

/-- SCLOSE_COMPLETE on tile p, at an enabled slot once the SPASS of the round has completed (R2, R305). A second one in the round moves its tick; one still
queued at the release waits for the next round's SPASS (DESIGN CHOICE, log 82). -/
def execScloseComplete (p : Nat) (s : State) : Out :=
  .next (
    let t := s.tile p
    match t.scan.run with
    | some c =>
      if c.op == .sclose && t.scan.spassDone && s.slotOn p then
        s.setTile p { t with scan := { t.scan with run := none, sclosed := true, closedAt := s.tick } }
      else s
    | none => s)

/-- The vector a released SWAIT receives (R306). -/
def finalVec (cfg : Word) (fin : List Word) : Vec := ofLanes (8 * scWs cfg) (toNats fin)

/-- Words that fetch has read behind a SWAIT, none of which has issued, are fetched again: the first of them is the instruction after it (R197, R336). -/
def Tile.unread (t : Tile) : Tile :=
  let behind := fun (x : Slot) => decide (t.fe.iseq < x.seq)
  match ((t.fe.aq ++ t.fe.xq).filter behind).foldl (fun (m : Option Slot) x => match m with
    | none => some x
    | some y => if x.seq < y.seq then some x else some y) none with
  | none => t
  | some x =>
    { t with
      regs := { t.regs with loop := x.loops }
      fe := { t.fe with pc := x.pc, seq := x.seq, aq := t.fe.aq.filter fun e => !behind e, xq := t.fe.xq.filter fun e => !behind e } }

/-- A member is released at a tick: Final in its vector register, the round over. An enabled interrupt that has been held through the wait is taken next,
with EPC at the instruction after (R336). -/
def Tile.swaitDone (t : Tile) (v : Vec) (tick : Nat) : Tile :=
  match t.ctl.stat with
  | .waiting (.swait vd) =>
    let u := { t.putV vd v with
      ctl := { t.ctl with stat := .running }
      scan := { t.scan with spassDone := false, spassPushed := false, sclosed := false } }
    if (u.takeable tick).isSome then u.unread else u
  | _ => t

/-- CHAIN_RELEASE of the chain of gang g whose tail is logical index `tail` (R197). -/
def execChainRelease (g tail : Nat) (s : State) : Out :=
  .next (match s.gang? g with
    | none => s
    | some gg =>
      match s.chainRound gg tail, gg.phys tail with
      | some (ms, due), some q =>
        if s.tick < due then s
        else
          let u := s.tile q
          let v := finalVec u.scan.finalCfg u.scan.final
          ms.foldl (fun s p => (s.onTile p fun t => t.swaitDone v s.tick).markMore p (leBytes 64 v.toNat)) s
      | _, _ => s)

end Sys2Proof.Machine
end

