-- ==== Sys2Proof/Machine/Place.lean ====
section
/-! DEFINITION. Place: effective wear, the choice of tiles, spares and followers, and the service's own frames and table
entries (R26, R363 to R366, R377 to R379, R405, R419, R424, R428). -/

namespace Sys2Proof.Machine

/-! ## Wear (R424, R427) -/

/-- Effective wear E in units of 2^-16 wear unit: W, or 2.2 x 10^8 units times the worse of dBTI / 4 % and dEM / 10 % (R424, R425). -/
def Assay.eff (a : Assay) : Nat := max a.w (max (a.bti * 3604480000) (a.em * 1441792000))

/-- DRAINED and RETIRED tiles are never taken (R428). -/
def Assay.takes (a : Assay) : Bool := a.state == .service || a.state == .derated

/-- A tile that holds no thread and no follower. -/
def Tile.free (t : Tile) : Bool := t.gang.isNone && t.pair.partner.isNone

/-- Whether a migration under way has chosen a tile (R419 step 1). -/
def State.promised (s : State) (p : Nat) : Bool := s.tiles.any fun e => e.2.ctl.moveTo == some p && (match e.2.ctl.stat with
  | .moving _ => true
  | _ => false)

/-- A tile that may be given a thread. -/
def State.usable (s : State) (p : Nat) : Bool :=
  (s.tile p).free && (s.tile p).assay.takes && (s.die (p / 192)).powered && !s.promised p

/-- A tile is DRAINED; as suspect under R403 or R408 with SUSP (R405, R425, R427). -/
def State.drainTile (s : State) (p : Nat) (susp : Bool := true) : State :=
  s.onTile p fun t =>
    if t.assay.takes then { t with assay := { t.assay with state := .drained, susp := t.assay.susp || susp, stick := s.tick } } else t

/-! ## The least of some candidates -/

/-- Lexicographic order of keys. -/
def keyLt : List Nat → List Nat → Bool
  | [], [] => false
  | [], _ :: _ => true
  | _ :: _, [] => false
  | a :: r, b :: q => a < b || (a == b && keyLt r q)

/-- The candidate with the least key. -/
def leastBy (key : Nat → List Nat) : List Nat → Option Nat
  | [] => none
  | a :: r => match leastBy key r with
    | none => some a
    | some b => if keyLt (key b) (key a) then some b else some a

/-- The candidates in ascending order of their keys. -/
def insertBy (key : Nat → List Nat) (a : Nat) : List Nat → List Nat
  | [] => [a]
  | b :: r => if keyLt (key b) (key a) then b :: insertBy key a r else a :: b :: r
def sortBy (key : Nat → List Nat) (l : List Nat) : List Nat := l.foldr (insertBy key) []

/-! ## Placement of a gang (R26, R379, R428) -/

/-- The greatest E of a cluster's tiles; clusters are numbered 48 d + 4 g + c. -/
def State.clusterWear (s : State) (cc : Nat) : Nat :=
  (List.range 4).foldl (fun a t => max a (s.tile (4 * cc + t)).assay.eff) 0

/-- Whether every tile of a physical group may be given a thread. -/
def State.groupFree (s : State) (gg : Nat) : Bool := (List.range 16).all fun i => s.usable (16 * gg + i)

/-- The clusters of some groups, least worn first. -/
def State.clusterOrder (s : State) (ggs : List Nat) : List Nat :=
  sortBy (fun cc => [s.clusterWear cc, cc]) (ggs.flatMap fun gg => (List.range 4).map (4 * gg + ·))

/-- The physical clusters of n logical groups on one die, group by group. -/
def State.placeDie (s : State) (ggs : List Nat) (n : Nat) : Option (List (List Nat)) :=
  let order := s.clusterOrder (ggs.filter s.groupFree)
  let chosen := ((order.map (· / 4)).eraseDups).take n
  if chosen.length < n then none else some (chosen.map fun gg => order.filter fun cc => cc / 4 == gg)

/-- The L2P entries of logical die i from its clusters. -/
def l2pOf (i : Nat) (gs : List (List Nat)) : List (Nat × Nat) :=
  gs.zipIdx.flatMap fun g => g.1.zipIdx.flatMap fun c =>
    (List.range 4).map fun t => (192 * i + 16 * g.2 + 4 * c.2 + t, 4 * c.1 + t)

/-- The physical dies of a partition, in ascending order. -/
def Partition.dieList (q : Partition) : List Nat :=
  match q.shape with
  | .groups d _ => [d]
  | .dies ds => ds

/-- The wear of some clusters, least first. -/
def State.wearKey (s : State) (gs : List (List Nat)) : List Nat := sortBy (fun e => [e]) (gs.flatten.map s.clusterWear)

/-- Binds logical dies i, i + 1, … to the wanted physical dies, or to the one with room whose clusters are least worn, and places n groups on each
(R26, R428). -/
def State.placeFrom (s : State) (q : Partition) (n : Nat) : Nat → List Nat → List (Option Nat) → Option (List Nat × List (Nat × Nat))
  | _, _, [] => some ([], [])
  | i, used, w :: r =>
    let cands := match w with
      | some d => if q.dieList.contains d then [d] else []
      | none => q.dieList
    let room := fun (d : Nat) => !used.contains d && (s.placeDie (q.groups.filter fun gg => gg / 12 == d) n).isSome
    let key := fun (d : Nat) => s.wearKey ((s.placeDie (q.groups.filter fun gg => gg / 12 == d) n).getD []) ++ [d]
    match leastBy key (cands.filter room) with
    | none => none
    | some d =>
      match s.placeDie (q.groups.filter fun gg => gg / 12 == d) n, s.placeFrom q n (i + 1) (d :: used) r with
      | some gs, some (ds, l2p) => some (d :: ds, l2pOf i gs ++ l2p)
      | _, _ => none

/-- Where a gang of `wanted.length` logical dies and n groups on each goes. -/
def State.placeGang (s : State) (q : Partition) (wanted : List (Option Nat)) (n : Nat) : Option (List Nat × List (Nat × Nat)) :=
  s.placeFrom q n 0 [] wanted

/-! ## Spares and followers (R378, R405, R419) -/

/-- The rank of a tile in the spare pool of a partition: its own tiles, then tiles in no partition; none: not in the pool. A vacated
tile joins it once it has cooled (R420). -/
def State.poolRank (s : State) (part p : Nat) : Option Nat :=
  if !s.usable p || (s.tile p).assay.hot then none
  else match s.parts.find? fun q => q.owns p with
    | none => some 1
    | some q => if q.id = part then some 0 else none

/-- The physical group in which the spare for the thread of tile p should lie: that of the other slots of its ring when a ring-table entry
applies, else its own (R382, R419). -/
def Gang.spareGroup (g : Gang) (p : Nat) : Nat :=
  let l := ((g.l2p.find? fun e => e.2 == p).map (·.1)).getD 0x7FF
  let others := g.rings.flatMap fun e =>
    let slots := (List.range (2 ^ e.2)).map (e.1 + ·)
    if slots.contains l then slots.filter (· != l) else []
  ((others.findSome? g.phys).getD p) / 16

/-- The cool spare for the thread of tile p (R419): the pool's order, the group it should lie in, the least worn, the lowest index. -/
def State.spareFor (s : State) (g : Gang) (p : Nat) (but : List Nat := []) : Option Nat :=
  let gg := g.spareGroup p
  let cands := ((List.range 192).map (192 * (p / 192) + ·)).filter fun q =>
    q != p && !but.contains q && (s.poolRank g.part q).isSome && decide ((s.tile q).assay.temp ≤ 85)
  leastBy (fun q => [(s.poolRank g.part q).getD 2, if q / 16 = gg then 0 else 1, (s.tile q).assay.eff, q]) cands

/-- The follower for tile p (R405). -/
def State.followerFor (s : State) (part p : Nat) : Option Nat :=
  let ok := fun (q : Nat) => q != p && (s.poolRank part q).isSome
  let mate := p / 2 * 2 + (1 - p % 2)
  let near := (List.range 4).map (p / 4 * 4 + ·)
  let group := (List.range 16).map (p / 16 * 16 + ·)
  match (if ok mate then some mate else near.find? ok) with
  | some q => some q
  | none => leastBy (fun q => [(s.poolRank part q).getD 2, (s.tile q).assay.eff, q]) (group.filter ok)

/-- RELSTAT.PAIRED (R409). -/
def Tile.paired (t : Tile) (b : Bool) : Tile := { t with ir := { t.ir with relstat := setField t.ir.relstat 1 1 (if b then 1 else 0) } }

/-- The tile of a follower with the context of its leader, which is in every L2P table alone (R405, R406). -/
def Tile.followOn (lead onto : Tile) : Tile :=
  let stat := match lead.ctl.stat with
    | .waiting (.inval ..) => Stat.running
    | x => x
  { lead with
    gang := none, pair := onto.pair, assay := onto.assay, tlb := onto.tlb, latent := onto.latent, copies := []
    ctl := { lead.ctl with stat := stat, moveTo := none, moveEnd := none } }

/-- Couples tile p with a follower, which takes its context, or drains it when there is none, with SUSP where it is suspect (R405, R409, R425). -/
def State.couple (s : State) (part p : Nat) (susp : Bool := false) : State :=
  match s.followerFor part p with
  | none => s.drainTile p susp
  | some q =>
    let s := s.onTile p fun t => { t.paired true with pair := { Pair.reset with partner := some q, leader := true } }
    s.onTile q fun u => { (s.tile p).followOn u with pair := { Pair.reset with partner := some p } }

/-- A pair is no more: its leader's thread is unpaired, its follower's tile is given up (R408, R440). -/
def State.uncouple (s : State) (p q : Nat) : State :=
  (s.onTile p fun t => { t.paired false with pair := .reset }).onTile q Tile.scrub

/-! ## Frames (R366, R377) -/

/-- Whether a physical frame is granted to a partition, or is the new frame of a move. -/
def State.frameTaken (s : State) (pfn : Nat) : Bool :=
  (s.parts.any fun q =>
    (q.grants.any fun g => g.2.gv && g.2.pfn == pfn) ||
    (match q.unplaced pfn with
      | some pfi => pfi < q.frames && (smFind pfi q.grants).isNone
      | none => false)) ||
  s.svc.moves.any fun m => m.new == pfn || m.old == pfn

/-- Whether a frame may be granted. -/
def State.frameFree (s : State) (pfn : Nat) : Bool :=
  !s.svc.scrap.contains pfn && !s.svc.retired.contains pfn && !s.frameTaken pfn

/-- The first free frame among n from a frame on. -/
def State.findFrame (s : State) : Nat → Nat → Option Nat
  | 0, _ => none
  | n + 1, f => if s.frameFree f then some f else s.findFrame n (f + 1)

/-- A free frame of a stack, else of another stack of the package (R375). -/
def State.freeFrame (s : State) (stack : Nat) : Option Nat :=
  match s.findFrame (2 ^ 20) (stack * 2 ^ 20) with
  | some f => some f
  | none => s.findFrame (2 ^ 23) 0

/-- Zeros in physical frames, under good tags (R439, R440). -/
def State.zeroFrames (s : State) (fs : List Nat) : State :=
  { s with
    mem := s.mem.filter fun c => !fs.contains (c.1 / 65536)
    svc := { s.svc with bad := s.svc.bad.filter fun l => !fs.contains (l / 1024) } }

/-- Writes bytes at a partition address. -/
def State.partPuts (s : State) (q : Partition) (pa : Nat) (bs : List Byte) : State :=
  let at_ := fun (i : Nat) => (q.grant ((pa + i) / 65536)).pfn * 65536 + (pa + i) % 65536
  (bs.zipIdx.foldl (fun s b => if (q.grant ((pa + b.2) / 65536)).gv then s.memPut (at_ b.2) b.1 else s) s).mend
    (if s.svc.bad.isEmpty then [] else (List.range bs.length).map at_)
/-- Reads n bytes at a partition address; a byte without a grant reads as 0. -/
def State.partBytes (s : State) (q : Partition) (pa n : Nat) : List Byte :=
  (List.range n).map fun i =>
    let g := q.grant ((pa + i) / 65536)
    if g.gv then memRead (g.pfn * 65536 + (pa + i) % 65536) s.mem else 0

/-- Takes n zeroed frames from the end of a partition for the service, and n + gap virtual frames; the partition frame and the virtual
frame of the first (log 18). -/
def State.svcAlloc (s : State) (part n : Nat) (gap : Nat := 0) : Option (Nat × Nat × State) :=
  match s.part? part with
  | none => none
  | some q =>
    if q.frames < q.svc + n ∨ 2 ^ 23 < q.sva + n + gap then none
    else
      let pfi := q.frames - q.svc - n
      let s := s.setPart { q with svc := q.svc + n, sva := q.sva + n + gap }
      some (pfi, 2 ^ 23 - q.sva - n - gap, s.zeroFrames ((List.range n).map fun i => (q.grant (pfi + i)).pfn))

/-- The table an entry points to, which the service makes when there is none (R364). -/
def State.tableAt (s : State) (part ea : Nat) : Option (Nat × State) :=
  match s.part? part with
  | none => none
  | some q =>
    match s.partRead8 q ea with
    | none => none
    | some e =>
      if e % 2 = 1 then (if e / 2 % 2 = 0 then some (ptePa e, s) else none)
      else match s.svcAlloc part 1 with
        | none => none
        | some (pfi, _, s) => some (pfi * 65536, s.partPuts q ea (leBytes 8 (pfi * 65536 + 1)))

/-- Enters a leaf for a virtual frame in the tables of a partition: the service's own mapping (R363, R382, log 18). -/
def State.mapFrame (s : State) (part vf pfi flags : Nat) : Option State :=
  match s.part? part with
  | none => none
  | some q =>
    match s.tableAt part (q.root.toNat + 8 * (vf / 2 ^ 17 % 64)) with
    | none => none
    | some (t2, s) =>
      match s.tableAt part (t2 + 8 * (vf / 2 ^ 8 % 512)) with
      | none => none
      | some (t3, s) => some (s.partPuts q (t3 + 8 * (vf % 256)) (leBytes 8 (pfi * 65536 + flags)))

/-- Maps n consecutive frames. -/
def State.mapFrames (s : State) (part vf pfi flags : Nat) : Nat → Option State
  | 0 => some s
  | n + 1 =>
    match s.mapFrame part vf pfi flags with
    | none => none
    | some s => s.mapFrames part (vf + 1) (pfi + 1) flags n

/-- Frames that the service takes and maps for itself: their virtual address. -/
def State.svcMap (s : State) (part n flags : Nat) (gap : Nat := 0) : Option (Nat × Nat × State) :=
  match s.svcAlloc part n gap with
  | none => none
  | some (pfi, vf, s) =>
    match s.mapFrames part vf pfi flags n with
    | none => none
    | some s => some (vf * 65536, pfi, s)

end Sys2Proof.Machine
end

