-- ==== Sys2Proof/Machine/EvSwitch.lean ====
section
/-! DEFINITION. EvSwitch: clock patterns and voltage ramps, the start of a gang, time slices, gang switches: stop, parking and saving,
resumption, and the abort of a slice (R42, R43, R133, R175, R199, R380, R387 to R393, R411 to R416, R421). -/

namespace Sys2Proof.Machine

/-! ## Clusters (R411, R416) -/

def State.onCluster (s : State) (d c : Nat) (f : Cluster → Cluster) : State :=
  s.onDie d fun q => { q with clusters := q.clusters.setIfInBounds c (f (q.clusters.toList.getD c ⟨0xFFFF, [], 0⟩)) }
def State.cluster (s : State) (d c : Nat) : Cluster := (s.die d).clusters.toList.getD c ⟨0xFFFF, [], 0⟩

/-- A trace entry; the oldest of 256 is overwritten (R416). -/
def Cluster.log (c : Cluster) (tick why : Nat) : Cluster :=
  let e : TraceEnt := ⟨tick, c.pat, why⟩
  if 256 ≤ c.trace.length then { c with trace := c.trace.tail ++ [e], lost := c.lost + 1 } else { c with trace := c.trace ++ [e] }

/-- A pattern applies, with its entry. -/
def Cluster.take (c : Cluster) (pat : BitVec 16) (tick why : Nat) : Cluster := ({ c with pat := pat }).log tick why

/-- Enabled slots of a pattern (R411). -/
def slotCount (pat : BitVec 16) : Nat := (List.range 16).countP fun i => pat.getLsbD i

/-- The clusters, as (die, cluster), that hold a member of a gang. -/
def Gang.clusters (g : Gang) : List (Nat × Nat) := (g.l2p.map fun e => (e.2 / 192, e.2 % 192 / 4)).eraseDups

/-- The pattern with the fewest slots among some clusters. -/
def State.leastPat (s : State) (cs : List (Nat × Nat)) : BitVec 16 :=
  cs.foldl (fun p c => if slotCount (s.cluster c.1 c.2).pat < slotCount p then (s.cluster c.1 c.2).pat else p) 0xFFFF

/-! ## Patterns and voltage (R411 to R416) -/

/-- The die voltage a pattern needs, in mV (R412). -/
def patNeed (pat : BitVec 16) : Nat :=
  let n := slotCount pat
  if n ≤ 6 then 650 else if n ≤ 10 then 700 else if n ≤ 13 then 750 else if n = 14 then 800 else 850

/-- The greatest need among a die's clusters and its waiting requests. -/
def Die.need (d : Die) : Nat :=
  (d.clusters.toList.map fun c => patNeed c.pat).foldl max 0 |>.max ((d.reqs.map fun r => patNeed r.pat).foldl max 0)

/-- A ramp starts (R412, R413). -/
def Die.startRamp (d : Die) (mv tick : Nat) : Die := if mv = d.mv then d else { d with ramp := some mv, rampAt := tick }

/-- A request arrives: it supersedes its cluster's waiting ones; it applies at once, or starts or awaits a ramp (R413). One that
supersedes a launch's takes its place in the trace (R416). -/
def Die.request (d : Die) (c : Nat) (pat : BitVec 16) (gang : Option Nat) (why tick : Nat) : Die :=
  let need := patNeed pat
  let now := decide (need ≤ d.mv) && (match d.ramp with
    | none => true
    | some v => decide (need ≤ v))
  let why := if d.reqs.any fun r => r.cluster == c && r.why == 0 then 0 else why
  let d := { d with reqs := d.reqs.filter (fun r => r.cluster != c) ++ [⟨c, pat, gang, why, now⟩] }
  if d.ramp.isNone && decide (d.mv < need) then d.startRamp need tick else d

/-- The cap of a cluster one of whose tiles is DERATED (R415, R427). -/
def State.capped (s : State) (d c : Nat) : Bool :=
  (List.range 4).any fun t => (s.tile (192 * d + 4 * c + t)).assay.state == .derated
def State.capPat (s : State) (d c : Nat) (pat : BitVec 16) : BitVec 16 :=
  if s.capped d c && decide (14 < slotCount pat) then 0x7F7F else pat

/-- A pattern request for one cluster of a die. -/
def State.patRequest (s : State) (d c : Nat) (pat : BitVec 16) (gang : Option Nat) (why : Nat) : State :=
  s.onDie d fun q => q.request c (s.capPat d c pat) gang why s.tick

/-- The clusters of a gang: those that hold a member, or the follower of one. -/
def State.gangClusters (s : State) (g : Gang) : List (Nat × Nat) :=
  (g.clusters ++ g.l2p.filterMap fun (e : Nat × Nat) => (s.tile e.2).pair.partner.map fun q => (q / 192, q % 192 / 4)).eraseDups

/-- Whether a gang's clusters are under its lock (R42). -/
def Gang.locks (g : Gang) : Bool := g.det && !g.sealed && g.stat != .ended && g.stat != .failed

/-- The clusters under one lock with some: with a cluster of a DET gang all of that gang (R42, R414). Each of n rounds takes in the gangs that the
last has reached. -/
def State.lockFrom (s : State) : Nat → List (Nat × Nat) → List (Nat × Nat)
  | 0, cs => cs
  | n + 1, cs =>
    let more := s.gangs.flatMap fun g => if g.locks && (s.gangClusters g).any cs.contains then s.gangClusters g else []
    s.lockFrom n (cs ++ more).eraseDups

/-- The clusters that a request for a gang changes: its own, and those locked together with them. -/
def State.lockedWith (s : State) (g : Gang) : List (Nat × Nat) :=
  if g.locks then s.lockFrom s.gangs.length (s.gangClusters g) else s.gangClusters g

/-- A request that names a gang: every cluster of it and of its lock (R414); one cluster's cap caps them all, so that the lock holds (R42, R415). -/
def State.gangRequest (s : State) (g : Gang) (pat : BitVec 16) (why : Nat) : State :=
  let cs := s.lockedWith g
  let pat := cs.foldl (fun p c => s.capPat c.1 c.2 p) pat
  cs.foldl (fun s c => s.patRequest c.1 c.2 pat (some g.id) why) s

/-- The DET gang under whose lock a cluster is (R42). -/
def State.detOn (s : State) (d c : Nat) : Option Gang := s.gangs.find? fun g => g.locks && (s.gangClusters g).contains (d, c)

/-- A request for one cluster; under a DET gang's lock it is that gang's (R42, R414). -/
def State.clusterRequest (s : State) (d c : Nat) (pat : BitVec 16) (why : Nat) : State :=
  match s.detOn d c with
  | some g => s.gangRequest g pat why
  | none => s.patRequest d c pat none why

/-- Whether a request may apply on its die now (R413). -/
def Die.ready (d : Die) (r : PatReq) : Bool := r.atOnce || (d.ramp.isNone && decide (patNeed r.pat ≤ d.mv))

/-- What follows an applied decrease: a ramp down when the die needs less and none is in progress (R413). -/
def Die.settleDown (d : Die) (tick : Nat) : Die := if d.ramp.isNone && decide (d.need < d.mv) then d.startRamp d.need tick else d

/-- A request applies, under the cap that stands now: the pattern, with the cycles that results in flight have still to go, its trace entry (R2, R415,
R416); then a ramp down when the die needs
less (R413). -/
def State.applyReq (s : State) (d : Nat) (r : PatReq) : State :=
  let old := (s.cluster d r.cluster).pat
  let new := s.capPat d r.cluster r.pat
  let s := (List.range 4).foldl (fun s i => s.onTile (192 * d + 4 * r.cluster + i) fun t => t.redue s.tick old new) s
  let s := s.onCluster d r.cluster fun c => c.take new s.tick r.why
  s.onDie d fun q => { q with reqs := q.reqs.filter fun x => x.cluster != r.cluster }.settleDown s.tick

/-- The requests that name a gang, with their dies. -/
def State.gangReqs (s : State) (g : Nat) : List (Nat × PatReq) :=
  (List.range 8).flatMap fun i => ((s.die i).reqs.filter fun q => q.gang == some g).map fun q => (i, q)

/-- A gang's request applies to every cluster that the gang's lock has now, on the same tick (R414). -/
def State.applyGang (s : State) (gid : Nat) (r : PatReq) : State :=
  let cs := (s.gangReqs gid).map fun e => (e.1, e.2.cluster)
  let now := match s.gang? gid with
    | some g => s.lockedWith g
    | none => []
  let all := (cs ++ now).eraseDups
  let pat := all.foldl (fun p c => s.capPat c.1 c.2 p) r.pat
  all.foldl (fun s c => s.applyReq c.1 { r with cluster := c.2, pat := pat }) s

/-- Whether the compute dies' clocks run (R434). -/
def State.clocked (s : State) : Bool := !s.svc.frozen.any (· ≤ s.tick)

/-- PATTERN_APPLY for cluster c of die d, while the clocks run (R434): its request applies at a frame boundary; one that names a gang applies to all the
gang's clusters at once, when every die is ready (R412 to R414). -/
def execPatternApply (d c : Nat) (s : State) : Out :=
  .next (match (s.die d).reqs.find? fun r => r.cluster == c with
    | none => s
    | some r =>
      if s.tick % 16 ≠ 0 ∨ s.clocked = false then s
      else match r.gang with
        | none => if (s.die d).ready r then s.applyReq d r else s
        | some g => if (s.gangReqs g).all fun e => (s.die e.1).ready e.2 then s.applyGang g r else s)

/-- RAMP_STEP of die d, while the clocks run (R434): 10 mV nearer its target after 3,600 ticks (R412). -/
def execRampStep (d : Nat) (s : State) : Out :=
  .next (match (s.die d).ramp with
    | none => s
    | some v =>
      if s.tick < (s.die d).rampAt + 3600 ∨ s.clocked = false then s
      else s.onDie d fun q =>
        { q with mv := if q.mv < v then min v (q.mv + 10) else max v (q.mv - 10), rampAt := q.rampAt + 3600 })

/-- What follows the end of a ramp: one new ramp to the greatest need of the waiting requests, or one down. -/
def Die.nextRamp (d : Die) (tick : Nat) : Die :=
  let want := (d.reqs.map fun r => patNeed r.pat).foldl max 0
  if d.mv < want then d.startRamp want tick
  else if d.need < d.mv then d.startRamp d.need tick
  else d

/-- RAMP_END of die d, while the clocks run (R434): the ramp is over; what it satisfies applies at the next frame boundary; waiting requests that need more start one new ramp to their greatest need, and a die
that needs less starts one down (R413). -/
def execRampEnd (d : Nat) (s : State) : Out :=
  .next (match (s.die d).ramp with
    | none => s
    | some v =>
      if (s.die d).mv ≠ v ∨ s.clocked = false then s
      else s.onDie d fun q =>
        let met := fun (r : PatReq) => { r with atOnce := r.atOnce || decide (patNeed r.pat ≤ q.mv) }
        ({ q with ramp := none, reqs := q.reqs.map met }).nextRamp s.tick)

/-! ## Start (R43) -/

/-- Whether the emergency save of a die is under way (R421). -/
def State.dieSaving (s : State) (d : Nat) : Bool :=
  s.gangs.any fun g => g.emerg.contains d && !g.sealed && g.stat != .ended && g.stat != .failed

/-- Whether the dies of a gang may start it. -/
def State.diesReady (s : State) (ds : List Nat) : Bool := ds.all fun d => (s.die d).powered && !s.dieSaving d

/-- A member begins: its first snapshot is its launch state. -/
def Tile.begin (t : Tile) : Tile := { t with ctl := { t.ctl with stat := .running } }.takeSnap

/-- GANG_START: from T0 on every thread may fetch (R43). While an emergency save of one of its dies lasts, the start tick is a frame boundary
later (R421, log 23). -/
def execGangStart (gid : Nat) (s : State) : Out :=
  .next (match s.gang? gid with
    | none => s
    | some g =>
      if g.stat != .placed || !(g.dies.all fun d => (s.die d).powered) || s.tick < g.t0 then s
      else if g.dies.any s.dieSaving then s.setGang { g with t0 := (s.tick / 16 + 1) * 16 }
      else (s.onMembers g Tile.begin).setGang { g with stat := .running, bmuSnap := g.bmus, t1 := s.tick })

/-- The ticks within which the dies of a gang can reach the voltage of the reset pattern (R412, R413). -/
def State.raiseTicks (s : State) (ds : List Nat) : Nat :=
  ds.foldl (fun n d =>
    let q := s.die d
    let v := q.ramp.getD q.mv
    max n (((v - q.mv) + (q.mv - v) + (850 - v) + 9) / 10 * 3600)) 0

/-- The requests that give the clusters of a gang a pattern: a DET gang's name the gang (R42, R414). -/
def State.clusterPats (s : State) (g : Gang) (pat : Nat × Nat → BitVec 16) (why : Nat) : State :=
  if g.det then s.gangRequest g (g.clusters.foldl (fun p c => if slotCount (pat c) < slotCount p then pat c else p) 0xFFFF) why
  else g.clusters.foldl (fun s c => s.clusterRequest c.1 c.2 (pat c) why) s

/-- Whether a pattern of a gang's clusters has not applied yet. -/
def State.patPending (s : State) (g : Gang) : Bool :=
  !(s.gangReqs g.id).isEmpty || (s.gangClusters g).any fun c => (s.die c.1).reqs.any fun r => r.cluster == c.2

/-! ## Slices and stops (R380, R387, R421) -/

/-- A gang switch of the service's own is named `ahead` ticks from now. -/
def State.switchSoon (s : State) (g : Gang) (ahead : Nat) : State :=
  if g.stat == .running then s.setGang { g with stat := .stopping, ts := s.tick + ahead, auto := true } else s

/-- The gang switch of an emergency save of die d at `ts`, whatever the gang does: an earlier stop stands; a rollback ends first; a resumption
is undone; a gang that has not started is saved in its launch state (R421). -/
def State.saveSoon (s : State) (g : Gang) (ts d : Nat) : State :=
  let k := { g with emerg := d :: g.emerg }
  match g.stat with
  | .placed => (s.onMembers g Tile.takeSnap).setGang { k with stat := .stopping, ts := ts, auto := true, bmuSnap := g.bmus }
  | .running => s.setGang { k with stat := .stopping, ts := ts, auto := true }
  | .stopping => s.setGang { k with ts := min g.ts ts }
  | .rolling => s.setGang { k with ts := if g.t1 < g.ts then min g.ts ts else ts, auto := true }
  | .resuming => s.setGang { k with stat := .stopped, ts := ts, auto := true, wake := none }
  | .stopped => s.setGang k
  | .ended | .failed => s

/-- A thread stops where it stands; a halted one stays so. -/
def Stat.stop : Stat → Stat
  | .running | .launched => .stopped none
  | .waiting w => .stopped (some w)
  | .moving b => .stopped b
  | x => x
/-- A thread stops: an envelope command in progress is discarded, to execute again from its beginning, and a migration ends (R191, R387, R419); `moveTo`
then says that placement is to choose a new tile. -/
def Tile.stop (t : Tile) : Tile :=
  let t := t.discardEnv
  let t := { t with envq := t.envq.map fun (c : EnvCmd) => { c with out := none } }
  let moving := match t.ctl.stat with
    | .moving _ => true
    | _ => false
  { t with ctl := { t.ctl with stat := t.ctl.stat.stop, moveTo := if moving then t.ctl.moveTo else none, moveEnd := none } }

/-- GANG_SWITCH_STOP at Ts, after a rollback, and after a gang boundary that every member still waits at (R387). -/
def execGangSwitchStop (gid : Nat) (s : State) : Out :=
  .next (match s.gang? gid with
    | none => s
    | some g =>
      if g.stat != .stopping || s.tick < g.ts || g.rolling.isSome || (g.commit.isSome && g.pairs.all fun e => s.arrivedAt g e.1 e.2) then s
      else (s.onMembers g Tile.stop).setGang { g with stat := .stopped, ts := s.tick })

/-! ## Parking and saving (R175, R199, R387 to R389) -/

/-- Whether a split X part of tile p can still issue or complete (R387). -/
def State.partReady (s : State) (p : Nat) : Bool :=
  let t := s.tile p
  t.fe.xl.any (fun o => (t.landLoad o).isSome) || (match t.fe.xq with
  | [] => false
  | x :: _ => match x.work with
    | .word _ | .split | .push .. => false
    | .part q => (({ s with cur := p } : State).issuePart State.runPartV x.seq q).isSome)

/-- Whether the engines have drained, a rotation step, a blocked completion or a chain round not yet ended apart (R175, R199). -/
def Tile.engDrained (t : Tile) : Bool :=
  (match t.mx.run with
    | none => t.mx.fifo.isEmpty && t.mx.remote.isEmpty
    | some r => r.computed && r.out.isEmpty) &&
  (match t.scan.run with
    | none => (match t.scan.fifo with
      | [] => true
      | c :: _ => c.op == .spass && t.scan.spassDone)
    | some c => c.op == .spass || c.op == .sclose)

/-- An item that is saved as received: a carry, a ready report, a credit, and a rotation send, which starts again (R133, R175, R199). -/
def State.saveItem (s : State) (f : Flight) : State :=
  let at_ := fun (l : Nat) (h : Tile → Tile) => match s.flightTile f l with
    | some p => s.onTile p h
    | none => s
  match f.msg with
  | .carry cfg lanes => at_ f.dst fun t => { t with scan := { t.scan with carryIn := some (cfg, lanes) } }
  | .credit => at_ f.dst fun t => { t with mx := { t.mx with credit := true } }
  | .ring _ _ => at_ f.src fun t => { t with mx := { t.mx with sending := true, credit := true } }
  | .ready r =>
    match s.gang? f.g with
    | none => s
    | some g => match g.bmu f.dst with
      | none => s
      | some b => (s.setGang (g.setBmu f.dst { b with reports := b.reports ++ [r] })).checkDie f.g f.dst
  | _ => s

def Msg.savedAsReceived : Msg → Bool
  | .carry .. | .credit | .ring .. | .ready _ => true
  | _ => false

/-- Whether a tile's half has arrived whole at its successor, in a rotation step that is not finished, and the successor has not taken it. -/
def Tile.resends (t : Tile) : Bool := t.mx.sent && !t.mx.credit && (match t.mx.run with
  | some r => r.cmd.rot && !r.swapped && decide (1 < ringLen r.cmd.mring)
  | none => false)

/-- A saved rotation step of tile p restarts from its beginning: it has its credit again, and its half, which is to be sent again, has not arrived
(R175). A half that the successor's swap has taken, so that its credit is back, is not sent again: it would enter the successor's next step (DESIGN CHOICE,
log 82). -/
def State.restartStep (s : State) (g : Gang) (p : Nat) : State :=
  let t := s.tile p
  if !t.resends then s
  else
    let s := s.setTile p { t with mx := { t.mx with sent := false, sending := true, credit := true } }
    match t.mx.run.bind fun r => g.phys (t.ringSucc r.cmd.mring) with
    | some q => s.onTile q fun u => { u with mx := { u.mx with backIn := false } }
    | none => s

/-- The wait of a rotation step that restarts begins anew (R163, R175). -/
def Tile.stepAnew (t : Tile) (tick : Nat) : Tile := { t with mx := { t.mx with run := t.mx.run.map fun r =>
  if r.cmd.rot && !r.swapped then { r with since := tick } else r } }

/-- A tile given up by a saved thread. -/
def State.freeTile (s : State) (part p : Nat) : State :=
  (s.vacate part p).onTile p fun t => { Tile.reset with spad := t.spad, latent := t.latent, assay := t.assay }

/-- The misses of some tiles leave the walkers. -/
def Die.dropWaiters (ps : List Nat) (d : Die) : Die :=
  { d with walks := d.walks.map fun (w : Walk) => { w with waiters := w.waiters.filter fun u => !ps.contains u.1 } }

/-- An item out of parking. -/
def Flight.unpark (f : Flight) : Flight := { f with parked := false }

/-- A tile as its context holds it: a copy keeps what it has moved, not what it has read ahead; a restored j register counts as written before the
first instruction (R253, R387, R389). -/
def Tile.saved (t : Tile) : Tile := { t with
  copies := t.copies.map fun c => { c with got := [] }
  fe := { t.fe with jat := .replicate 4 none } }

/-- The pair records of the followers of a gang, by their leader's logical index (R405). -/
def State.followers (s : State) (g : Gang) : SMap Pair :=
  g.pairs.filterMap fun e => (s.tile e.2).pair.partner.map fun q => (e.1, (s.tile q).pair)

/-- SWITCH_PARK at Ts + 4,096: the gang's items are parked, unfinished copies and rotation steps saved, the contexts sealed (R175, R388, R389). A consumption
that has named a rollback comes first (R398). -/
def execSwitchPark (gid : Nat) (s : State) : Out :=
  .next (match s.gang? gid with
    | none => s
    | some g =>
      if g.stat != .stopped || g.sealed || s.tick < g.ts + 4096 || g.rolling.isSome ||
        g.pairs.any (fun e => s.partReady e.2 || !(s.tile e.2).engDrained) then s
      else
        let own := s.net.filter fun f => f.g == gid
        let s := { s with net := s.net.filter fun f => f.g != gid }
        let s := (own.filter fun f => f.msg.savedAsReceived).foldl State.saveItem s
        let s := g.pairs.foldl (fun s e => s.restartStep g e.2) s
        match s.gang? gid with
        | none => s
        | some g =>
          let ctx : Context :=
            { tiles := g.pairs.map fun e => (e.1, (s.tile e.2).saved), pats := g.pairs.map fun e => (e.1, (s.cluster (e.2 / 192) (e.2 % 192 / 4)).pat)
              follow := s.followers g, net := own.filter fun f => !f.msg.savedAsReceived, bmus := g.bmus
              fired := g.fired, step := g.step, commit := g.commit, staged := g.staged, consumed := g.consumed, poisonRolled := g.poisonRolled
              serial := g.serial, bcause := g.bcause, btake := g.btake, suspect := g.suspect, key := s.svc.draws }
          let s := g.pairs.foldl (fun s e => s.freeTile g.part e.2) s
          let s := { s with dies := s.dies.map (Die.dropWaiters (g.pairs.map Prod.snd)) }
          { s with svc := { s.svc with draws := s.svc.draws + 1 } }.setGang { g with
            sealed := true, saved := some ctx, slice := false, emerg := [], stat := if g.auto then .resuming else .stopped
            t1 := g.resumeAt.getD g.t1, resumeAt := none })

/-! ## Resumption (R390, R392, R393) -/

/-- The tiles of a saved gang whose migration the switch has ended (R419). -/
def Gang.leaving (g : Gang) : List Nat := match g.saved with
  | none => []
  | some c => g.l2p.filterMap fun e => match smFind e.1 c.tiles with
    | some t => if t.ctl.moveTo.isSome then some e.2 else none
    | none => none

/-- Whether a tile lies in another partition than a given one. -/
def State.foreign (s : State) (part p : Nat) : Bool := s.parts.any fun q => q.owns p && q.id != part

/-- A gang's old places, when they may all be taken again; a thread whose migration the switch has ended takes a spare (R390, R419). -/
def State.oldPlaces (s : State) (g : Gang) : List (Nat × Nat) → Option (List (Nat × Nat))
  | [] => some []
  | e :: r =>
    match s.oldPlaces g r with
    | none => none
    | some l =>
      if g.leaving.contains e.2 then (s.spareFor g e.2 ((g.l2p ++ l).map (·.2))).map fun q => (e.1, q) :: l
      else if s.usable e.2 && !s.foreign g.part e.2 then some (e :: l) else none

/-- Tiles for a saved gang: its old ones, else those of R428, in other groups than those that a thread is to leave (R419). -/
def State.replace (s : State) (g : Gang) : Option (List Nat × List (Nat × Nat)) :=
  match if g.anew then none else s.oldPlaces g g.l2p with
  | some l => some (g.dies, l)
  | none => match s.part? g.part with
    | none => none
    | some q => s.placeGang { q with groups := q.groups.filter fun gg => !g.leaving.any fun p => p / 16 == gg } (g.dies.map fun _ => none) g.groups

/-- Whether another context of the partition waits for a place that it does not find (R380). -/
def State.contended (s : State) (g : Gang) : Bool :=
  s.gangs.any fun h => h.part == g.part && h.id != g.id && h.stat == .resuming && h.sealed && (s.replace h).isNone

/-- TIME_SLICE_END: a slice of at least 3,600,000 ticks ends in a gang switch while another context waits (R380, R387). -/
def execTimeSliceEnd (gid : Nat) (s : State) : Out :=
  .next (match s.gang? gid with
    | none => s
    | some g => if g.t1 + 3600000 ≤ s.tick && s.contended g then s.switchSoon g 8192 else s)

/-- A saved thread on its tile again. -/
def Tile.restoreOn (saved onto : Tile) : Tile :=
  { saved with assay := onto.assay, latent := onto.latent, tlb := [], ctl := { saved.ctl with moveTo := none } }

/-- A saved pair is again on the leader's tile p and on a follower's: the old one with the old leader's, else the one that R405 takes; none while there is
no tile for it. A switch couples and uncouples no pair (R405; log 22). -/
def State.rejoin (s : State) (part old p : Nat) (k : Pair) : Option State :=
  match (s.tile p).pair.partner with
  | none => some s
  | some f =>
    let f' := if old = p ∧ (s.poolRank part f).isSome then some f else s.followerFor part p
    f'.map fun q =>
      let s := s.onTile p fun t => { t with pair := { t.pair with partner := some q } }
      s.onTile q fun u => { (s.tile p).followOn u with pair := { k with partner := some p } }

/-- The saved threads of a gang are on given tiles again, with their followers. -/
def State.putBack (s : State) (g : Gang) (ctx : Context) (l2p : List (Nat × Nat)) : Option State :=
  let s := l2p.foldl (fun s e => match smFind e.1 ctx.tiles with
    | some t => s.onTile e.2 t.restoreOn
    | none => s) s
  l2p.foldlM (fun s e => s.rejoin g.part ((g.phys e.1).getD e.2) e.2 ((smFind e.1 ctx.follow).getD .reset)) s

/-- The pattern that a cluster had for the threads that it now holds, which their contexts keep (R389). -/
def Context.patOf (c : Context) (l2p : List (Nat × Nat)) (cc : Nat × Nat) : BitVec 16 :=
  (l2p.findSome? fun e => if e.2 / 192 = cc.1 ∧ e.2 % 192 / 4 = cc.2 then smFind e.1 c.pats else none).getD 0xFFFF

/-- Gangs present on a die (R121). -/
def State.gangsPresent (s : State) (d : Nat) : Nat :=
  s.gangs.countP fun g => g.stat != .ended && g.stat != .failed && !g.sealed && g.dies.contains d

/-- The gangs whose places a slice takes: of those that a switch of the service's own has saved, the last to have run on each of its tiles (R392). -/
def State.ranBefore (s : State) (g : Gang) (l2p : List (Nat × Nat)) : List Nat :=
  let cands := s.gangs.filter fun h => h.part == g.part && h.sealed && h.auto && h.id != g.id
  let on := fun (h : Gang) (p : Nat) => h.l2p.any fun e => e.2 == p
  (cands.filter fun h => l2p.any fun e => on h e.2 && !cands.any fun k => on k e.2 && decide (h.ts < k.ts)).map (·.id)

/-- Contexts are restored and parked items enter the network ahead of all other traffic (R390); the clusters take the patterns of the
contexts, those of a DET gang one (R42, R389). The packages of a TOP 5 gang agree T1 then (R392; log 20). At most 8 gangs are present on a die (R121). -/
def State.restoreGang (s : State) (g : Gang) : State :=
  match g.saved, s.replace g with
  | some ctx, some (ds, l2p) =>
    if !s.diesReady ds || ds.any (fun d => decide (8 ≤ s.gangsPresent d)) then s
    else match s.putBack g ctx l2p with
    | none => s
    | some s =>
      let s := { s with net := ctx.net.map Flight.unpark ++ s.net }
      let s := g.l2p.foldl (fun s e => match smFind e.1 l2p with
        | some q => s.ackMoves e.2 q
        | none => s) s
      let prior := s.ranBefore g l2p
      let g := { g with
        dies := ds, l2p := l2p, sealed := false, stat := .resuming, bmus := ctx.bmus, fired := ctx.fired, prior := prior, wake := none, anew := false
        t1 := if g.top = 5 then max g.t1 (s.tick + 8192) else g.t1 }
      (s.setGang g).clusterPats g (ctx.patOf l2p) (if g.det then 2 else 1)
  | _, _ => s

/-- A thread goes on as it stood. -/
def Stat.goOn : Stat → Stat
  | .stopped none | .moving none => .running
  | .stopped (some w) | .moving (some w) => .waiting w
  | x => x
/-- A wait lasts since its arrival, whatever stopped the gang (R133). -/
def Tile.unstop (t : Tile) : Tile := { t with ctl := { t.ctl with stat := t.ctl.stat.goOn } }

/-- Whether a global load whose request a gang switch has parked has not performed: one that its A part, its mask and what stood before it let go (R390). -/
def Tile.loadParked (t : Tile) : Bool := t.loads.any fun l => (match l.kind with
    | .global .. => true
    | .remote | .amo => false) && !t.maskAwaited l.id && !t.fe.late.any fun e => match e.what with
      | .read id .. => id == l.id
      | .gsb .. | .store .. | .fetch .. => false

/-- GANG_RESUME: the contexts are restored; once every parked item has performed, T1 is named, 4,096 ticks on or later, in the replies of the PREEMPT requests
too; and the threads issue from T1 on (R390, R431). -/
def execGangResume (gid : Nat) (s : State) : Out :=
  .next (match s.gang? gid with
    | none => s
    | some g =>
      if g.stat != .resuming then s
      else if g.sealed then s.restoreGang g
      else match g.wake with
      | none =>
        if (s.net.any fun f => f.g == gid) || g.pairs.any (fun e => (s.tile e.2).loadParked) || s.patPending g then s
        else
          let t1 := max g.t1 (s.tick + 4096)
          (s.answerAsked g 0 [BitVec.ofNat 64 t1]).setGang { g with wake := some t1, asked := [] }
      | some t1 =>
        if s.tick < t1 then s else
        let s := s.onMembers g fun t => t.unstop.stepAnew s.tick
        let s := g.pairs.foldl (fun s e => if (s.tile e.2).mx.sending && (s.tile e.2).mx.credit then s.ringSend e.2 else s) s
        s.setGang { g with stat := .running, t1 := s.tick, slice := true, auto := false, wake := none })

/-- AMOs that the members have recorded beyond their saved contexts. -/
def State.sliceAmos (s : State) (g : Gang) (ctx : Context) : Nat :=
  g.pairs.foldl (fun n e => n + ((s.tile e.2).undo.amos.length - (((smFind e.1 ctx.tiles).map fun t => t.undo.amos.length).getD 0))) 0

/-- Whether a slice of a TOP 5 gang is to be aborted: the grace after T1 is over, and a package has not started, this one or, which only the
coordinator can tell, another (R392; log 20). -/
def State.sliceLate (s : State) (g : Gang) : Bool :=
  g.top == 5 && decide (g.t1 + 7200000 ≤ s.tick) &&
  ((g.stat == .running && g.slice && decide (7200000 < Config.lateStart g.t1)) || (g.stat == .resuming && !g.sealed))

/-- SLICE_ABORT: past the grace after T1 the slice is discarded in every package, its saved contexts stand, and the contexts
that ran before it resume; the report names a late package, which the model leaves free (R392; log 20). -/
def execSliceAbort (gid : Nat) (s : State) : Out :=
  .next (match s.gang? gid with
    | none => s
    | some g =>
      match g.saved with
      | none => s
      | some ctx =>
        if !s.sliceLate g then s
        else
          let n := s.sliceAmos g ctx
          let s := g.pairs.foldl (fun s e => s.freeTile g.part e.2) { s with net := s.net.filter fun f => f.g != gid }
          let s := s.setGang { g with
            sealed := true, slice := false, stat := .resuming, auto := true, bmus := ctx.bmus, fired := ctx.fired, step := ctx.step
            commit := ctx.commit, staged := ctx.staged, consumed := ctx.consumed, poisonRolled := ctx.poisonRolled, serial := ctx.serial, bcause := ctx.bcause
            btake := ctx.btake, suspect := ctx.suspect, rolling := none, ate := none, wake := none, prior := [] }
          let s := s.notice (.aborted gid (if g.stat == .resuming then g.pkg else Config.latePackage s.steps) n)
          g.prior.foldl (fun s h => match s.gang? h with
            | some h => if h.sealed && h.auto then s.restoreGang h else s
            | none => s) s)

end Sys2Proof.Machine
end

