-- ==== Sys2Proof/Machine/EvReliab.lean ====
section
/-! DEFINITION. EvReliab: uncorrectable errors, rollback, serial re-execution, redundant pairs (R174, R396, R398 to R410). -/

namespace Sys2Proof.Machine

/-! ## Consumptions (R174, R398, R399, R410) -/

/-- Whether a byte offset is an operand byte of a matrix command (R174). -/
def MxCmd.operandByte (c : MxCmd) (a : Nat) : Bool := c.operandOffs.2.contains a

/-- Where the latch addresses of scale words and of the back half's elements begin. -/
abbrev scaleErrBase : Nat := 0x2_0000
abbrev backErrBase : Nat := 0x4_0000

/-- A half with the element at row k and column j as zero. -/
def Half.zeroAt (h : Half) (e : Nat) : Half := { h with elems := smDel e h.elems }

/-- An operand byte of the running matrix command found uncorrectable, or a failing latch element (k x 32 + j in the front half, that and
`backErrBase` in a shard that has failed on the ring wires) or scale word (`scaleErrBase` and its index); none when the error is none of these
(R163, R174). -/
def Tile.operandError (t : Tile) (addr : Nat) (kind : UcUnit) : Option Tile :=
  let element := fun (u : Tile) (e : Nat) => u.noteErrs [(1, e / 32 % 32, e % 32)]
  match kind with
  | .latch =>
    if addr < scaleErrBase then some (element { t with mx := { t.mx with front := t.mx.front.zeroAt addr } } addr)
    else if backErrBase ≤ addr then
      some (element { t with mx := { t.mx with back := t.mx.back.zeroAt (addr - backErrBase) } } (addr - backErrBase))
    else
      let i := addr - scaleErrBase
      let nb := max t.mx.nb 1
      some ({ t with mx := { t.mx with scales := t.mx.scales.set i 0 } }.noteErrs [(2, i / nb % 32, i % nb)])
  | .scratchpad =>
    match t.mx.run with
    | some r =>
      if !r.computed && r.cmd.operandByte addr then some { t with mx := { t.mx with run := some { r with bad := addr :: r.bad } } }
      else none
    | none => none
  | _ => none

/-- ERRCNT counts, saturating (R409). -/
def Tile.errCount (t : Tile) : Tile :=
  let n := bitsOf t.ir.relstat 47 40
  { t with ir := { t.ir with relstat := setField t.ir.relstat 47 40 (if n < 255 then n + 1 else 255) } }

/-- Whether the threads of a gang are on tiles and have not been rolled back: what they read with an error is consumed (R398). -/
def Gang.present (g : Gang) : Bool :=
  match g.stat with
  | .running | .stopping => true
  | .stopped | .resuming => !g.sealed
  | .placed | .rolling | .ended | .failed => false

/-- Whether every member's superstep is protected (R397). -/
def State.protected (s : State) (g : Gang) : Bool := g.pairs.all fun e => !(s.tile e.2).undo.full

/-- The consuming instruction has no effect: its thread stands until the rollback, and an AMO under way to the line does not act
(R398, log 78). -/
def State.noEffect (s : State) (g : Gang) (p : Nat) (addr : Word) : State :=
  let t := s.tile p
  let amo := fun (f : Flight) => f.g == g.id && f.src == t.lidx && t.gang.isSome && (match f.msg with
    | .amo _ pa .. => pa / 64 == addr.toNat / 64
    | _ => false)
  let s := { s with net := s.net.filter fun f => !amo f }
  if t.gang.isSome && t.ctl.stat == .running then s.setTile p { t with ctl := { t.ctl with stat := .stopped none } } else s

/-- A consumption at a tile of a gang; the errors that a follower consumes count in its log records alone (R398, R399, R409). -/
def State.consume (s : State) (g : Gang) (p : Nat) (addr : Word) (kind : UcUnit) : State :=
  let s := if (s.tile p).gang.isSome then s.onTile p Tile.errCount else s
  if g.rolling.isSome then (s.logTile 1 p kind addr (if g.stat == .rolling then 0 else 1)).noEffect g p addr
  else if !s.protected g || 4 ≤ g.consumed then (s.logTile 2 p kind addr).gangFail g.id p addr
  else
    let s := (s.logTile 1 p kind addr 1).noEffect g p addr
    s.schedRoll { g with consumed := g.consumed + 1, ate := some (p, kind, addr) } 1

/-- Whether an address lies in the undo region of a tile: its records are read while a rollback restores (R399). -/
def Tile.inUndo (t : Tile) (addr : Word) : Bool :=
  match t.undo.base with
  | some b => decide (b ≤ addr.toNat) && decide (addr.toNat < b + t.undo.size)
  | none => false

/-- The gang whose thread or follower a tile holds. -/
def State.gangAt (s : State) (p : Nat) : Option Gang :=
  match s.gangOf (s.tile p) with
  | some g => some g
  | none =>
    match (s.tile p).pair.partner with
    | some l => s.gangOf (s.tile l)
    | none => none

/-- UNCORRECTABLE_CONSUMPTION at tile p: an operand element as R174 has it, logged as KIND 4; else a rollback is named 512 ticks ahead, a
second one before Tr is absorbed, and an unprotected or a fifth one ends the gang, as does one in an undo record that a rollback reads
(R174, R398, R399, R410). -/
def execUncorrectableConsumption (p : Nat) (addr : Word) (kind : UcUnit) (s : State) : Out :=
  .next (match s.gangAt p with
    | none => s
    | some g =>
      if !g.present && g.stat != .rolling then s
      else match (s.tile p).operandError addr.toNat kind with
        | some t => (s.setTile p t).logTile 4 p kind addr
        | none =>
          if g.stat == .rolling && kind == .memory && (s.tile p).inUndo addr then (s.logTile 2 p kind addr).gangFail g.id p addr
          else s.consume g p addr kind)

/-! ## Errors that a read finds (R376, R398, R439) -/

/-- A place with an error that is known: a scratchpad byte of a tile, or a line of memory whose tag is bad. -/
inductive Spot where
  | byte (p a : Nat)
  | line (l : Nat)
  deriving DecidableEq, Repr

/-- The places that the threads of a gang may read. -/
def State.spots (s : State) (g : Gang) : List Spot :=
  g.l2p.flatMap (fun e => (s.tile e.2).latent.map (Spot.byte e.2)) ++ s.svc.bad.map Spot.line

/-- Another value in the bytes of a place: what a read of it gives is nowhere said. -/
def State.flipAt (s : State) : Spot → State
  | .byte p a => s.onTile p fun t => { t with spad := memWrite a (~~~memRead a t.spad) t.spad }
  | .line l => { s with mem := (List.range 64).foldl (fun m i => memWrite (64 * l + i) (~~~memRead (64 * l + i) m) m) s.mem }

/-- The bytes of a place, with the copies of them that a snapshot and the checkpoints hold, left out of account. -/
def State.without (s : State) : Spot → State
  | .byte p a => s.onTile p fun t =>
    { t with
      spad := memWrite a 0 t.spad
      snap := t.snap.map fun k => { k with spad := memWrite a 0 k.spad }
      task := { t.task with cks := t.task.cks.map fun k => { k with spad := memWrite a 0 k.spad } } }
  | .line l => { s with mem := (List.range 64).foldl (fun m i => memWrite (64 * l + i) 0 m) s.mem }

/-- What a move leaves, but for the bytes of a place. -/
def outWithout (x : Spot) : Option Out → Option State
  | some (.next s) => some (s.without x)
  | _ => none

/-- Whether a move reads a place: what it does depends on the bytes there (R398). -/
def State.reads (s : State) (m : State → Option Out) (x : Spot) : Bool := outWithout x (m s) != outWithout x (m (s.flipAt x))

/-- The consumption of an error that tile p finds at a place. -/
def State.consumeAt (s : State) (g : Gang) (p : Nat) : Spot → State
  | .byte _ a => s.consume g p (BitVec.ofNat 64 a) .scratchpad
  | .line l => s.consume g p (BitVec.ofNat 64 (64 * l)) .memory

/-- A move of tile p, unless it reads a place with an error: one that it is known to read, or whose bytes decide what it does. Then it has no effect and the
error is consumed; while a rollback is named it does not happen (R398; log 78). -/
def State.checked (m : State → Option Out) (p : Nat) (s : State) (known : List Spot := []) : Option Out :=
  match s.gangAt p with
  | none => m s
  | some g =>
    if !g.present then m s
    else match (s.spots g).find? (fun x => known.contains x || s.reads m x) with
      | none => m s
      | some x => if g.rolling.isSome then none else some (.next (s.consumeAt g p x))

/-! ## Moving a thread to a spare (R403, R408) -/

/-- The thread of tile p goes to tile q, its j registers as if written before the first instruction (R253); p is free, and no spare while it is above
85 °C (R420). -/
def State.moveThread (s : State) (gid p q : Nat) : State :=
  match s.gang? gid with
  | none => s
  | some g =>
    let t := s.tile p
    let s := s.setTile q { t with
      assay := (s.tile q).assay, latent := (s.tile q).latent, tlb := [], ctl := { t.ctl with moveTo := none, moveEnd := none }
      fe := { t.fe with jat := .replicate 4 none } }
    let s := match t.pair.partner with
      | some f => s.onTile f fun u => { u with pair := { u.pair with partner := some q } }
      | none => s
    let s := (s.onTile p fun t => { t with pair := .reset }).freeTile g.part p
    let s := s.onTile p fun t => { t with assay := { t.assay with hot := decide (85 < t.assay.temp) } }
    let s := ({ s with dies := s.dies.map (Die.dropWaiters [p]) } : State).ackMoves p q
    s.setGang { g with l2p := g.l2p.map fun e => if e.2 = p then (e.1, q) else e }

/-- A suspect tile leaves service and its thread goes to a spare; without one it runs as a pair, or stays (R403, R405). -/
def State.moveSuspect (s : State) (gid p : Nat) : State :=
  match s.gang? gid with
  | none => s
  | some g =>
    match s.spareFor g p with
    | some q => (s.moveThread gid p q).drainTile p
    | none => s.couple g.part p true

/-- The pair that tile p leads is no more, at the gang boundary that its gang has rolled back to: the thread goes to a spare tile, and both tiles
are drained as suspect (R405, R408). -/
def State.breakPair (s : State) (gid p : Nat) : State :=
  match s.gang? gid, (s.tile p).pair.partner with
  | some g, some q =>
    let spare := s.spareFor g p [q]
    let s := s.uncouple p q
    let s := match spare with
      | some r => s.moveThread gid p r
      | none => s
    (s.drainTile p).drainTile q
  | _, _ => s

/-! ## Rollback (R56, R396, R398, R401) -/

/-- RELSTAT at a rollback: RCOUNT, REPLAY, SERIAL (R409). -/
def relRolled (w : Word) (serial : Bool) : Word :=
  let n := bitsOf w 6 4
  setField (setField (setField w 6 4 (if n < 4 then n + 1 else 4)) 3 3 1) 2 2 (if serial then 1 else 0)

/-- Errors in scratchpad bytes go with the lines that a rollback writes back (R395, R398). -/
def Tile.cleared (t : Tile) : List Nat := t.latent.filter fun a => !t.undo.lines.contains (a / 64)

/-- A tile at its snapshot again. -/
def Tile.rollback (t : Tile) (serial : Bool) : Tile :=
  match t.snap with
  | none => t
  | some k =>
    let recs := t.undo.amos.foldl (fun m e => smPut e.1 e.2 m) t.undo.replay
    let toUser := bitsOf k.status 1 0 = 0 ∧ t.mode ≠ 0
    { t with
      ctl := { t.ctl with
        stat := .stopped none, raised := false, passedTerm := k.passedTerm, failed := false, moveTo := none
        moveEnd := none }
      regs := k.regs
      ur := k.ur
      ir := { t.ir with relstat := relRolled t.ir.relstat serial, tstamp := BitVec.ofNat 64 Config.bgStamp }
      sr := { t.sr with status := k.status }
      fe := { t.fe with
        pc := k.pc, flow := .seq, xq := [], xl := k.xl, late := [], kept := [], ahead := [], skip := k.skip, res := []
        aq := k.owed.map fun w => ⟨t.fe.seq - 1, k.pc, k.regs.loop, .push w.1 w.2⟩ }
      spad := k.spad
      latent := t.cleared
      env := k.env
      envq := []
      mx := { t.mx with
        ring := k.ring, acc := k.acc, modes := k.modes, xmodes := k.modes, fifo := [], remote := [], lastRemote := true, run := none
        front := k.front, back := k.back, backIn := false, sending := false, sent := false, credit := true, fills := k.fills
        nb := k.nb, scales := k.scales, cf := [], pushes := k.pushes, owed := 0 }
      scan := { k.scan with fifo := [], run := none, ready := false, out := [], fl := 0 }
      cp := if toUser then t.cpBank else t.cp
      copies := []
      cpNext := k.cpNext
      ni := { k.ni with journal := [], refusals := [], replay := [], reorder := [], held := [] }
      tokens := t.tokens.map fun c => ⟨c.gen, false, false, []⟩
      loads := t.loads.filter fun l => decide (l.id < k.serial)
      damos := []
      task := { t.task with opened := false, region := false, tasks := [], bg := .background, cks := [], redo := [] }
      undo := { t.undo with
        used := 32 * recs.length, written := 0, lines := [], accRows := [], envs := [], latch := [], full := false, raised := true, calls := [], amos := []
        replay := recs }
      pair := { t.pair with mark := 0, count := 0, upTo := 0, agreed := 0, sent := 0, inbox := none, split := false } }

/-- Whether a network item belongs to a load or AMO issued before its thread's snapshot. -/
def State.beforeSnap (s : State) (f : Flight) : Bool :=
  let before := fun (l id : Nat) => match s.flightTile f l with
    | none => false
    | some p => ((s.tile p).snap.map fun k => decide (id < k.serial)).getD false
  match f.msg with
  | .load id .. | .amo id .. => before f.src id
  | .loadResp id .. | .amoResp id .. => before f.dst id
  | _ => false

/-- Members that a gang boundary which has published has not released yet. -/
def Gang.heldAtBoundary (g : Gang) : List Nat := g.fired.flatMap fun f => if f.boundary then g.firedTiles f else []

/-- The follower of tile p sees what its leader sees (R406). -/
def State.mirror (s : State) (p : Nat) : State :=
  match (s.tile p).pair.partner with
  | some q => if (s.tile p).pair.leader then s.onTile q fun u =>
      { (s.tile p).followOn u with pair := { (s.tile p).pair with
        partner := some p, leader := false, mark := u.pair.mark, sent := u.pair.sent, inbox := u.pair.inbox } } else s
  | none => s

/-- A member with an undo record in a line of memory whose tag is bad, and the record's address (R399). -/
def State.undoBad (s : State) (g : Gang) : Option (Nat × Word) :=
  if s.svc.bad.isEmpty then none
  else g.pairs.findSome? fun e =>
    match (s.tile e.2).undo.base with
    | none => none
    | some b => ((List.range (((s.tile e.2).undo.written + 63) / 64)).find? fun i => match s.sysPa g.part (b + 64 * i) .read with
      | some pa => s.svc.bad.contains (pa / 64)
      | none => false).map fun i => (e.2, BitVec.ofNat 64 (b + 64 * i))

/-- Every member and every follower at the snapshot; Tr is 48 ticks on (R398). A pair that has disagreed twice in the superstep is no more
(R408). -/
def State.rollGang (s : State) (g : Gang) (why : Nat) : State :=
  let held := g.heldAtBoundary
  let s := { s with net := s.net.filter fun f => f.g != g.id || s.beforeSnap f }
  let s := g.pairs.foldl (fun s e => s.onTile e.2 fun t =>
    let u := t.rollback (g.serial != 0)
    if held.contains e.2 then { u with ctl := { u.ctl with stat := t.ctl.stat } } else u) s
  let s := g.pairs.foldl (fun s e => match (s.tile e.2).pair.partner with
    | some q => (s.mirror e.2).onTile q fun u => { u with pair := { u.pair with mark := 0, sent := 0, inbox := none } }
    | none => s) s
  let g := if g.stat == .resuming then { g with auto := false, wake := none, t1 := s.tick, slice := true } else g
  let s : State := s.setGang { g with
    stat := .rolling, rolling := some (s.tick + 48, why), ate := none, bmus := g.bmuSnap, fired := g.fired.filter (·.boundary), commit := none
    staged := [], bcause := 0, btake := [] }
  (g.pairs.filter fun (e : Nat × Nat) => (s.tile e.2).pair.leader && decide (2 ≤ (s.tile e.2).pair.bad)).foldl (fun s e => s.breakPair g.id e.2) s

/-- ROLLBACK_STOP at Ts: every member stops and is restored, also one that a gang switch has stopped and not saved yet; a member without protection, or with an undo record that cannot be read, ends the gang
(R398, R399). -/
def execRollbackStop (gid : Nat) (s : State) : Out :=
  .next (match s.gang? gid with
    | none => s
    | some g =>
      match g.rolling with
      | none => s
      | some (ts, why) =>
        if !g.present || s.tick < ts then s
        else if !s.protected g then (match g.ate with
          | some (p, kind, addr) => (s.logTile 2 p kind addr).gangFail gid p addr
          | none => s.gangFail gid)
        else match s.undoBad g with
          | some (p, addr) => (s.logTile 2 p .memory addr).gangFail gid p addr
          | none => s.rollGang g why)

/-- ROLLBACK_RESUME at Tr: the members issue again, with ERROR raised (R398, R409). A stop that was named meanwhile stands; a PREEMPT that waits for the
gang's T1 is told this tick (R431). -/
def execRollbackResume (gid : Nat) (s : State) : Out :=
  .next (match s.gang? gid with
    | none => s
    | some g =>
      match g.stat, g.rolling with
      | .rolling, some (tr, why) =>
        if s.tick < tr then s else
        let s := s.onMembers g fun t => t.unstop.error why
        (s.answerAsked g 0 [BitVec.ofNat 64 s.tick]).setGang { g with stat := if g.t1 < g.ts then .stopping else .running, rolling := none, asked := [] }
      | _, _ => s)

/-! ## Serial re-execution (R403) -/

/-- SERIAL_REEXECUTION: every member has arrived again after a hallmark mismatch; the gang rolls back and runs serially, a second
mismatch moves the suspect, a third ends the gang (R403). -/
def execSerialReexecution (gid : Nat) (s : State) : Out :=
  .next (match s.gang? gid with
    | none => s
    | some g =>
      if g.bcause ≠ 0x60 ∨ g.rolling.isSome ∨ !(g.pairs.all fun e => s.arrivedAt g e.1 e.2) then s
      else
        let p := (g.phys g.suspect).getD 0x7FF
        if g.serial = 0 then s.schedRoll { g with serial := 1 } 1
        else if g.serial = 1 then
          let s := s.moveSuspect gid p
          match s.gang? gid with
          | none => s
          | some g => s.schedRoll { g with serial := 2 } 1
        else (s.logTile 6 p .other 0).gangFail gid p)

/-! ## Redundant pairs (R405 to R408) -/

/-- Whether a pair has a reason to exchange: 4,096 instructions, an effect that waits to leave, a copy among them, a wait, HALT (R407). -/
def State.exchangeDue (s : State) (t : Tile) : Bool :=
  decide (t.pair.agreed + 4096 ≤ t.pair.count) || s.net.any (fun f => s.pairHolds f && some f.g == t.gang && f.src == t.lidx) ||
  (t.pair.count != t.pair.agreed && (match t.ctl.stat with
    | .waiting _ | .halted => true
    | _ => t.copies.any fun c => c.state == .waiting && decide (t.pair.agreed < c.nth)))

/-- TOUCHMARK_EXCHANGE of the pair that tile p leads: each tile sends its touchmark, which restarts (R407). -/
def execTouchmarkExchange (p : Nat) (s : State) : Out :=
  .next (
    let t := s.tile p
    match t.pair.partner with
    | none => s
    | some q =>
      if !t.pair.leader || t.pair.inbox.isSome || t.pair.split || !s.exchangeDue t then s
      else
        let due := s.tick + if p / 4 = q / 4 then 8 else 24
        let other := (s.tile q).pair.mark
        let send := fun (m : Word) (t : Tile) =>
          { t with pair := { t.pair with inbox := some m, sent := t.pair.mark, upTo := t.pair.count, due := due, mark := 0 } }
        (s.onTile p (send other)).onTile q (send t.pair.mark))

/-- An exchange has ended in agreement. -/
def Tile.exchanged (t : Tile) : Tile := { t with pair := { t.pair with inbox := none, agreed := t.pair.upTo } }

/-- An exchange has ended in disagreement: nothing that it covers leaves the pair, until the gang has rolled back (R408). -/
def Tile.disagreed (t : Tile) : Tile := { t with pair := { t.pair with inbox := none, bad := t.pair.bad + 1, split := true } }

/-- A gang whose members have all halted ends once its pairs have agreed to the end (R334, R407). -/
def State.endAgreed (s : State) (gid : Nat) : State :=
  match s.gang? gid with
  | none => s
  | some g => if s.allHalted g && g.pairs.all (fun e => (s.tile e.2).agreed) then s.gangEnd gid .ended else s

/-- TOUCHMARK_ARRIVAL at the leader p, from its tick on: on agreement the held effects may leave; a disagreement rolls the gang back, and
a second one in the superstep moves the thread and drains both tiles then (R407, R408). -/
def execTouchmarkArrival (p : Nat) (s : State) : Out :=
  .next (
    let t := s.tile p
    match t.pair.inbox, t.pair.partner, s.gangOf t with
    | some m, some q, some g =>
      if s.tick < t.pair.due then s
      else if m = t.pair.sent then ((s.onTile p Tile.exchanged).onTile q Tile.exchanged).endAgreed g.id
      else
        let s := ((s.onTile p Tile.disagreed).onTile q Tile.disagreed).logTile 3 p .other 0 1
        if g.rolling.isSome then s else s.schedRoll g 2
    | _, _, _ => s)

end Sys2Proof.Machine
end

