-- ==== Sys2Proof/Machine/EvClock.lean ====
section
/-! DEFINITION. EvClock: clock patterns and voltage ramps, temperature, thermal migration, the hard trip, wear, and retirement
of frames (R20, R42, R133, R374 to R377, R418 to R428). -/

namespace Sys2Proof.Machine

/-! ## Temperature (R418, R421, R422) -/

/-- Gangs with a member on a die. -/
def State.gangsOn (s : State) (d : Nat) : List Gang := s.gangs.filter fun g =>
  g.stat != .ended && g.stat != .failed && !g.sealed && g.l2p.any fun e => e.2 / 192 == d

/-- The emergency save of a die: a gang switch of every gang there, 512 ticks after the reading (R421). -/
def State.emergency (s : State) (d : Nat) : State :=
  (s.gangsOn d).foldl (fun s g => match s.gang? g.id with
    | some g => s.saveSoon g (s.tick + 512) d
    | none => s) s

/-- The hard trip: the die loses its power and every unsaved gang there ends failed; committed memory survives (R422). -/
def State.trip (s : State) (d : Nat) : State :=
  let s := (s.gangsOn d).foldl (fun s g => s.gangFail g.id) s
  let s := ((s.tiles.map Prod.fst).filter fun p => p / 192 == d).foldl (fun s p => s.onTile p Tile.scrub) s
  (s.onDie d fun q => { q with powered := false, reqs := [], ramp := none, walks := [], wcache := [] }).notice (.trip d)

/-- A reading of a tile's sensor; a vacated tile that reads 85 °C or less has cooled (R418, R420). -/
def Assay.read (a : Assay) (temp : Nat) : Assay := { a with temp := temp, hot := a.hot && decide (85 < temp) }

/-- TEMPERATURE_READ of tile p (R418, R420 to R422). -/
def execTemperatureRead (p : Nat) (temp : Nat) (s : State) : Out :=
  .next (
    if 1536 ≤ p then s else
    let s := s.onTile p fun t => { t with assay := t.assay.read temp }
    if !(s.die (p / 192)).powered then s
    else if 125 ≤ temp then s.trip (p / 192)
    else if 118 < temp then s.emergency (p / 192)
    else s)

/-- DIE_RESTART: after a hard trip, once every sensor of the die reads below 85 °C (R422). Patterns and voltage are those of
reset, under the cap of a DERATED tile (R415; log 6). -/
def execDieRestart (d : Nat) (s : State) : Out :=
  .next (
    if (s.die d).powered || (s.tiles.any fun e => e.1 / 192 == d && decide (85 ≤ e.2.assay.temp)) then s
    else
      let cap := fun (k : Cluster × Nat) => { k.1 with pat := s.capPat d k.2 k.1.pat }
      let cs := Die.reset.clusters.toList.zipIdx.map cap
      s.onDie d fun q => { Die.reset with
        errlog := q.errlog, dltimeout := q.dltimeout
        clusters := Vector.ofFn fun (i : Fin 48) => cs.getD i.val ⟨0xFFFF, [], 0⟩ })

/-! ## Thermal migration (R419, R420) -/

/-- Whether the thread of a tile is to be migrated: it is hot, or the tile is retired (R418, R427). -/
def Tile.migrates (t : Tile) : Bool := decide (105 < t.assay.temp) || t.assay.state == .retired

/-- Whether a thread waits at an S barrier (R42). -/
def Gang.atS (g : Gang) (t : Tile) : Bool :=
  match t.ctl.stat with
  | .waiting (.barrier ..) =>
    (match g.bmu (t.lidx / 192) with
    | some b => (match b.armed (t.lidx % 192) with
      | some e => e.s
      | none => false)
    | none => false)
  | _ => false

/-- A thread begins to move. -/
def Stat.move : Stat → Stat
  | .running => .moving none
  | .waiting w => .moving (some w)
  | x => x

/-- The thread of tile p stops for its move to tile q (R419 steps 1 and 2). -/
def Tile.leaveFor (t : Tile) (q : Nat) : Tile :=
  { t with ctl := { t.ctl with stat := t.ctl.stat.move, moveTo := some q, moveEnd := none } }

/-- The context begins to move: the envelope command in progress is discarded, and its word issues again at the new tile (R191, R419). -/
def Tile.depart (t : Tile) (due : Nat) : Tile :=
  let u := match t.discards with
    | some c => t.discard c
    | none => t
  { u with ctl := { u.ctl with moveEnd := some due } }

/-- Whether a thread that is to move has drained: as for an interrupt the words before its next one have issued and the data of split loads is
written, its envelope commands but the one in progress are done, its matrix and scan FIFOs are empty, its copies complete (R355, R419 step 2). A next-round SPASS in
the scan FIFO, which waits for a release, keeps the thread until then (DESIGN CHOICE, log 83). -/
def State.moveReady (s : State) (p : Nat) : Bool :=
  let t := s.tile p
  t.isStopped && t.engDrained && t.mx.fifo.isEmpty && t.mx.remote.isEmpty && t.scan.fifo.isEmpty && (t.envq.isEmpty || t.discards.isSome) &&
  t.irqReady && t.copies.isEmpty && !s.partReady p

/-- The ticks that the move of a context takes at 256 B a tick: its scratchpad, the accumulators and the envelope RAM (R19, R419). -/
def moveTicks : Nat := (0x20_0000 + 0x1_0000 + 8 * 6144) / 256

/-- Whether the spare that a migration has chosen can still take the thread. -/
def State.spareStands (s : State) (q : Nat) : Bool :=
  (s.tile q).free && (s.tile q).assay.takes && (s.die (q / 192)).powered

/-- The pattern under which the clusters of a DET gang are locked (R42). -/
def State.lockedPat (s : State) (p : Nat) : BitVec 16 := (s.cluster (p / 192) (p % 192 / 4)).pat

/-- Brings the spare's cluster, with what another DET gang's lock holds together with it, to the pattern of a DET gang, or the gang under the caps that
stand there (R42, R414, R415). -/
def State.lockSpare (s : State) (g : Gang) (p q : Nat) : State :=
  let pat := s.lockedPat p
  let there := match s.detOn (q / 192) (q % 192 / 4) with
    | some h => s.lockedWith h
    | none => [(q / 192, q % 192 / 4)]
  let cap := there.foldl (fun k c => s.capPat c.1 c.2 k) pat
  if s.patPending g || (s.die (q / 192)).reqs.any (fun r => r.cluster == q % 192 / 4) then s
  else if cap = pat then s.clusterRequest (q / 192) (q % 192 / 4) pat 5
  else s.gangRequest g cap 5

/-- Whether a DET gang's lock stands in the way of a thread's move from tile p to tile q (R42). -/
def State.lockMissing (s : State) (g : Gang) (p q : Nat) : Bool := g.det && s.lockedPat q != s.lockedPat p

/-- The pattern of a thread of a FREE gang goes with its context to a cluster that holds no other thread (R56, R389, R419; log 23). -/
def State.movePat (s : State) (g : Gang) (p q : Nat) : State :=
  let alone := (List.range 4).all fun i => (s.tile (q / 4 * 4 + i)).gang.isNone
  if g.det || !alone || s.lockedPat q == s.lockedPat p then s else s.clusterRequest (q / 192) (q % 192 / 4) (s.lockedPat p) 5

/-- The follower on tile p goes to another tile (R405, R418, R427; log 23). -/
def State.moveFollower (s : State) (l p q : Nat) : State :=
  let s := s.onTile q fun u => { s.tile p with assay := u.assay, latent := u.latent, tlb := [] }
  let s := s.onTile l fun t => { t with pair := { t.pair with partner := some q } }
  (s.onTile p Tile.scrub).onTile p fun t => { t with assay := { t.assay with hot := decide (85 < t.assay.temp) } }

/-- MIGRATION_START of tile p: the spare is chosen and the thread stops; in a DET gang at an S barrier (R42, R418, R419). A gang with a
thread or a follower on a RETIRED tile is switched out when there is no spare; a halted thread leaves a RETIRED tile at once (R427). -/
def execMigrationStart (p : Nat) (s : State) : Out :=
  .next (
    let t := s.tile p
    match s.gangAt p with
    | none => s
    | some g =>
      if g.stat != .running || !t.migrates then s
      else if t.gang.isNone then (match t.pair.partner with
        | none => s
        | some l =>
          if g.det && !g.atS (s.tile l) then s
          else match s.followerFor g.part l with
            | none => if t.assay.state == .retired then s.switchSoon g 8192 else s
            | some q => if s.lockMissing g l q then s.lockSpare g l q else s.moveFollower l p q)
      else if t.ctl.stat == .halted then (match s.spareFor g p with
        | none => if t.assay.state == .retired then s.switchSoon g 8192 else s
        | some q =>
          if t.assay.state != .retired || !t.engDrained || !t.copies.isEmpty then s
          else if s.lockMissing g p q then s.lockSpare g p q
          else s.moveThread g.id p q)
      else if (g.det && !g.atS t) || t.ctl.stat.move == t.ctl.stat then s
      else match s.spareFor g p with
        | none => if t.assay.state == .retired then s.switchSoon g 8192 else s
        | some q => s.setTile p (t.leaveFor q))

/-- The thread of tile p goes on: a waiting member's arrival tick is now (R133). -/
def Tile.arriveNow (t : Tile) (tick : Nat) : Tile :=
  match t.ctl.stat with
  | .waiting (.barrier ..) | .waiting (.swait _) => { t with ctl := { t.ctl with since := tick } }
  | _ => t

/-- A migration of tile p that comes to nothing: its thread goes on where it is. -/
def Tile.stay (t : Tile) : Tile :=
  let t := t.unstop
  { t with ctl := { t.ctl with moveTo := none, moveEnd := none } }

/-- MIGRATION_RESUME of the thread of tile p: once it has drained, its context moves to the chosen spare at 256 B a tick; then the L2P entry
is rewritten and the thread goes on there (R419). The spare's cluster first takes a DET gang's pattern (R42, R416). -/
def execMigrationResume (p : Nat) (s : State) : Out :=
  .next (
    let t := s.tile p
    match t.ctl.stat, t.ctl.moveTo, s.gangOf t with
    | .moving _, some q, some g =>
      if !s.spareStands q then s.onTile p Tile.stay
      else match t.ctl.moveEnd with
        | none =>
          if !s.moveReady p then s
          else
            let s := s.setTile p (t.depart (s.tick + moveTicks))
            if s.lockMissing g p q then s.lockSpare g p q else s
        | some e =>
          if s.tick < e then s
          else if s.lockMissing g p q then s.lockSpare g p q
          else
            let s := ((s.movePat g p q).moveThread g.id p q).onTile q fun t => t.unstop.arriveNow s.tick
            if (s.tile q).mx.sending && (s.tile q).mx.credit then s.ringSend q else s
    | _, _, _ => s)

/-- Every second set bit of a pattern: half its slots, one at least (R418; log 23). -/
def halfPat (pat : BitVec 16) : BitVec 16 :=
  let set := (List.range 16).filter fun i => pat.getLsbD i
  let keep := (set.zipIdx.filter fun e => e.2 % 2 == 0).map (·.1)
  (if slotCount pat ≤ 1 then set else keep.take (slotCount pat / 2)).foldl (fun v i => v ||| (1#16 <<< i)) 0

/-- The tick of a cluster's last throttling. -/
def Cluster.throttledAt (c : Cluster) : Option Nat := ((c.trace.filter fun e => e.why == 4).getLast?).map (·.tick)

/-- Whether a cluster's slots have halved within 10 ms, or are about to (R418). -/
def State.throttling (s : State) (d c : Nat) : Bool :=
  ((s.die d).reqs.any fun r => r.cluster == c && r.why == 4) ||
  (match (s.cluster d c).throttledAt with
    | some k => decide (s.tick < k + 36000000)
    | none => false)

/-- THERMAL_THROTTLE_STEP for tile p: no spare is ready, or a DET gang's migration waits; the slots halve, at most once in 10 ms (R418). The
cluster of a hot follower halves as well (log 23). -/
def execThermalThrottleStep (p : Nat) (s : State) : Out :=
  .next (
    let t := s.tile p
    let d := p / 192
    let c := p % 192 / 4
    match s.gangAt p with
    | none => s
    | some g =>
      let waits := t.gang.isNone || (s.spareFor g p).isNone || (g.det && !g.atS t)
      let pat := (s.cluster d c).pat
      if decide (t.assay.temp ≤ 105) || !waits || s.throttling d c || decide (slotCount pat ≤ 1) || t.ctl.moveTo.isSome then s
      else if g.det then s.gangRequest g (halfPat pat) 4
      else s.clusterRequest d c (halfPat pat) 4)

/-! ## Wear (R423 to R427) -/

/-- The order of the wear states. -/
def WearState.rank : WearState → Nat
  | .service => 0
  | .derated => 1
  | .drained => 2
  | .retired => 3

/-- The state that E calls for (R427). -/
def wearWants (e : Nat) : WearState :=
  if 220000000 * 65536 ≤ e then .retired
  else if 209000000 * 65536 ≤ e then .drained
  else if 176000000 * 65536 ≤ e then .derated
  else .service

/-- A waiting request of a cluster comes under the cap (R415). -/
def State.recap (s : State) (d c : Nat) : State :=
  match (s.die d).reqs.find? fun r => r.cluster == c && decide (14 < slotCount r.pat) with
  | none => s
  | some r => match r.gang.bind s.gang? with
    | some g => s.gangRequest g r.pat r.why
    | none => s.clusterRequest d c r.pat r.why

/-- The effects of a tile's new state: the cap of its cluster, or its thread leaves it (R415, R427). -/
def State.wearEffect (s : State) (p : Nat) (w : WearState) : State :=
  let d := p / 192
  let c := p % 192 / 4
  match w with
  | .derated =>
    let s := s.recap d c
    if 14 < slotCount (s.cluster d c).pat && !(s.die d).reqs.any (fun r => r.cluster == c) then s.clusterRequest d c 0x7F7F 3 else s
  | .retired =>
    (match s.gangOf (s.tile p) with
    | some g => if (s.spareFor g p).isNone then s.switchSoon g 8192 else s
    | none => match s.gangAt p, (s.tile p).pair.partner with
      | some g, some l => if (s.followerFor g.part l).isNone then s.switchSoon g 8192 else s
      | _, _ => s)
  | .service | .drained => s

/-- A tile's state moves forward only (R427). -/
def State.wearTo (s : State) (p : Nat) (w : WearState) (fault : Bool) : State :=
  let a := (s.tile p).assay
  if w.rank ≤ a.state.rank then s
  else
    let s := s.onTile p fun t => { t with assay := { t.assay with state := w, stick := s.tick, mflt := t.assay.mflt || fault } }
    s.wearEffect p w

/-- A sum that saturates at 48 bits. -/
def sat48 (a b : Nat) : Nat := min (a + b) (2 ^ 48 - 1)

/-- The greatest k below 2^(n+i) with k^50 no more than b, bit by bit from n down. -/
def rootDown (b : Nat) : Nat → Nat → Nat
  | 0, k => k
  | n + 1, k => rootDown b n (if (k + 2 ^ n) ^ 50 ≤ b then k + 2 ^ n else k)

/-- R423's charge in units of 2^-16 wear unit, rounded down, and whether that is exact: 40.96 n x 2^(e/50), with e = 5 (Tj - 85) + (V - 850 mV) and n the enabled
slots, or 1.6 for a tile without a thread. -/
def wearFloor (slots : Option Nat) (tj mv : Nat) : Nat × Bool :=
  let n := match slots with
    | some n => 40960 * n
    | none => 65536
  let up := 5 * tj + mv
  let a := n ^ 50 * 2 ^ (up - 1275) / 2 ^ (1275 - up)
  let k := rootDown (a / 1000 ^ 50) 48 0
  (k, (1000 * k) ^ 50 * 2 ^ (1275 - up) == n ^ 50 * 2 ^ (up - 1275))

/-- The charge of R423; which way it is rounded is free (log 8). -/
def wearOf (slots : Option Nat) (tj mv : Nat) : Nat :=
  let w := wearFloor slots tj mv
  if !w.2 && Config.wearUp (slots.getD 0) tj mv then w.1 + 1 else w.1

/-- WEAR_CHARGE of tile p for a 10 ms interval at a mean temperature and voltage: W, and WEARACC of its thread or its leader's (R423, R425, R426). -/
def execWearCharge (p : Nat) (tj mv : Nat) (s : State) : Out :=
  .next (
    if 1536 ≤ p then s else
    let t := s.tile p
    let w := wearOf (if t.free then none else some (slotCount (s.cluster (p / 192) (p % 192 / 4)).pat)) tj mv
    let s := s.setTile p { t with assay := { t.assay with w := sat48 t.assay.w w } }
    let owner := if t.gang.isSome then some p else t.pair.partner
    let s := match owner with
      | some q => s.onTile q fun t => { t with ir := { t.ir with wearacc := BitVec.ofNat 64 (sat48 t.ir.wearacc.toNat w) } }
      | none => s
    s.wearTo p (wearWants (s.tile p).assay.eff) false)

/-- MONITOR_READ of tile p: drifts in units of 0.001 %, or a read that fails. A reading outside the calibrated range and the third failed read in a
row are a monitor fault, which counts as 100 % (R424, R425, R427). -/
def execMonitorRead (p : Nat) (bti em : Nat) (fails : Bool) (s : State) : Out :=
  .next (
    if 1536 ≤ p then s
    else if fails then
      let n := (s.tile p).assay.misses + 1
      let s := s.onTile p fun t => { t with assay := { t.assay with misses := n } }
      if 3 ≤ n then s.wearTo p .retired true else s
    else
      let s := s.onTile p fun t => { t with assay := { t.assay with misses := 0 } }
      if !Config.calibrated bti em then s.wearTo p .retired true
      else
        let s := s.onTile p fun t => { t with assay := { t.assay with
          bti := max t.assay.bti (min bti 65535), em := max t.assay.em (min em 65535) } }
        s.wearTo p (wearWants (s.tile p).assay.eff) false)

/-! ## Frames (R374 to R377, R410) -/

/-- A frame joins its stack's scrap list, or is out of use until the next boot when the list is full (R377). -/
def State.scrapFrame (s : State) (pfn : Nat) : State :=
  let st := pfn / 2 ^ 20
  if (s.svc.scrap.filter fun f => f / 2 ^ 20 == st).length < 4096 then { s with svc := { s.svc with scrap := s.svc.scrap ++ [pfn] } }
  else { s with svc := { s.svc with
    retired := s.svc.retired ++ [pfn], degraded := if s.svc.degraded.contains st then s.svc.degraded else s.svc.degraded ++ [st] } }

/-- The partition and partition frame that hold a physical frame. -/
def State.holderOf (s : State) (pfn : Nat) : Option (Partition × Nat) :=
  s.parts.findSome? fun q =>
    match q.grants.find? fun g => g.2.gv && g.2.pfn == pfn with
    | some g => some (q, g.1)
    | none => match q.unplaced pfn with
      | some pfi => if pfi < q.frames && (smFind pfi q.grants).isNone then some (q, pfi) else none
      | none => none

def State.setGrant (s : State) (part pfi : Nat) (g : Grant) : State :=
  { s with parts := s.parts.map fun q => if q.id = part then { q with grants := (pfi, g) :: (q.grants.filter fun e => e.1 != pfi) } else q }

/-- The frame that a move copies to fails before the grant names it: another takes its place, or the move ends (R376, R377). -/
def State.remakeMove (s : State) (m : FrameMove) : State :=
  let mapped := fun (s : State) (mir : Bool) (f : Nat) => match s.part? m.part with
    | some q => s.setGrant m.part m.pfi { q.grant m.pfi with mir := mir, mpfn := f }
    | none => s
  match s.freeFrame (m.old / 2 ^ 20) with
  | some f =>
    let redo := fun (n : FrameMove) => if n = m then { n with new := f, lines := [] } else n
    mapped { s with svc := { s.svc with moves := s.svc.moves.map redo } } true f
  | none => (mapped { s with svc := { s.svc with moves := s.svc.moves.filter (· != m) } } false 0).notice (.frameKept m.old)

/-- A granted frame begins to move; without a free frame it stays (R375, R376 steps 1 and 2). -/
def State.startMove (s : State) (q : Partition) (pfi pfn : Nat) : State :=
  match s.freeFrame (pfn / 2 ^ 20) with
  | none => s.notice (.frameKept pfn)
  | some f =>
    let run := pfi / 256 * 256
    let g0 := q.grant run
    let s := if g0.lg then (s.setGrant q.id run { g0 with lg := false }).shoot q.id run else s
    let g := match s.part? q.id with
      | some q => q.grant pfi
      | none => q.grant pfi
    let s := s.setGrant q.id pfi { g with mir := true, mpfn := f }
    { s with svc := { s.svc with moves := s.svc.moves ++ [⟨q.id, pfi, pfn, f, [], false, false, [], true⟩] } }

/-- A frame that a move is to leave fails: it joins the scrap list then, also one that a LOAD would have given back (R375, R376 step 6). -/
def State.scrapLeft (s : State) (pfn : Nat) : State :=
  { s with svc := { s.svc with moves := s.svc.moves.map fun (m : FrameMove) => if m.old = pfn then { m with scrap := true } else m } }

/-- A failing frame leaves service: a free one is scrapped, a granted one moves (R375 to R377). -/
def State.retireFrame (s : State) (pfn : Nat) : State :=
  match s.svc.moves.find? fun m => m.new == pfn && !m.switched with
  | some m => (s.scrapFrame pfn).remakeMove m
  | none =>
    if s.svc.moves.any fun m => m.old == pfn then s.scrapLeft pfn
    else match s.holderOf pfn with
    | none => if s.svc.scrap.contains pfn || s.svc.retired.contains pfn then s else s.scrapFrame pfn
    | some (q, pfi) => s.startMove q pfi pfn

/-- Ticks of 24 hours at 3.6 GHz. -/
def dayTicks : Nat := 24 * 3600 * 3600000000

/-- FRAME_RETIRE: a located failure, or one more corrected error, the eighth within 24 hours, retires the frame (R375); it is
logged as KIND 8 (R410). -/
def execFrameRetire (pfn : Nat) (located : Bool) (s : State) : Out :=
  .next (
    if 2 ^ 23 ≤ pfn then s else
    let recent := (smGet [] pfn s.svc.corrected).filter fun k => decide (s.tick ≤ k + dayTicks)
    let now := if located then recent else recent ++ [s.tick]
    let s := { s with svc := { s.svc with corrected := smPut pfn now s.svc.corrected } }
    if located || decide (8 ≤ now.length) then
      (s.logError (pfn / 2 ^ 20 % 8) ⟨8, 0x7FF, .memory, 0, BitVec.ofNat 64 pfn, s.tick⟩).retireFrame pfn
    else s)

/-- One line copied from a frame to another; a bad one is bad there too (R376). -/
def State.copyLine (s : State) (old new line : Nat) : State :=
  let s := (List.range 64).foldl (fun s i =>
    { s with mem := memWrite (new * 65536 + line * 64 + i) (memRead (old * 65536 + line * 64 + i) s.mem) s.mem }) s
  let rest := s.svc.bad.filter (· != new * 1024 + line)
  { s with svc := { s.svc with bad := if s.svc.bad.contains (old * 1024 + line) then (new * 1024 + line) :: rest else rest } }

/-- FRAME_LINE_COPY of a moving frame: one line; after the last of 1,024 the grant names the new frame (R376 steps 3 and 4). -/
def execFrameLineCopy (part pfi line : Nat) (s : State) : Out :=
  .next (match s.svc.moves.find? fun m => m.part == part && m.pfi == pfi && !m.switched with
    | none => s
    | some m =>
      if 1024 ≤ line then s
      else
        let s := s.copyLine m.old m.new line
        let m' := if m.lines.contains line then m else { m with lines := line :: m.lines }
        let full := m'.lines.length == 1024
        let m' := if full then { m' with switched := true } else m'
        let s := { s with svc := { s.svc with moves := s.svc.moves.map fun n => if n = m then m' else n } }
        match s.part? part with
        | none => s
        | some q => if full then s.setGrant part pfi { q.grant pfi with pfn := m.new } else s)

/-- MIRROR_CLEAR: the shootdown is complete and every gang of the partition has passed a boundary since: MIR clears and the old
frame is scrapped (R376 steps 5 and 6). -/
def execMirrorClear (part pfi : Nat) (s : State) : Out :=
  .next (match s.svc.moves.find? fun m => m.part == part && m.pfi == pfi && m.shot with
    | none => s
    | some m =>
      let past := m.steps.all fun k => match s.gang? k.1 with
        | some g => g.stat == .ended || g.stat == .failed || decide (k.2 < g.step)
        | none => true
      if !past then s
      else
        let s := { s with svc := { s.svc with moves := s.svc.moves.filter (· != m) } }
        let again := s.svc.moves.any fun n => n.part == part && n.pfi == pfi
        let s := match s.part? part with
          | some q => if again then s else s.setGrant part pfi { q.grant pfi with mir := false, mpfn := 0 }
          | none => s
        if m.scrap then s.scrapFrame m.old else s.zeroFrames [m.old])

/-- Whether an error names a place of the package: one of its dies and tiles, a byte of a scratchpad, a line of its memory (R16, R19, R410). -/
def scrubPlace (d pidx : Nat) (kind : UcUnit) (addr : Word) : Bool :=
  decide (d < 8) && (decide (pidx < Config.tiles) || pidx == 0x7FF) && (match kind with
    | .scratchpad => decide (pidx < Config.tiles) && decide (addr.toNat < Config.scratchBytes)
    | .memory => decide (addr.toNat < 2 ^ 39)
    | _ => true)

/-- MEMORY_SCRUB_ERROR on die d: the error is logged, as KIND 7; it stays where scrubbing found it (R398, R410). -/
def execMemoryScrubError (d pidx : Nat) (kind : UcUnit) (addr : Word) (s : State) : Out :=
  .next (if !scrubPlace d pidx kind addr then s else
    let s := s.logError d ⟨7, pidx, kind, if pidx = 0x7FF then 0 else bitsOf (s.tile pidx).ir.relstat 6 4, addr, s.tick⟩
    match kind with
    | .scratchpad =>
      s.onTile pidx fun t => if t.latent.contains addr.toNat then t else { t with latent := addr.toNat :: t.latent }
    | .memory =>
      let line := addr.toNat / 64
      if s.svc.bad.contains line then s else { s with svc := { s.svc with bad := line :: s.svc.bad } }
    | _ => s)

end Sys2Proof.Machine
end

