-- ==== Sys2Proof/Machine/Image.lean ====
section
/-! DEFINITION. Image: the configuration image: its header, directory and sections, and the conditions under which LAUNCH refuses
it (R196, R381 to R386). -/

namespace Sys2Proof.Machine

/-- The little-endian value of n bytes of an image. -/
def natAt (bs : List Byte) (off n : Nat) : Nat := leNat ((bs.drop off).take n)
/-- Bits [hi:lo] of a value. -/
def fieldOf (w hi lo : Nat) : Nat := w / 2 ^ lo % 2 ^ (hi + 1 - lo)

/-! ## Header and directory (R381, R382) -/

/-- A directory entry. -/
structure Sec where
  type : Nat
  ldie : Nat
  lo : Nat
  hi : Nat
  off : Nat
  len : Nat
  clean : Bool
  deriving DecidableEq, Repr

/-- The header's fields, whether its checks hold, and the directory. -/
structure Image where
  ndie : Nat
  groups : Nat
  det : Bool
  hsub : Nat
  poison : Bool
  gsblog2 : Nat
  entry : Nat
  htab : Nat
  evring : Nat
  evlog2 : Nat
  ok : Bool
  secs : List Sec
  deriving DecidableEq, Repr

def secOf (w : Nat) : Sec :=
  { type := fieldOf w 7 0, ldie := fieldOf w 10 8, lo := fieldOf w 26 16, hi := fieldOf w 37 27, off := fieldOf w 95 64
    len := fieldOf w 127 96, clean := fieldOf w 15 11 == 0 && fieldOf w 63 38 == 0 }

/-- Reads an image (R381, R382). -/
def imageOf (bs : List Byte) : Image :=
  let h := natAt bs 0 64
  let nsec := fieldOf h 63 48
  let groups := fieldOf h 75 72
  let det := h.testBit 80
  let hsub := fieldOf h 82 81
  let gsb := fieldOf h 88 84
  let htab := fieldOf h 255 192
  let ring := fieldOf h 319 256
  let evlog2 := fieldOf h 324 320
  let rsv := fieldOf h 71 67 == 0 && fieldOf h 79 76 == 0 && fieldOf h 127 89 == 0 && fieldOf h 511 325 == 0
  let ok := decide (64 ≤ bs.length) && fieldOf h 31 0 == 0x38435848 && fieldOf h 47 32 == 1 && decide (1 ≤ nsec) && decide (nsec ≤ 1024) && rsv &&
    decide (1 ≤ groups) && decide (groups ≤ 12) && hsub != 3 && (det || hsub == 0) && decide (16 ≤ gsb) && decide (gsb ≤ 26) &&
    ((htab != 0) == (hsub != 0)) && ring % 4096 == 0 && decide (12 ≤ evlog2) && decide (evlog2 ≤ 24) && decide (64 + 16 * nsec ≤ bs.length)
  { ndie := fieldOf h 66 64 + 1, groups := groups, det := det, hsub := hsub, poison := h.testBit 83, gsblog2 := gsb
    entry := fieldOf h 191 128, htab := htab, evring := ring, evlog2 := evlog2, ok := ok
    secs := (List.range (if ok then nsec else 0)).map fun i => secOf (natAt bs (64 + 16 * i) 16) }

/-- Sections of one type. -/
def Image.ofType (m : Image) (n : Nat) : List Sec := m.secs.filter fun c => c.type == n
/-- The bytes of a section. -/
def Sec.bytes (c : Sec) (bs : List Byte) : List Byte := (bs.drop c.off).take c.len
/-- Its n-byte records, as values. -/
def Sec.recs (c : Sec) (bs : List Byte) (n : Nat) : List Nat := (List.range (c.len / n)).map fun i => natAt bs (c.off + n * i) n
/-- The logical indices of the gang an image describes. -/
def Image.has (m : Image) (l : Nat) : Bool := inGang m.ndie m.groups l
def Image.members (m : Image) : List Nat :=
  (List.range m.ndie).flatMap fun d => (List.range (16 * m.groups)).map (192 * d + ·)

/-! ## Tile records, stream bindings, chains (R196, R383, R384) -/

/-- The record of a logical index (R383). -/
def Image.tileRec (m : Image) (bs : List Byte) (l : Nat) : Option Nat :=
  ((m.ofType 4).find? fun c => c.lo ≤ l && l ≤ c.hi).map fun c => natAt bs (c.off + 64 * (l - c.lo)) 64
/-- RQBASEn and LOG2 of RQSIZEn in a record. -/
def recBase (r n : Nat) : Nat := fieldOf r (64 + 32 * n + 20) (64 + 32 * n)
def recLog (r n : Nat) : Nat := fieldOf r (64 + 32 * n + 25) (64 + 32 * n + 21)
/-- Reserved bits of a record are zero. -/
def recClean (r : Nat) : Bool :=
  fieldOf r 63 16 == 0 && fieldOf r 511 208 == 0 && (List.range 4).all fun n => fieldOf r (64 + 32 * n + 31) (64 + 32 * n + 26) == 0

/-- A stream binding (R384). -/
structure Bind where
  src : Nat
  dst : Nat
  queue : Nat
  depth : Nat
  clean : Bool
  deriving DecidableEq, Repr
def bindOf (w : Nat) : Bind := ⟨fieldOf w 10 0, fieldOf w 21 11, fieldOf w 23 22, fieldOf w 31 24, fieldOf w 63 32 == 0⟩
def Image.binds (m : Image) (bs : List Byte) : List Bind := (m.ofType 8).flatMap fun c => (c.recs bs 8).map bindOf
/-- The checks of a binding. -/
def Image.bindOk (m : Image) (bs : List Byte) (b : Bind) : Bool :=
  b.clean && m.has b.src && m.has b.dst && b.depth != 0 &&
  (match m.tileRec bs b.dst with
    | some r => r.testBit (12 + b.queue) && b.depth * 256 ≤ 2 ^ recLog r b.queue
    | none => false)
/-- Each (DST, QUEUE) is bound once. -/
def bindsOnce : List Bind → Bool
  | [] => true
  | b :: r => !(r.any fun c => c.dst == b.dst && c.queue == b.queue) && bindsOnce r

/-- The CHAINPOS value of a logical index, its reserved bits zero; none in the table: no chain (R8, R196). Of several
chain-table sections the first counts (DESIGN CHOICE, log 82). -/
def Image.chainpos (m : Image) (bs : List Byte) (l : Nat) : Nat :=
  match m.ofType 7 with
  | [] => 0
  | c :: _ => if 8 * l + 8 ≤ c.len then natAt bs (c.off + 8 * l) 8 &&& 0x7FF_3FFF else 0
/-- The path from an index reaches a tail. -/
def Image.endsAt (m : Image) (bs : List Byte) : Nat → Nat → Bool
  | 0, _ => false
  | n + 1, l => let w := m.chainpos bs l; w.testBit 12 || m.endsAt bs n (fieldOf w 26 16)
/-- An entry agrees with its neighbours and lies on a path with an end. -/
def Image.chainOk (m : Image) (bs : List Byte) (l : Nat) : Bool :=
  let w := m.chainpos bs l
  let mem := fun (k : Nat) => m.has k && (m.chainpos bs k).testBit 13
  !w.testBit 13 ||
    (let p := fieldOf w 10 0
     let q := fieldOf w 26 16
     (w.testBit 11 || (mem p && !(m.chainpos bs p).testBit 12 && fieldOf (m.chainpos bs p) 26 16 == l)) &&
     (w.testBit 12 || (mem q && !(m.chainpos bs q).testBit 11 && fieldOf (m.chainpos bs q) 10 0 == l)) &&
     m.endsAt bs m.members.length l)

/-! ## The conditions of R386 -/

/-- The checks of one directory entry and of its section's records (R382 to R384). -/
def Image.secOk (m : Image) (bs : List Byte) (c : Sec) : Bool :=
  let range := c.lo ≤ c.hi && m.has c.lo && m.has c.hi
  c.clean && c.off % 16 == 0 &&
  match c.type with
  | 1 => decide (c.ldie < m.ndie) && c.len == 8 && (let w := natAt bs c.off 8; w == 0xFF || w < 8)
  | 2 => decide (8 ≤ c.len)
  | 3 => range
  | 4 => range && c.len == 64 * (c.hi - c.lo + 1) && (c.recs bs 64).all recClean
  | 5 => range && c.lo == c.hi && c.len % 32 == 0
  | 6 => decide (c.ldie < m.ndie) && decide (32 ≤ c.len) && c.len % 32 == 0
  | 7 => c.len % 8 == 0
  | 8 => c.len % 8 == 0
  | 9 => c.len % 8 == 0 && (c.recs bs 8).all fun w => w / 2 ^ 14 == 0 && fieldOf w 13 11 ≤ 4
  | _ => false

/-- Condition 1: a header or directory check fails (R381 to R384). -/
def Image.badForm (m : Image) (bs : List Byte) : Bool :=
  !m.ok || !(m.secs.all (m.secOk bs)) || !((m.binds bs).all (m.bindOk bs)) || !bindsOnce (m.binds bs)

/-- Two sections share a byte. -/
def Sec.meets (a b : Sec) : Bool := a.off < b.off + b.len && b.off < a.off + a.len
/-- Some two of the sections overlap. -/
def anyMeet : List Sec → Bool
  | [] => false
  | c :: r => r.any c.meets || anyMeet r
/-- Condition 2. -/
def Image.badPlace (m : Image) (bs : List Byte) : Bool := (m.secs.any fun c => bs.length < c.off + c.len) || anyMeet m.secs

/-- Condition 3: no program section holds ENTRY, or a logical die has no cue stream. -/
def Image.missing (m : Image) (bs : List Byte) : Bool :=
  !((m.ofType 2).any fun c => natAt bs c.off 8 ≤ m.entry && m.entry < natAt bs c.off 8 + (c.len - 8)) ||
  !((List.range m.ndie).all fun d => (m.ofType 6).any fun c => c.ldie == d)

/-- Condition 6. -/
def Image.badPermit (m : Image) (bs : List Byte) : Bool :=
  (m.ofType 4).any fun c => (c.recs bs 64).any fun r => (List.range 4).any fun i => 4 < fieldOf r (3 * i + 2) (3 * i)

/-- Condition 7 (R53). -/
def Image.badQueue (m : Image) (bs : List Byte) : Bool :=
  (m.ofType 4).any fun c => (c.recs bs 64).any fun r => (List.range 4).any fun n =>
    recLog r n != 0 && (recLog r n < 10 || 19 < recLog r n)

/-- Condition 8: too long, out of timestamp order, or a malformed entry (R36, R37, R111). -/
def Image.badSched (m : Image) (bs : List Byte) : Bool :=
  (m.ofType 5).any fun c =>
    let es := (c.recs bs 32).map fun w => schedEnt (fieldOf w 63 0) (fieldOf w 127 64) (fieldOf w 191 128) (fieldOf w 255 192)
    4096 < es.length || es.any SchedEnt.bad || (es.zip es.tail).any fun e => e.2.ts < e.1.ts

/-- Condition 9 (R196). -/
def Image.badChain (m : Image) (bs : List Byte) : Bool := !(m.members.all (m.chainOk bs))

/-- Condition 10: a cue entry is malformed for a gang of this many packages (R124). -/
def Image.badCue (m : Image) (bs : List Byte) (g : Gang) : Bool :=
  (m.ofType 6).any fun c => (c.recs bs 32).any fun w =>
    !(g.cueOf c.ldie 0 0 (fieldOf w 63 0) (fieldOf w 127 64) (fieldOf w 191 128) (fieldOf w 255 192)).ok

/-- The physical die a logical die asks for (R382). -/
def Image.wanted (m : Image) (bs : List Byte) : List (Option Nat) :=
  (List.range m.ndie).map fun d => match (m.ofType 1).find? fun c => c.ldie == d with
    | none => none
    | some c => let w := natAt bs c.off 8; if w = 0xFF then none else some w

/-- The first condition of R386 that holds, by its number in the list; `place` is where the gang would go. -/
def State.launchReason (s : State) (m : Image) (bs : List Byte) (g : Gang) (place : Option (List Nat × List (Nat × Nat)))
    (pkg npkg : Nat) : Option Nat :=
  if m.badForm bs then some 1
  else if m.badPlace bs then some 2
  else if m.missing bs then some 3
  else if place.isNone then some 4
  else if g.dies.any fun d => 8 ≤ s.gangsPresent d then some 5
  else if m.badPermit bs then some 6
  else if m.badQueue bs then some 7
  else if m.badSched bs then some 8
  else if m.badChain bs then some 9
  else if m.badCue bs g then some 10
  else if npkg < pkg then some 11
  else none

/-! ## What a launch writes (R29, R43, R47, R93, R382 to R385) -/

/-- DOMAIN of a logical index (R29). -/
def domainOf (l top pkg npkg : Nat) : Word :=
  let s := l % 192
  BitVec.ofNat 64 (s % 4 + s / 4 % 4 * 4 + s / 16 * 16 + l / 192 * 256 + top * 2 ^ 12 + pkg % 256 * 2 ^ 16 + npkg % 256 * 2 ^ 24)

/-- The bytes of the data sections and the schedule table of a logical index, by scratchpad offset. -/
def Image.spadBytes (m : Image) (bs : List Byte) (l : Nat) : List (Nat × Byte) :=
  ((m.ofType 3).filter fun c => c.lo ≤ l && l ≤ c.hi).flatMap (fun c => (c.bytes bs).zipIdx.map fun b => (b.2, b.1)) ++
  ((m.ofType 5).filter fun c => c.lo == l).flatMap (fun c => (c.bytes bs).zipIdx.map fun b => (Config.schedBase + b.2, b.1))

/-- The route seed of a tile (R42, R151, R383). -/
def seedOf (g : Gang) (l r : Nat) : BitVec 16 :=
  let v := if g.det then Config.detSeed (Config.gangKey g.key) l else BitVec.ofNat 16 (fieldOf r 207 192)
  if v = 0 then 0xACE1 else v

/-- The launch state of logical index l on a tile, with its store-buffer area and its undo region at the virtual addresses given
(R7, R43, R47, R383 to R385, R395). -/
def Image.tile (m : Image) (bs : List Byte) (g : Gang) (undo l abase ubase : Nat) (onto : Tile) : Tile :=
  let r := (m.tileRec bs l).getD 0
  let z := Tile.reset
  let regs4 := fun (f : Nat → Nat) => (⟨#[BitVec.ofNat 64 (f 0), BitVec.ofNat 64 (f 1), BitVec.ofNat 64 (f 2), BitVec.ofNat 64 (f 3)], rfl⟩ : Vector Word 4)
  { z with
    gang := some g.id
    lidx := l
    ctl := { z.ctl with stat := .launched }
    ur := { z.ur with rqbase := regs4 (recBase r), rqsize := regs4 (recLog r) }
    ir := { z.ir with
      tileid := BitVec.ofNat 64 l
      domain := domainOf l g.top g.pkg g.npkg
      permit := BitVec.ofNat 64 (fieldOf r 11 0)
      chainpos := BitVec.ofNat 64 (m.chainpos bs l) }
    sr := { z.sr with lfsrseed := if g.det then 0 else BitVec.ofNat 64 (fieldOf r 207 192), lfsr := seedOf g l r }
    fe := { z.fe with pc := BitVec.ofNat 64 m.entry }
    spad := memWrites ((m.spadBytes bs l).map fun b => (placeOf 0 0 b.1, b.2)) onto.spad
    ni := { z.ni with
      streams := ((m.binds bs).filter fun b => b.src == l).map fun b => ⟨b.dst, b.queue, b.depth⟩
      rq := ⟨#[{ RecvQ.reset with stream := r.testBit 12 }, { RecvQ.reset with stream := r.testBit 13 },
        { RecvQ.reset with stream := r.testBit 14 }, { RecvQ.reset with stream := r.testBit 15 }], rfl⟩ }
    task := { z.task with hasSched := (m.ofType 5).any (fun c => c.lo == l), area := 2 ^ m.gsblog2, abase := some abase }
    undo := { z.undo with size := undo, base := some ubase }
    assay := onto.assay
    latent := onto.latent.filter fun o => !(m.spadBytes bs l).any fun b => placeOf 0 0 b.1 == o }

/-- Maps the frames of a program section that this launch has not mapped yet, and writes its bytes (R382). `done` holds the
virtual and partition frames mapped so far. -/
def State.programFrames (s : State) (part : Nat) : List Nat → List (Nat × Nat) → Option (List (Nat × Nat) × State)
  | [], done => some (done, s)
  | vf :: r, done =>
    if (smFind vf done).isSome then s.programFrames part r done
    else match s.svcAlloc part 1 with
      | none => none
      | some (pfi, _, s) => match s.mapFrame part vf pfi 0x37 with
        | none => none
        | some s => s.programFrames part r ((vf, pfi) :: done)

/-- One program section: V, LEAF, R, X and U. -/
def State.placeProgram (s : State) (part base : Nat) (code : List Byte) (done : List (Nat × Nat)) : Option (List (Nat × Nat) × State) :=
  let first := base / 65536
  let n := if code.isEmpty then 0 else (base + code.length - 1) / 65536 + 1 - first
  if Config.globalTop < base + code.length then none
  else match s.programFrames part ((List.range n).map (first + ·)) done, s.part? part with
    | some (done, s), some q =>
      some (done, code.zipIdx.foldl (fun s b =>
        let a := base + b.2
        match smFind (a / 65536) done with
        | some pfi => s.partPuts q (pfi * 65536 + a % 65536) [b.1]
        | none => s) s)
    | _, _ => none

/-- Every program section. -/
def State.placePrograms (s : State) (part : Nat) (bs : List Byte) : List Sec → List (Nat × Nat) → Option State
  | [], _ => some s
  | c :: r, done =>
    match s.placeProgram part (natAt bs c.off 8) ((c.bytes bs).drop 8) done with
    | none => none
    | some (done, s) => s.placePrograms part bs r done

/-- A cue stream for each logical die, mapped without access for U: its virtual base and its count (R122). -/
def State.placeCues (s : State) (part : Nat) (m : Image) (bs : List Byte) : List Nat → Option (List Bmu × State)
  | [] => some ([], s)
  | d :: r =>
    match (m.ofType 6).find? fun c => c.ldie == d with
    | none => none
    | some c =>
      match s.svcMap part ((c.len + 65535) / 65536) 0x0F, s.part? part with
      | some (va, pfi, s), some q =>
        let s := s.partPuts q (pfi * 65536) (c.bytes bs)
        (match s.placeCues part m bs r with
        | none => none
        | some (bm, s) => some (⟨BitVec.ofNat 64 va, c.len / 32, 0, [], [], [], []⟩ :: bm, s))
      | _, _ => none

/-- A store-buffer area and an undo region for each logical index, mapped without access for U: their virtual addresses. Behind an area lie
virtual frames that the supervisor may map to extend it (R109, R385, R395; log 41). -/
def State.placeAreas (s : State) (part area undo : Nat) : List Nat → Option (SMap (Nat × Nat) × State)
  | [] => some ([], s)
  | l :: r =>
    match s.svcMap part (area / 65536) 0x0F (Config.areaGrowth * (area / 65536)) with
    | none => none
    | some (a, _, s) =>
      match s.svcMap part (undo / 65536) 0x0F with
      | none => none
      | some (u, _, s) =>
        match s.placeAreas part area undo r with
        | none => none
        | some (m, s) => some ((l, a, u) :: m, s)

/-- The event ring: where the image puts it, or in frames of the service's choice, mapped for S; its header is zeroed (R381, R444). -/
def State.placeRing (s : State) (part : Nat) (m : Image) : Option (Nat × State) :=
  if m.evring = 0 then
    (s.svcMap part ((2 ^ m.evlog2 + 65535) / 65536) 0x0F).map fun r => (r.1, r.2.2)
  else some (m.evring, match s.sysPa part m.evring .write with
    | some pa => s.memPuts pa (List.replicate 64 0)
    | none => s)

end Sys2Proof.Machine
end

