-- ==== Sys2Proof/Machine/EvService.lean ====
section
/-! DEFINITION. EvService: boot, sessions and requests, the read-outs, freeze and shutdown, time (R43, R363 to R366, R378 to R387,
R390, R410, R413 to R416, R425, R429 to R441, R444). -/

namespace Sys2Proof.Machine

/-! ## Sessions and replies (R430, R432) -/

/-- What a request answers: the state it leaves, STATUS, REASON and the further body; `later`: its reply waits for what it is to say. -/
structure Ans where
  s : State
  status : Nat
  reason : Nat
  body : List Word
  later : Bool
  deriving DecidableEq, Repr

def Ans.ok (s : State) (body : List Word) : Ans := ⟨s, 0, 0, body, false⟩
def Ans.no (s : State) (status : Nat) (reason : Nat := 0) : Ans := ⟨s, status, reason, [], false⟩
def Ans.wait (s : State) : Ans := ⟨s, 0, 0, [], true⟩

abbrev stMalformed : Nat := 1
abbrev stAuth : Nat := 2
abbrev stStale : Nat := 3
abbrev stRefused : Nat := 4
abbrev stNoRoom : Nat := 5
abbrev stFrozen : Nat := 6

/-- Whether a request is of the code and the selector that its body is read by, with a header as R430 has it. -/
def requestFits (rq : Request) (op sel : Nat) : Bool :=
  rq.op.toNat == op && rq.sel.toNat == sel && rq.version == 1 && decide (rq.len ≤ 2 ^ 20 + 64) && rq.rsv == 0

/-- Whether the service runs. -/
def State.serving (s : State) : Bool := s.svc.boot == .up && !s.svc.down
/-- Whether the package is frozen (R434). -/
def State.isFrozen (s : State) : Bool := s.svc.frozen.isSome

/-- Handles a request: SEQ above, equal to or below the last processed, FROZEN, its form, the right to send it, its effect (R430, R431, R434).
Only RESYNC, QUERY and SHUTDOWN are handled in a frozen package. A request whose tag does not verify, or in no session, is answered AUTH and changes
nothing (log 24). -/
def State.request (s : State) (rq : Request) (op sel : Nat) (may : Session → Bool) (go : State → Session → Ans) : State :=
  if !s.serving then s
  else match s.session? rq.session with
    | none => s.addReply (replyTo rq stAuth)
    | some c =>
      if !rq.authentic then s.addReply (replyTo rq stAuth)
      else if c.last.any (rq.seq < ·) then s.addReply (replyTo rq stStale)
      else if c.last = some rq.seq then (match c.reply with
        | some r => s.addReply r
        | none => s)
      else
        let a := if s.isFrozen && !(rq.op == 6 || rq.op == 7 || rq.op == 9) then Ans.no s stFrozen
          else if !requestFits rq op sel then Ans.no s stMalformed
          else if !may c then Ans.no s stAuth
          else go s c
        if a.later then a.s.note rq else a.s.conclude rq (replyTo rq a.status a.reason a.body)

/-- The operator's session. -/
def Session.isOp (_rq : Request) (c : Session) : Bool := c.operator
/-- A tenant session of the partition named. -/
def Session.isTenant (rq : Request) (c : Session) : Bool := !c.operator && c.part == some rq.part
def Session.tenantOrOp (rq : Request) (c : Session) : Bool := c.isOp rq || c.isTenant rq
/-- Anyone, but no tenant may name another partition. -/
def Session.anyone (rq : Request) (c : Session) : Bool := c.operator || rq.part == 0xFFFF || c.part == some rq.part

/-! ## Attestation (R438) -/

/-- A shape as a word: the die and the group count, or the die mask. -/
def shapeWord : Shape → Word
  | .groups d n => BitVec.ofNat 64 (d + n * 256)
  | .dies ds => BitVec.ofNat 64 (2 ^ 16 + ds.foldl (fun m d => m ||| 2 ^ d) 0)

/-- The session of the ATTEST requests exists once one has arrived. -/
def State.openAttest (s : State) : State :=
  if (s.session? 0).isSome then s else { s with svc := { s.svc with sessions := s.svc.sessions ++ [⟨0, false, none, none, none, 0, 0⟩] } }

/-- A bit string as words, the low one first. -/
def wordsOf {n : Nat} (b : BitVec n) : List Word := (List.range ((n + 63) / 64)).map fun i => (b >>> (64 * i)).setWidth 64

/-- What an attestation report says: the nonce, the measurements of the firmware of the eight cores and of the microcode, the certificate, the shape,
a fresh device key, the session (R438). -/
def reportWords (n : Nat) (nonce : BitVec 256) (shape id : Word) : List Word :=
  wordsOf nonce ++ ((List.range 9).flatMap fun i => wordsOf (Config.measurement i)) ++ Config.identity ++ [shape] ++ wordsOf (Config.deviceKey n) ++ [id]

/-- The report with its two signatures; the LMS one takes the counter that protected storage holds once incremented (R438). -/
def signed (n : Nat) (ws : List Word) : List Word := ws ++ wordsOf (Config.ecdsa ws) ++ Config.lms (n + 1) ws

/-- ATTEST, in clear with SESSION 0: the report, and a session: the operator's for the operator's key, else a tenant's for the partition named; 2^20
signatures at most (R431, R438). One that names a session is malformed there (R430, R432). Session identifiers count up from 1 (log 25). -/
def execAttest (rq : Request) (nonce : BitVec 256) (key : BitVec 776) (s : State) : Out :=
  .next (
    if !s.serving then s
    else if rq.session ≠ 0 then s.request rq 1 0 (fun _ => true) fun s _ => Ans.no s stMalformed
    else s.openAttest.request { rq with authentic := true } 1 0 (fun _ => true) fun s _ =>
      let op := key == Config.operatorKey
      let part := if rq.part = 0xFFFF then none else some rq.part
      if 2 ^ 20 ≤ s.svc.attests then Ans.no s stRefused
      else if part.any fun n => (s.part? n).isNone then Ans.no s stRefused
      else
        let n := s.svc.attests
        let id := BitVec.ofNat 64 (n + 1)
        let shape := match part with
          | some k => ((s.part? k).map fun q => shapeWord q.shape).getD 0
          | none => 0
        let ss : Session := ⟨id, op, if op then none else part, none, none, nonce, key⟩
        Ans.ok { s with svc := { s.svc with attests := n + 1, sessions := s.svc.sessions ++ [ss] } } (signed n (reportWords n nonce shape id)))

/-! ## Partitions (R363, R366, R378, R379, R413, R414, R440) -/

/-- The total E of a physical group. -/
def State.groupWear (s : State) (gg : Nat) : Nat := (List.range 16).foldl (fun a i => a + (s.tile (16 * gg + i)).assay.eff) 0
/-- Whether no partition but `own` holds a group, nor any tile of it for a thread or a follower (R378). -/
def State.groupOpen (s : State) (own gg : Nat) : Bool :=
  (s.die (gg / 12)).powered && !(s.parts.any fun q => q.id != own && q.groups.contains gg) &&
  (List.range 16).all fun i => match s.gangAt (16 * gg + i) with
    | some g => g.part == own
    | none => !s.promised (16 * gg + i)

/-- The groups a shape takes: those in hand first, then the free ones with the least total E; none when they do not suffice (R428). -/
def State.takeGroups (s : State) (own : Nat) (held : List Nat) : Shape → Option (List Nat)
  | .groups d n =>
    let mine := (held.filter fun gg => gg / 12 == d).take n
    let more := sortBy (fun gg => [s.groupWear gg, gg])
      (((List.range 12).map (12 * d + ·)).filter fun gg => s.groupOpen own gg && !mine.contains gg)
    let all := mine ++ more.take (n - mine.length)
    if all.length = n then some all else none
  | .dies ds =>
    let all := ds.flatMap fun d => (List.range 12).map (12 * d + ·)
    if all.all (s.groupOpen own) then some all else none

/-- A shape names dies of the package, each once, and 1 to 12 groups (R378). -/
def shapeOk : Shape → Bool
  | .groups d n => decide (d < 8) && decide (1 ≤ n) && decide (n ≤ 12)
  | .dies ds => !ds.isEmpty && ds.all (· < 8) && ds.eraseDups.length == ds.length

/-- Frames that a new partition may not be given: scrapped and retired ones, those granted to another partition by name, and those of a move
(R366, R376 to R378). -/
def State.keptOut (s : State) (part : Nat) : List Nat :=
  s.svc.scrap ++ s.svc.retired ++ s.svc.moves.flatMap (fun m => [m.old, m.new]) ++
  (s.parts.filter fun q => q.id != part).flatMap fun q => (q.grants.filter fun g => g.2.gv).map fun g => g.2.pfn

/-- Grants of other frames for those that must be kept out of a partition. -/
def State.avoidScrap (s : State) (part : Nat) : State :=
  (s.keptOut part).foldl (fun s f =>
    match s.part? part with
    | none => s
    | some q => match q.unplaced f with
      | none => s
      | some pfi =>
        if q.frames ≤ pfi ∨ (q.grant pfi).pfn ≠ f ∨ (q.grant pfi).gv = false then s
        else
          let new := s.freeFrame (f / 2 ^ 20)
          let s := s.setGrant part pfi ⟨new.getD 0, new.isSome, false, false, 0⟩
          let run := pfi / 256 * 256
          if run = pfi then s else s.setGrant part run { q.grant run with lg := false }) s

/-- Tiles that leave a partition are scrubbed (R440). -/
def State.scrubGroups (s : State) (ggs : List Nat) : State :=
  (ggs.flatMap fun gg => (List.range 16).map (16 * gg + ·)).foldl (fun s p => s.onTile p Tile.scrub) s

/-- PARTITION, sub-operation 1: creates a partition under the lowest free identifier; its keys are drawn and stay in the base dies (R378, R439). -/
def execPartitionCreate (rq : Request) (shape : Shape) (s : State) : Out :=
  .next (s.request rq 2 1 (Session.isOp rq) fun s _ =>
    if !shapeOk shape then Ans.no s stMalformed
    else match s.takeGroups 0xFFFF [] shape with
      | none => Ans.no s stNoRoom
      | some ggs =>
        let id := ((List.range 97).find? fun n => (s.part? n).isNone).getD 97
        let s := { s with
          parts := s.parts ++ [(⟨id, shape, ggs, 0, [], 0, 0, s.svc.draws⟩ : Partition)], svc := { s.svc with draws := s.svc.draws + 1 } }
        Ans.ok (s.avoidScrap id) [BitVec.ofNat 64 id])

/-- Whether a gang of a partition runs, or is on the way to or from its saved contexts. -/
def State.partBusy (s : State) (part : Nat) : Bool :=
  s.gangs.any fun g => g.part == part && g.stat != .ended && g.stat != .failed && !g.sealed
/-- Whether a gang of a partition is saved. -/
def State.partSaved (s : State) (part : Nat) : Bool := s.gangs.any fun g => g.part == part && g.sealed

/-- The partition frame that a physical frame holds for a partition: by its grants, its first placement, or a move under way. -/
def State.pfiAt (s : State) (q : Partition) (pfn : Nat) : Option Nat :=
  match q.grants.find? fun g => g.2.gv && g.2.pfn == pfn with
  | some g => some g.1
  | none => match s.svc.moves.find? fun m => m.part == q.id && (m.old == pfn || m.new == pfn) with
    | some m => some m.pfi
    | none => match q.unplaced pfn with
      | some pfi => if pfi < q.frames && (smFind pfi q.grants).isNone then some pfi else none
      | none => none

/-- Where a physical address of one placement of a partition is in another. -/
def State.repaired (s : State) (old new : Partition) (pa : Nat) : Nat :=
  match s.pfiAt old (pa / 65536) with
  | some pfi => (new.grant pfi).pfn * 65536 + pa % 65536
  | none => pa

def smMap {α : Type} (f : Nat → Nat) (m : SMap α) : SMap α := m.foldl (fun r e => smPut (f e.1) e.2 r) []

def StoreTo.mapPas (f : Nat → Nat) : StoreTo → StoreTo
  | .global pas k => .global (pas.map f) k
  | .self => .self
  | .remote dst ent => .remote dst ent

def XPart.mapPas (f : Nat → Nat) : XPart → XPart
  | .storeY ys n va key tgt id => .storeY ys n va key (tgt.mapPas f) id
  | .storeV vs a tgt => .storeV vs a (tgt.mapPas f)
  | .loadY yd n sg id data => .loadY yd n sg id data
  | .loadV vd a data => .loadV vd a data

def Slot.mapPas (f : Nat → Nat) (x : Slot) : Slot :=
  match x.work with
  | .part p => { x with work := .part (p.mapPas f) }
  | _ => x

def Late.mapPas (f : Nat → Nat) : Late → Late
  | .gsb task bytes => .gsb task (bytes.map fun b => (f b.1, b.2.1, b.2.2))
  | .read id task pas => .read id task (pas.map f)
  | .store dst ent id va key ws timed due => .store dst ent id va key ws timed due
  | .fetch dst id va key places low => .fetch dst id va key places low

def Load.mapPas (f : Nat → Nat) (l : Load) : Load :=
  match l.kind with
  | .global bytes task => { l with kind := .global (bytes.map fun b => (f b.1, b.2)) task }
  | .remote | .amo => l

def Task.mapPas (f : Nat → Nat) (k : Task) : Task := { k with gsb := smMap f k.gsb, reads := k.reads.map fun l => f (l * 64) / 64 }

def Damo.mapPas (f : Nat → Nat) (d : Damo) : Damo := { d with pa := f d.pa }

/-- The physical addresses that a saved thread has fixed follow their frames (R373, R379). -/
def Tile.mapPas (f : Nat → Nat) (t : Tile) : Tile :=
  { t with
    fe := { t.fe with xq := t.fe.xq.map (Slot.mapPas f), late := t.fe.late.map fun e => { e with what := e.what.mapPas f } }
    loads := t.loads.map (Load.mapPas f)
    damos := t.damos.map (Damo.mapPas f)
    task := { t.task with
      tasks := t.task.tasks.map (Task.mapPas f), bg := t.task.bg.mapPas f
      cks := t.task.cks.map fun c => { c with bgGsb := smMap f c.bgGsb, damos := c.damos.map (Damo.mapPas f) } } }

def Flight.mapPas (f : Nat → Nat) (x : Flight) : Flight :=
  match x.msg with
  | .amo id pa w form b c => { x with msg := .amo id (f pa) w form b c }
  | _ => x

def Context.mapPas (f : Nat → Nat) (c : Context) : Context :=
  { c with
    tiles := c.tiles.map fun e => (e.1, e.2.mapPas f), net := c.net.map (Flight.mapPas f)
    staged := smMap f c.staged }

def StoreTo.pas : StoreTo → List Nat
  | .global pas _ => pas
  | .self | .remote .. => []

def XPart.pas : XPart → List Nat
  | .storeY _ _ _ _ tgt _ => tgt.pas
  | .storeV _ _ tgt => tgt.pas
  | .loadY .. | .loadV .. => []

def Slot.pas (x : Slot) : List Nat :=
  match x.work with
  | .part p => p.pas
  | .word _ | .split | .push .. => []

def Late.pas : Late → List Nat
  | .gsb _ bytes => bytes.map (·.1)
  | .read _ _ pas => pas
  | .store .. | .fetch .. => []

def Load.pas (l : Load) : List Nat :=
  match l.kind with
  | .global bytes _ => bytes.map (·.1)
  | .remote | .amo => []

def Task.pas (k : Task) : List Nat := k.gsb.map (·.1) ++ k.reads.map (64 * ·)

/-- The physical addresses that a saved thread has fixed. -/
def Tile.pas (t : Tile) : List Nat :=
  t.fe.xq.flatMap Slot.pas ++ t.fe.late.flatMap (fun e => e.what.pas) ++ t.loads.flatMap Load.pas ++ t.damos.map (·.pa) ++
  t.task.tasks.flatMap Task.pas ++ t.task.bg.pas ++ t.task.cks.flatMap fun c => c.bgGsb.map (·.1) ++ c.damos.map (·.pa)

/-- The physical addresses that a saved gang has fixed. -/
def Context.pas (c : Context) : List Nat :=
  c.tiles.flatMap (fun e => e.2.pas) ++ c.staged.map (·.1) ++ c.net.filterMap fun x => match x.msg with
    | .amo _ pa .. => some pa
    | _ => none

/-- The partition frames in which the saved gangs of a partition, and the AMOs that its ended gangs have under way, have fixed addresses. -/
def State.savedFrames (s : State) (q : Partition) : List Nat :=
  let amos := fun (g : Gang) => s.net.filterMap fun f => match f.msg with
    | .amo _ pa .. => if f.g = g.id then some pa else none
    | _ => none
  ((((s.gangs.filter fun g => g.part == q.id).flatMap fun g => (g.saved.map Context.pas).getD [] ++ amos g).map (· / 65536)).eraseDups).filterMap (s.pfiAt q)

/-- The saved contexts of a partition's gangs, and the AMOs under way of its ended ones, follow its frames. -/
def State.mapSaved (s : State) (part : Nat) (f : Nat → Nat) : State :=
  { s with
    gangs := s.gangs.map fun g => if g.part = part then { g with saved := g.saved.map (Context.mapPas f) } else g
    net := s.net.map fun x => if (s.gang? x.g).any fun g => g.part == part then x.mapPas f else x }

/-- The frames that the moves of a partition leave: the old one once the grant has moved, else the new one. -/
def State.moveLeft (s : State) (part : Nat) : List Nat :=
  (s.svc.moves.filter fun m => m.part == part).map fun m => if m.switched then m.old else m.new

/-- The moves of a partition's frames end: the frames that they leave are zeroed, the failing ones scrapped (R375 to R377, R440). -/
def State.endMoves (s : State) (part : Nat) : State :=
  let mine := s.svc.moves.filter fun m => m.part == part
  let s := s.zeroFrames (s.moveLeft part)
  let s := { s with svc := { s.svc with moves := s.svc.moves.filter fun m => m.part != part } }
  mine.foldl (fun s m => if m.scrap then s.scrapFrame m.old else s) s

/-- The walkers forget a partition (R374). -/
def State.dropWalkers (s : State) (part : Nat) : State :=
  { s with dies := s.dies.map fun d => { d with
    walks := d.walks.filter fun w => w.part != part
    wcache := d.wcache.filter fun w => match w with
      | .table p .. => p != part
      | .grant p .. => p != part } }

/-- Memory follows its partition frames from one placement to another, and so do bad lines and what the saved contexts hold of it; what is past the
end is scrubbed (R374, R379). -/
def State.relocate (s : State) (old new : Partition) : State :=
  let s := s.zeroFrames (s.moveLeft old.id)
  let put := fun (m : Memory) (c : Nat × Byte) =>
    match s.pfiAt old (c.1 / 65536) with
    | none => memWrite c.1 c.2 m
    | some pfi => if (new.grant pfi).gv then memWrite (s.repaired old new c.1) c.2 m else m
  let stays := fun (l : Nat) => match s.pfiAt old (l / 1024) with
    | none => true
    | some pfi => (new.grant pfi).gv
  let bad := (s.svc.bad.filter stays).map fun l => s.repaired old new (l * 64) / 64
  let u := (s.mapSaved old.id (s.repaired old new)).dropWalkers old.id
  ({ u with mem := s.mem.foldl put [], svc := { s.svc with bad := bad } }).endMoves old.id

/-- Grants of free frames for some partition frames. -/
def State.grantFrames (s : State) (part : Nat) : List Nat → Option State
  | [] => some s
  | pfi :: r =>
    match s.part? part, s.freeFrame 0 with
    | some q, some f => (s.setGrant q.id pfi ⟨f, true, false, false, 0⟩).grantFrames part r
    | _, _ => none

/-- PARTITION, sub-operation 2: a partition that runs no gang, or whose gangs have all been switched out, takes another shape (R379). The
service's own frames for a saved gang, and those that it has fixed addresses in, stay granted where a smaller shape ends (log 18); a gang whose places the
partition gives up is placed anew (R390). -/
def execPartitionResize (rq : Request) (shape : Shape) (s : State) : Out :=
  .next (s.request rq 2 2 (Session.isOp rq) fun s _ =>
    if !shapeOk shape then Ans.no s stMalformed
    else match s.part? rq.part with
      | none => Ans.no s stRefused
      | some q =>
        if s.partBusy q.id then Ans.no s stRefused
        else match s.takeGroups q.id q.groups shape with
          | none => Ans.no s stNoRoom
          | some ggs =>
            let q' := { q with shape := shape, groups := ggs, grants := [] }
            let saved := s.partSaved q.id
            let q' := { q' with svc := if saved then q'.frames - (q.frames - q.svc) else 0, sva := if saved then q.sva else 0 }
            let past := (((if saved then (List.range q.svc).map (q.frames - q.svc + ·) else []) ++ s.savedFrames q).eraseDups).filter (q'.frames ≤ ·)
            let gone := fun (g : Gang) => g.part == q.id && g.l2p.any fun e => q.groups.contains (e.2 / 16) && !ggs.contains (e.2 / 16)
            let s := { s with gangs := s.gangs.map fun g => if gone g then { g with anew := true } else g }
            match (((s.scrubGroups (q.groups.filter fun gg => !ggs.contains gg)).setPart q').avoidScrap q.id).grantFrames q.id past with
            | none => Ans.no s stNoRoom
            | some u =>
              Ans.ok (match u.part? q.id with
                | some r => u.relocate q r
                | none => u) [BitVec.ofNat 64 q.id])

/-- A partition's frames, tiles and keys are given up (R440). -/
def State.dropPartition (s : State) (q : Partition) : State :=
  let mine := fun (pfn : Nat) => (s.pfiAt q pfn).isSome
  let s := { s with
    mem := s.mem.filter fun c => !mine (c.1 / 65536)
    svc := { s.svc with bad := s.svc.bad.filter fun l => !mine (l / 1024) } }
  let s := ((s.scrubGroups q.groups).dropWalkers q.id).endMoves q.id
  let gone := fun (g : Nat) => s.gangs.any fun h => h.id == g && h.part == q.id
  { s with
    net := s.net.filter fun f => !gone f.g
    parts := s.parts.filter fun r => r.id != q.id
    gangs := s.gangs.filter fun g => g.part != q.id }

/-- PARTITION, sub-operation 3: deletes a partition that runs no gang (R440). -/
def execPartitionDelete (rq : Request) (s : State) : Out :=
  .next (s.request rq 2 3 (Session.isOp rq) fun s _ =>
    match s.part? rq.part with
    | none => Ans.no s stRefused
    | some q => if s.partBusy q.id then Ans.no s stRefused else Ans.ok (s.dropPartition q) [BitVec.ofNat 64 q.id])

/-- PARTITION, sub-operation 4: the level-1 table address (R363). -/
def execPartitionRoot (rq : Request) (root : Word) (s : State) : Out :=
  .next (s.request rq 2 4 (Session.isTenant rq) fun s _ =>
    match s.part? rq.part with
    | none => Ans.no s stRefused
    | some q => Ans.ok (s.setPart { q with root := root }) [BitVec.ofNat 64 q.id])

/-- The physical cluster of a logical cluster, numbered by its first slot's index / 4. -/
def Gang.physCluster (g : Gang) (c : Nat) : Option (Nat × Nat) := (g.phys (4 * c)).map fun p => (p / 192, p % 192 / 4)

/-- PARTITION, sub-operation 5: a pattern for a logical cluster of a gang, or for a whole gang; in a DET gang for the gang (R413, R414). -/
def execPartitionPattern (rq : Request) (g c : Nat) (whole : Bool) (pat : BitVec 16) (s : State) : Out :=
  .next (s.request rq 2 5 (Session.isTenant rq) fun s _ =>
    if pat = 0 then Ans.no s stMalformed
    else match s.gang? g with
      | none => Ans.no s stRefused
      | some h =>
        if h.part ≠ rq.part then Ans.no s stAuth
        else if h.sealed ∨ h.stat = .ended ∨ h.stat = .failed then Ans.no s stRefused
        else
          let done := [BitVec.ofNat 64 h.part]
          if h.det then (if whole then Ans.ok (s.gangRequest h pat 2) done else Ans.no s stRefused)
          else if whole then Ans.ok (h.clusters.foldl (fun s c => s.clusterRequest c.1 c.2 pat 1) s) done
          else match h.physCluster c with
            | none => Ans.no s stRefused
            | some (d, k) => Ans.ok (s.clusterRequest d k pat 1) done)

/-! ## LOAD (R366) -/

/-- A move of a frame whose grant has not moved yet comes to nothing; whether its old frame fails. -/
def State.cancelMove (s : State) (part pfi : Nat) : State × Bool :=
  match s.svc.moves.find? fun m => m.part == part && m.pfi == pfi && !m.switched with
  | none => (s, false)
  | some m => (({ s with svc := { s.svc with moves := s.svc.moves.filter (· != m) } } : State).zeroFrames [m.new], m.scrap)

/-- A partition frame goes to a free frame of a stack, with its contents: a move as R376 has it, its lines copied at once, so that what still uses
the old frame reaches the new one until the shootdown and the next gang boundaries (R366, R374; log 18). -/
def State.toStack (s : State) (q : Partition) (stack pfi : Nat) : Option State :=
  let g := q.grant pfi
  if g.pfn / 2 ^ 20 = stack then some s
  else match s.findFrame (2 ^ 20) (stack * 2 ^ 20) with
    | none => none
    | some f =>
      let run := pfi / 256 * 256
      let r := s.cancelMove q.id pfi
      let s := r.1
      let s := if (q.grant run).lg then (s.setGrant q.id run { q.grant run with lg := false }).shoot q.id run else s
      let cells := (s.mem.filter fun c => c.1 / 65536 == g.pfn).map fun (c : Nat × Byte) => (f * 65536 + c.1 % 65536, c.2)
      let bad := (s.svc.bad.filter fun l => l / 1024 == g.pfn).map fun l => f * 1024 + l % 1024
      let m : FrameMove := ⟨q.id, pfi, g.pfn, f, [], true, false, [], r.2⟩
      let s := { s with mem := memWrites cells s.mem, svc := { s.svc with bad := bad ++ s.svc.bad, moves := s.svc.moves ++ [m] } }
      some (s.setGrant q.id pfi { g with pfn := f, mir := true, mpfn := f, lg := false })

/-- Every frame of a range to a stack. -/
def State.allToStack (s : State) (part stack : Nat) : List Nat → Option State
  | [] => some s
  | pfi :: r =>
    match s.part? part with
    | none => none
    | some q => match s.toStack q stack pfi with
      | none => none
      | some s => s.allToStack part stack r

/-- LOAD: data at a partition address; stack 0xFF is any (R366, R431). -/
def execLoad (rq : Request) (pa : Word) (stack : Nat) (bytes : List Byte) (s : State) : Out :=
  .next (s.request rq 3 0 (Session.isTenant rq) fun s _ =>
    match s.part? rq.part with
    | none => Ans.no s stRefused
    | some q =>
      let a := pa.toNat
      let first := a / 65536
      let fs := (List.range (if bytes.isEmpty then 0 else (a + bytes.length - 1) / 65536 + 1 - first)).map (first + ·)
      if rq.len ≠ 64 + bytes.length ∨ (8 ≤ stack ∧ stack ≠ 0xFF) then Ans.no s stMalformed
      else if !fs.all fun pfi => (q.grant pfi).gv then Ans.no s stRefused
      else match if stack = 0xFF then some s else s.allToStack q.id stack fs with
        | none => Ans.no s stRefused
        | some u => match u.part? q.id with
          | none => Ans.no s stRefused
          | some q => Ans.ok (u.partPuts q a bytes) [])

/-! ## LAUNCH (R43, R381 to R386) -/

/-- The ring table: the first slot and LOGL of each ring (R382). -/
def Image.rings (m : Image) (bs : List Byte) : List (Nat × Nat) :=
  (m.ofType 9).flatMap fun c => (c.recs bs 8).map fun w => (fieldOf w 10 0, fieldOf w 13 11)

/-- The gang an image describes, before it is placed. -/
def Image.gang (m : Image) (bs : List Byte) (s : State) (part undo pkg npkg : Nat) (dies : List Nat) (l2p : List (Nat × Nat)) : Gang :=
  { id := s.svc.launches, part := part, dies := dies, groups := m.groups, det := m.det, hsub := m.hsub, poison := m.poison
    gsblog2 := m.gsblog2, htab := BitVec.ofNat 64 m.htab, evring := BitVec.ofNat 64 m.evring, evlog2 := m.evlog2, evlost := 0, pkg := pkg
    npkg := npkg, key := s.svc.launches, l2p := l2p, stat := .placed, t0 := 0, ts := 0, t1 := 0, step := 0, bmus := [], bmuSnap := []
    fired := [], commit := none, staged := [], undo := undo, consumed := 0, poisonRolled := false, serial := 0, bcause := 0
    btake := [], suspect := 0, hcount := 0, rolling := none, ate := none, sealed := false, saved := none, slice := false, auto := false, emerg := []
    prior := [], rings := m.rings bs, wake := none, endAtBoundary := s.svc.shutdown, resumeAt := none, anew := false, asked := [] }

/-- The first frame boundary at which a launch may start: at least 4,096 ticks after its last write, and not before the dies of the gang can
have reached the voltage of the reset pattern (R43, R412; log 19). -/
def State.startTick (s : State) (g : Gang) : Nat := (s.tick + 4096 + 16 + s.raiseTicks g.dies + 15) / 16 * 16

/-- Writes an accepted launch and names T0 (R43); the gang's clusters are asked for the reset pattern (R7, R416); none when the partition has
no frames left for it. -/
def State.launchWrite (s : State) (m : Image) (bs : List Byte) (g : Gang) (pair : Bool) : Option (State × Gang) :=
  match s.placePrograms g.part bs (m.ofType 2) [] with
  | none => none
  | some s => match s.placeCues g.part m bs (List.range m.ndie) with
    | none => none
    | some (bmus, s) => match s.placeRing g.part m with
      | none => none
      | some (ring, s) => match s.placeAreas g.part (2 ^ g.gsblog2) g.undo (g.l2p.map Prod.fst) with
        | none => none
        | some (areas, s) =>
          let g := { g with bmus := bmus, bmuSnap := bmus, evring := BitVec.ofNat 64 ring, t0 := s.startTick g }
          let s := g.l2p.foldl (fun s e =>
            let a := (smFind e.1 areas).getD (0, 0)
            s.onTile e.2 (m.tile bs g g.undo e.1 a.1 a.2)) s
          let s := { s with gangs := s.gangs ++ [g], svc := { s.svc with launches := s.svc.launches + 1 } }
          let s := s.clusterPats g (fun _ => 0xFFFF) 0
          some (if pair then g.l2p.foldl (fun s e => s.couple g.part e.2) s else s, g)

/-- LAUNCH: checks the image at a partition address, places the gang and names T0; refused with nothing placed (R43, R386, R431). -/
def execLaunch (rq : Request) (image : Word) (len undo : Nat) (pair : Bool) (pkg npkg : Nat) (s : State) : Out :=
  .next (s.request rq 4 0 (Session.isTenant rq) fun s _ =>
    match s.part? rq.part with
    | none => Ans.no s stRefused 4
    | some q =>
      if undo < 16 ∨ 19 < undo ∨ 255 < pkg ∨ 255 < npkg then Ans.no s stMalformed
      else
        let bs := s.partBytes q image.toNat len
        let m := imageOf bs
        let place := s.placeGang q (m.wanted bs) m.groups
        let at_ := place.getD (List.range m.ndie, [])
        let g := m.gang bs s q.id (2 ^ undo) pkg npkg at_.1 at_.2
        match s.launchReason m bs g place pkg npkg with
        | some r => Ans.no s stRefused r
        | none =>
          if !(g.dies.all fun d => (s.die d).powered) then Ans.no s stRefused 4
          else match s.launchWrite m bs g pair with
            | none => Ans.no s stRefused 4
            | some (u, g) => Ans.ok u [BitVec.ofNat 64 g.id, BitVec.ofNat 64 g.t0, g.evring])

/-! ## PREEMPT (R387, R390) -/

/-- PREEMPT, action 1: a gang switch at Ts, at least 8,192 ticks ahead; an earlier one stands; a gang the service holds saved stays so. One that a
shutdown waits for goes on afterwards (R435). -/
def execPreemptStop (rq : Request) (g tick : Nat) (s : State) : Out :=
  .next (s.request rq 5 1 (Session.tenantOrOp rq) fun s c =>
    match s.gang? g with
    | none => Ans.no s stRefused
    | some h =>
      let ts := if tick = 0 then s.tick + 8192 else tick
      let auto := s.svc.shutdown
      let named := fun (u : State) (n : Nat) => Ans.ok u [BitVec.ofNat 64 n]
      if !c.operator && h.part != rq.part then Ans.no s stAuth
      else if ts < s.tick + 8192 then Ans.no s stRefused
      else match h.stat with
        | .running => named (s.setGang { h with stat := .stopping, ts := ts, auto := auto, resumeAt := none }) ts
        | .stopping => named (s.setGang { h with auto := auto, resumeAt := none }) h.ts
        | .rolling =>
          let n := if h.t1 < h.ts then h.ts else ts
          named (s.setGang { h with ts := n, auto := auto, resumeAt := none }) n
        | .resuming => if h.sealed then named ((s.answerAsked h stRefused []).setGang { h with stat := .stopped, auto := auto, asked := [] }) h.ts else Ans.no s stRefused
        | .placed | .stopped | .ended | .failed => Ans.no s stRefused)

/-- PREEMPT, action 2: a stopped gang resumes at T1, the asked tick or later, one that is still stopping once it is saved; the reply carries T1 once the service
names it, 4,096 ticks after the last parked packet has performed (R390, R431; log 25). -/
def execPreemptResume (rq : Request) (g tick : Nat) (s : State) : Out :=
  .next (s.request rq 5 2 (Session.tenantOrOp rq) fun s c =>
    match s.gang? g with
    | none => Ans.no s stRefused
    | some h =>
      let t1 := if tick = 0 then s.tick + 8192 else max tick s.tick
      if !c.operator && h.part != rq.part then Ans.no s stAuth
      else if h.sealed && (h.stat == .stopped || h.stat == .resuming) then
        Ans.wait (s.setGang { h with stat := .resuming, t1 := t1, asked := h.asked ++ [rq] })
      else if h.stat == .stopped || h.stat == .stopping then
        Ans.wait (s.setGang { h with auto := true, resumeAt := some t1, asked := h.asked ++ [rq] })
      else Ans.no s stRefused)

/-! ## QUERY and RESYNC (R410, R416, R425, R433, R444) -/

def nw (n : Nat) : Word := BitVec.ofNat 64 n

/-- Item 1: for each cluster, its number, its count of overwritten entries, its entries (R416). -/
def State.traceWords (s : State) : List Word :=
  s.dies.toList.zipIdx.flatMap fun d => d.1.clusters.toList.zipIdx.flatMap fun c =>
    [nw (48 * d.2 + c.2), nw c.1.lost, nw c.1.trace.length] ++
      c.1.trace.flatMap fun e => [nw e.tick, nw (e.pat.toNat + e.why % 256 * 2 ^ 16)]

/-- An assay record (R425). -/
def Assay.words (a : Assay) : List Word :=
  [nw (a.w % 2 ^ 48 + a.bti % 2 ^ 16 * 2 ^ 48),
   nw (a.em % 2 ^ 16 + a.state.rank * 2 ^ 16 + (if a.mflt then 2 ^ 18 else 0) + (if a.susp then 2 ^ 19 else 0)), nw a.stick, 0]
def State.assayWords (s : State) : List Word := (List.range 1536).flatMap fun p => (s.tile p).assay.words

/-- UNIT of an error-log record. -/
def ucCode : UcUnit → Nat
  | .scratchpad => 0
  | .accumulator => 1
  | .envelope => 2
  | .memory => 3
  | .network => 4
  | .latch => 5
  | .registers => 6
  | .other => 7
/-- An error-log record (R410). -/
def ErrRec.words (r : ErrRec) : List Word :=
  [nw (r.kind % 256 + r.pidx % 2048 * 2 ^ 8 + ucCode r.component * 2 ^ 19 + r.rcount % 8 * 2 ^ 22), r.addr, nw r.tick, 0]
def State.errorWords (s : State) : List Word :=
  s.dies.toList.flatMap fun d => nw d.errlog.length :: d.errlog.flatMap ErrRec.words

/-- Item 4: for each gang, the events that found its ring full (R444). -/
def State.eventWords (s : State) : List Word := s.gangs.flatMap fun g => [nw g.id, nw g.evlost]

/-- QUERY of trace buffers. -/
def execQueryTrace (rq : Request) (s : State) : Out :=
  .next (s.request rq 6 1 (Session.anyone rq) fun s _ => Ans.ok s s.traceWords)
/-- QUERY of assay records. -/
def execQueryAssay (rq : Request) (s : State) : Out :=
  .next (s.request rq 6 2 (Session.anyone rq) fun s _ => Ans.ok s s.assayWords)
/-- QUERY of the error log. -/
def execQueryErrorLog (rq : Request) (s : State) : Out :=
  .next (s.request rq 6 3 (Session.anyone rq) fun s _ => Ans.ok s s.errorWords)
/-- QUERY of event-ring counts. -/
def execQueryEventCounts (rq : Request) (s : State) : Out :=
  .next (s.request rq 6 4 (Session.anyone rq) fun s _ => Ans.ok s s.eventWords)

/-- The window position of the entry armed for a thread. -/
def Gang.armedAt (g : Gang) (l : Nat) : Nat :=
  match g.bmu (l / 192) with
  | none => 0
  | some b => match b.armed (l % 192) with
    | none => 0
    | some e => (b.win.findIdx? fun f => f.idx == e.idx).getD 0

/-- Whether a tile is in its die's spare pool, for its own partition or for any (R378). -/
def State.inPool (s : State) (p : Nat) : Bool :=
  (s.poolRank ((s.parts.find? fun q => q.owns p).map (·.id) |>.getD 0xFFFF) p).isSome

/-- STATE and WHERE of a tile (R433). -/
def State.tileState (s : State) (p : Nat) : Nat × Nat :=
  let t := s.tile p
  if t.assay.state == .retired then (9, 0)
  else if t.assay.state == .drained then (8, 0)
  else if t.free then (if s.inPool p then 1 else 0, 0)
  else match t.ctl.stat with
    | .halted => (5, 0)
    | .moving _ => (6, 0)
    | .waiting (.barrier ..) | .waiting (.swait _) => (3, match s.gangOf t with
      | some g => g.armedAt t.lidx
      | none => 0)
    | .waiting (.rcv q _) => (4, q.toNat)
    | .waiting (.stream _ q) => (4, q)
    | _ => (if t.assay.state == .derated then 7 else 2, 0)

/-- The record of a physical tile (R433). -/
def State.tileWords (s : State) (p : Nat) : List Word :=
  let t := s.tile p
  let st := s.tileState p
  [nw (p + (if t.gang.isSome then t.lidx else 0) * 2 ^ 11 + st.1 * 2 ^ 22 + (t.gang.getD 0) % 2 ^ 16 * 2 ^ 32 + st.2 % 2 ^ 16 * 2 ^ 48), 0]

def GStat.code : GStat → Nat
  | .placed => 0
  | .running => 1
  | .stopping => 2
  | .stopped => 3
  | .resuming => 4
  | .rolling => 5
  | .ended => 6
  | .failed => 7

/-- The commit step that a gang has reached (R112): 0 none, 1 the boundary is met, 2 tasks merge, 3 every task is merged. -/
def State.commitStep (s : State) (g : Gang) : Nat :=
  let ks := s.allTasks g
  if g.commit.isNone then 0
  else if ks.all (·.task.merged) then 3
  else if ks.any (fun k => k.task.merged || !k.task.sliced.isEmpty) then 2
  else 1

/-- A window on one die (R121): its cue pointer, the stream index of the oldest unfired entry, the entries with what this die reported, the arrival bits, the ready reports received. -/
def Bmu.words (b : Bmu) : List Word :=
  [nw ((b.win.head?.map (·.idx)).getD b.next), nw b.win.length] ++ b.win.flatMap (fun e => [nw e.idx, nw (if e.reported then 1 else 0)]) ++
  wordsOf (b.arrived.foldl (fun (m : BitVec 192) a => m ||| 1#192 <<< a.1) 0) ++
  (nw b.reports.length :: b.reports.flatMap fun r => [nw r.die, nw r.cue.idx, nw r.tick])

/-- A gang in the summary: identifier, partition, mode, state, superstep, the commit step reached, its windows. -/
def State.gangWords (s : State) (g : Gang) : List Word :=
  [nw g.id, nw g.part, nw (if g.det then 1 else 0), nw g.stat.code, nw g.step, nw (s.commitStep g)] ++ g.bmus.flatMap Bmu.words

/-- The followers: physical tile, bytes of the undo region in use, errors in the log that the tile consumed (R409). -/
def State.followerWords (s : State) : List Word :=
  (s.tiles.filter fun e => e.2.pair.partner.isSome && !e.2.pair.leader).flatMap fun e =>
    [nw e.1, nw e.2.undo.used, nw ((s.die (e.1 / 192)).errlog.filter fun r => r.pidx == e.1 && (r.kind == 1 || r.kind == 2)).length]

/-- The summary of R433, taken at one tick; its layout but for the tile records is the model's own (log 25). -/
def State.summary (s : State) : List Word :=
  [nw s.tick, nw s.svc.coord, nw s.svc.sessions.length] ++
  s.svc.sessions.flatMap (fun c => [c.id, nw (c.last.getD 0)]) ++
  (nw s.parts.length :: s.parts.flatMap fun q => [nw q.id, shapeWord q.shape]) ++
  (nw s.gangs.length :: s.gangs.flatMap s.gangWords) ++
  (s.tiles.flatMap fun e => e.2.copies.map fun c => nw (e.1 + c.id * 2 ^ 16 + c.moved * 2 ^ 32)) ++
  (s.dies.toList.flatMap fun d => d.clusters.toList.map fun c => nw c.pat.toNat) ++ s.traceWords ++
  s.svc.degraded.map nw ++ s.followerWords ++ s.errorWords ++ s.assayWords ++ (List.range 1536).flatMap s.tileWords

/-- RESYNC (R433). -/
def execResync (rq : Request) (s : State) : Out :=
  .next (s.request rq 7 0 (Session.anyone rq) fun s _ => Ans.ok s s.summary)

/-! ## Freeze, shutdown, read-out (R434, R435, R440, R441) -/

/-- Gangs that have not ended. -/
def State.live (s : State) : List Gang := s.gangs.filter fun g => g.stat != .ended && g.stat != .failed
/-- Every gang ends failed. -/
def State.failAll (s : State) : State := s.live.foldl (fun s g => s.gangFail g.id) s
/-- Every tile is scrubbed, every partition key destroyed, and the compute dies power down (R435). -/
def State.powerDown (s : State) : State :=
  let s := (s.tiles.map Prod.fst).foldl (fun s p => s.onTile p Tile.scrub) s
  { s with parts := [], dies := s.dies.map fun d => { d with powered := false }, svc := { s.svc with down := true } }

/-- At Tf the clocks stop: the tiles stand as they are for a read-out, and every gang ends failed (R434). -/
def State.freezeNow (s : State) : State := { s with svc := { s.svc with image := some s.tiles } }.failAll

/-- FREEZE: the clocks stop at Tf (R434). -/
def execFreeze (rq : Request) (tick : Nat) (s : State) : Out :=
  .next (s.request rq 8 0 (Session.isOp rq) fun s _ =>
    let tf := max tick s.tick
    let s := { s with svc := { s.svc with frozen := some tf } }
    Ans.ok (if tf ≤ s.tick then s.freezeNow else s) [nw tf])

/-- SHUTDOWN, mode 0 (R435). -/
def execShutdownImmediate (rq : Request) (s : State) : Out :=
  .next (
    let u := s.request rq 9 0 (Session.isOp rq) fun s _ => Ans.ok ({ s with svc := { s.svc with shutdown := true } }.failAll) []
    if u.svc.shutdown && u.live.isEmpty then u.powerDown else u)

/-- A gang that a shutdown waits for: it goes on until its next gang boundary has published, also from its saved contexts (R435; log 25). -/
def Gang.lastStretch (g : Gang) : Gang :=
  { g with endAtBoundary := true, auto := true, stat := if g.sealed && g.stat == .stopped then .resuming else g.stat }

/-- SHUTDOWN, mode 1: each gang stops after its next gang boundary (R435). -/
def execShutdownAtBoundary (rq : Request) (s : State) : Out :=
  .next (
    let u := s.request rq 9 1 (Session.isOp rq) fun s _ =>
      Ans.ok { s with gangs := s.gangs.map Gang.lastStretch, svc := { s.svc with shutdown := true } } []
    if u.svc.shutdown && u.live.isEmpty then u.powerDown else u)

/-- The partition whose tenant a tile's state belongs to: that of its gang, for a follower that of its leader's, else the one that owns its group
(R405, R434). -/
def State.tenantOf (s : State) (p : Nat) (t : Tile) : Option Nat :=
  let lead := (s.svc.image.getD s.tiles)
  let gang := match t.gang with
    | some g => some g
    | none => t.pair.partner.bind fun l => (smGet Tile.reset l lead).gang
  match gang.bind s.gang? with
  | some g => some g.part
  | none => (s.parts.find? fun q => q.owns p).map (·.id)

/-- The ATTEST key of a partition's tenant: that of its latest session (R434, R438). -/
def State.attestKey (s : State) (part : Nat) : Option (BitVec 776) :=
  ((s.svc.sessions.filter fun e => !e.operator && e.part == some part).getLast?).map (·.pub)

/-- A tile's state as a read-out returns it (R434). -/
def State.readTile (s : State) (p : Nat) (t : Tile) : Readout :=
  match s.tenantOf p t with
  | some n => .sealed p n (s.attestKey n) t
  | none => .clear p t

/-- What the operator reads of a read-out, and what the holder of an ATTEST key does (R434). -/
def Readout.clearTile : Readout → Option Tile
  | .clear _ t => some t
  | .sealed .. => none
def Readout.openTile (pub : BitVec 776) : Readout → Option Tile
  | .clear _ t => some t
  | .sealed _ _ k t => if k = some pub then some t else none

/-- The code of a boot that has halted (R437). -/
def Boot.haltCode : Boot → Nat
  | .halted c => c
  | .cold | .up => 0

/-- TAP_READOUT of one of the eight dies: the boot halt code and the device identity; in a frozen package also the state of every tile as the freeze stopped it, each
tenant's part for that tenant alone. The service path returns the same (R434, R441; log 25). -/
def execTapReadout (d : Nat) (s : State) : Out :=
  .next (if 8 ≤ d then s else
    let tiles : List Readout := match s.svc.image with
      | some m => (List.range 192).map fun i => s.readTile (192 * d + i) ((smFind (192 * d + i) m).getD Tile.reset)
      | none => []
    { s with svc := { s.svc with tap := nw s.svc.boot.haltCode :: Config.identity, readout := tiles } })

/-! ## Coordinator, boot, time (R429, R436, R437) -/

/-- COORDINATOR_FAILOVER: the lowest-numbered working die, which has its power and whose core works, orders the requests (R422, R429). -/
def execCoordinatorFailover (dead : List Nat) (s : State) : Out :=
  .next (match (List.range 8).find? fun d => !dead.contains d && (s.die d).powered with
    | none => s
    | some d => { s with svc := { s.svc with coord := d } })

/-- BOOT: the flash read, both signatures, the version counter, the other images; a failure halts with a code (R437; log 25).
sigOk is none where the flash cannot be read, and else whether the ECDSA signature verifies. -/
def execBoot (sigOk : Option Bool) (lmsOk othersOk : Bool) (version : Nat) (s : State) : Out :=
  .next (
    if s.svc.boot != .cold then s
    else if sigOk.isNone then { s with svc := { s.svc with boot := .halted 1 } }
    else if sigOk == some false || !lmsOk then { s with svc := { s.svc with boot := .halted 2 } }
    else if version < s.svc.version then { s with svc := { s.svc with boot := .halted 3 } }
    else { s with svc := { s.svc with version := version, boot := if othersOk then .up else .halted 4 } })

/-- IEEE_1588_SYNC: the master clock is trimmed by at most 100 parts per million; before the first launch TICK may step forward, later never
(R436). -/
def execIeee1588Sync (fix : ClockFix) (s : State) : Out :=
  .next { s with
    tick := if s.svc.launches = 0 then s.tick + fix.step else s.tick
    svc := { s.svc with ppm := max (-100) (min 100 fix.ppm) } }

end Sys2Proof.Machine
end

