-- ==== Sys2Proof/Machine/SFloat.lean ====
section
/-! DEFINITION. SFloat: the scalar floating-point forms of the X slice (R260 to R265). -/

namespace Sys2Proof.Machine

/-- The float format of a type; the integer types never reach it (R211, R215). -/
def ffOf : LTy → FFmt
  | .bf16 => .bf16
  | .f32 => .f32
  | _ => .f64

/-- yd := f a b with its flags; an FP32 operand is the low half of its register (R260). -/
def Tile.sf2 (t : Tile) (yd ys1 ys2 : YReg) (f : Nat → Nat → Nat × Fl) (w : Nat) : Tile :=
  t.xWord [ys1, ys2] [yd] fun t =>
    let a := t.popY ys1
    let b := a.2.popY ys2
    let r := f (a.1.toNat % 2 ^ w) (b.1.toNat % 2 ^ w)
    (b.2.putY yd (BitVec.ofNat 64 r.1)).flags r.2
/-- yd := f a with its flags. -/
def Tile.sf1 (t : Tile) (yd ys1 : YReg) (f : Nat → Nat × Fl) (w : Nat) : Tile :=
  t.xWord [ys1] [yd] fun t =>
    let a := t.popY ys1
    let r := f (a.1.toNat % 2 ^ w)
    (a.2.putY yd (BitVec.ofNat 64 r.1)).flags r.2

/-- FADD (R261). -/
def execFadd (ty : LTy) (yd ys1 ys2 : YReg) (s : State) : Out :=
  .next (s.setT (s.t.sf2 yd ys1 ys2 (fAdd (ffOf ty)) (laneBits ty)))
/-- FSUB (R261). -/
def execFsub (ty : LTy) (yd ys1 ys2 : YReg) (s : State) : Out :=
  .next (s.setT (s.t.sf2 yd ys1 ys2 (fSub (ffOf ty)) (laneBits ty)))
/-- FMUL (R261). -/
def execFmul (ty : LTy) (yd ys1 ys2 : YReg) (s : State) : Out :=
  .next (s.setT (s.t.sf2 yd ys1 ys2 (fMul (ffOf ty)) (laneBits ty)))
/-- FDIV (R261). -/
def execFdiv (ty : LTy) (yd ys1 ys2 : YReg) (s : State) : Out :=
  .next (s.setT (s.t.sf2 yd ys1 ys2 (fDiv (ffOf ty)) (laneBits ty)))
/-- FMIN (R261). -/
def execFmin (ty : LTy) (yd ys1 ys2 : YReg) (s : State) : Out :=
  .next (s.setT (s.t.sf2 yd ys1 ys2 (fMinMax (ffOf ty) false) (laneBits ty)))
/-- FMAX (R261). -/
def execFmax (ty : LTy) (yd ys1 ys2 : YReg) (s : State) : Out :=
  .next (s.setT (s.t.sf2 yd ys1 ys2 (fMinMax (ffOf ty) true) (laneBits ty)))
/-- FSQRT (R79, R261). -/
def execFsqrt (ty : LTy) (yd ys1 : YReg) (s : State) : Out := .next (s.setT (s.t.sf1 yd ys1 (fSqrt (ffOf ty)) (laneBits ty)))
/-- FMADD: yd is the addend before it is the destination (R261). -/
def execFmadd (ty : LTy) (yd ys1 ys2 : YReg) (s : State) : Out :=
  .next (s.setT (s.t.xWord [ys1, ys2, yd] [yd] fun t =>
    let c := (t.yval yd).toNat % 2 ^ laneBits ty
    let a := t.popY ys1
    let b := a.2.popY ys2
    let r := fMadd (ffOf ty) (a.1.toNat % 2 ^ laneBits ty) (b.1.toNat % 2 ^ laneBits ty) c
    (b.2.putY yd (BitVec.ofNat 64 r.1)).flags r.2))
/-- FCMP (R262). -/
def execFcmp (ty : LTy) (cc : Cond) (yd ys1 ys2 : YReg) (s : State) : Out :=
  .next (s.setT (s.t.sf2 yd ys1 ys2 (fun a b => let r := fCmp (ffOf ty) cc a b; (if r.1 then 1 else 0, r.2)) (laneBits ty)))
/-- FCVT: an integer result is sign-extended, a float result clears the bits above it (R264). -/
def execFcvt (dst src : LTy) (rm : RMode) (sat : Bool) (yd ys1 : YReg) (s : State) : Out :=
  .next (s.setT (s.t.sf1 yd ys1 (fun a =>
    let r := convert (laneFmt dst) (laneFmt src) rm sat a
    (if dst.isInt then codeOf 64 (intOf (laneBits dst) r.1) else r.1, r.2)) (laneBits src)))
/-- FCLASS (R263). -/
def execFclass (ty : LTy) (yd ys1 : YReg) (s : State) : Out :=
  .next (s.setT (s.t.sf1 yd ys1 (fun a => (fClass (ffOf ty) a, 0)) (laneBits ty)))

end Sys2Proof.Machine
end

