-- ==== Sys2Proof/Machine/VInt.lean ====
section
/-! DEFINITION. VInt: the integer vector forms (R266, R267, R275). -/

namespace Sys2Proof.Machine

/-- vd := f of lane pairs under the write mask, on w-bit codes (R267, R275). -/
def Tile.v2 (t : Tile) (ty : LTy) (vm : MReg) (vd vs1 vs2 : VReg) (f : Nat → Nat → Nat × Fl) : Tile :=
  let w := laneBits ty
  let a := t.vval vs1
  let b := t.vval vs2
  let r := maskedLanes w (t.mval vm) (t.vval vd) fun i => f (laneGet w a i) (laneGet w b i)
  (t.putV vd r.1).flags r.2
/-- vd := f of lanes under the write mask. -/
def Tile.v1 (t : Tile) (ty : LTy) (vm : MReg) (vd vs1 : VReg) (f : Nat → Nat × Fl) : Tile :=
  let w := laneBits ty
  let a := t.vval vs1
  let r := maskedLanes w (t.mval vm) (t.vval vd) fun i => f (laneGet w a i)
  (t.putV vd r.1).flags r.2
/-- md := a relation of lane pairs: all bits of each unmasked element set or cleared (R49, R275). -/
def Tile.vcmp (t : Tile) (ty : LTy) (vm md : MReg) (vs1 vs2 : VReg) (f : Nat → Nat → Bool × Fl) : Tile :=
  let w := laneBits ty
  let a := t.vval vs1
  let b := t.vval vs2
  let m := t.mval vm
  let on := (List.range (512 / w)).filter (laneOn (w / 8) m)
  let rs := on.map fun i => (i, f (laneGet w a i) (laneGet w b i))
  (t.putM md (rs.foldl (fun acc r => maskPut (w / 8) r.1 r.2.1 acc) (t.mval md))).flags
    (rs.foldl (fun acc r => acc ||| r.2.2) 0)
/-- An integer lane operation without flags: on signed values, wrapping to the lane width (R57). -/
def laneInt (ty : LTy) (f : Int → Int → Int) (a b : Nat) : Nat × Fl :=
  let w := laneBits ty
  (codeOf w (f (intOf w a) (intOf w b)), 0)

/-- VADD (R275). -/
def execVadd (ty : LTy) (vm : MReg) (vd vs1 vs2 : VReg) (s : State) : Out :=
  .next (s.setT (s.t.v2 ty vm vd vs1 vs2 (laneInt ty (· + ·))))
/-- VSUB (R275). -/
def execVsub (ty : LTy) (vm : MReg) (vd vs1 vs2 : VReg) (s : State) : Out :=
  .next (s.setT (s.t.v2 ty vm vd vs1 vs2 (laneInt ty (· - ·))))
/-- VMUL (R275). -/
def execVmul (ty : LTy) (vm : MReg) (vd vs1 vs2 : VReg) (s : State) : Out :=
  .next (s.setT (s.t.v2 ty vm vd vs1 vs2 (laneInt ty (· * ·))))
/-- VMULH (R275). -/
def execVmulh (ty : LTy) (vm : MReg) (vd vs1 vs2 : VReg) (s : State) : Out :=
  .next (s.setT (s.t.v2 ty vm vd vs1 vs2 (laneInt ty fun a b => a * b / 2 ^ laneBits ty)))
/-- VMIN (R275). -/
def execVmin (ty : LTy) (vm : MReg) (vd vs1 vs2 : VReg) (s : State) : Out :=
  .next (s.setT (s.t.v2 ty vm vd vs1 vs2 (laneInt ty fun a b => if a < b then a else b)))
/-- VMAX (R275). -/
def execVmax (ty : LTy) (vm : MReg) (vd vs1 vs2 : VReg) (s : State) : Out :=
  .next (s.setT (s.t.v2 ty vm vd vs1 vs2 (laneInt ty fun a b => if a < b then b else a)))
/-- VAND (R275). -/
def execVand (ty : LTy) (vm : MReg) (vd vs1 vs2 : VReg) (s : State) : Out :=
  .next (s.setT (s.t.v2 ty vm vd vs1 vs2 (fun a b => (a &&& b, 0))))
/-- VOR (R275). -/
def execVor (ty : LTy) (vm : MReg) (vd vs1 vs2 : VReg) (s : State) : Out :=
  .next (s.setT (s.t.v2 ty vm vd vs1 vs2 (fun a b => (a ||| b, 0))))
/-- VXOR (R275). -/
def execVxor (ty : LTy) (vm : MReg) (vd vs1 vs2 : VReg) (s : State) : Out :=
  .next (s.setT (s.t.v2 ty vm vd vs1 vs2 (fun a b => (a ^^^ b, 0))))
/-- VSLL (R275). -/
def execVsll (ty : LTy) (vm : MReg) (vd vs1 vs2 : VReg) (s : State) : Out :=
  .next (s.setT (s.t.v2 ty vm vd vs1 vs2 (fun a b => (a * 2 ^ (b % laneBits ty), 0))))
/-- VSRL (R275). -/
def execVsrl (ty : LTy) (vm : MReg) (vd vs1 vs2 : VReg) (s : State) : Out :=
  .next (s.setT (s.t.v2 ty vm vd vs1 vs2 (fun a b => (a / 2 ^ (b % laneBits ty), 0))))
/-- VSRA (R275). -/
def execVsra (ty : LTy) (vm : MReg) (vd vs1 vs2 : VReg) (s : State) : Out :=
  .next (s.setT (s.t.v2 ty vm vd vs1 vs2 (fun a b => (codeOf (laneBits ty) (intOf (laneBits ty) a / 2 ^ (b % laneBits ty)), 0))))
/-- VABS: the most negative value stays (R275). -/
def execVabs (ty : LTy) (vm : MReg) (vd vs1 : VReg) (s : State) : Out :=
  .next (s.setT (s.t.v1 ty vm vd vs1 fun a => (codeOf (laneBits ty) (intOf (laneBits ty) a).natAbs, 0)))
/-- VCMPEQ (R275). -/
def execVcmpeq (ty : LTy) (vm md : MReg) (vs1 vs2 : VReg) (s : State) : Out :=
  .next (s.setT (s.t.vcmp ty vm md vs1 vs2 fun a b => (a == b, 0)))
/-- VCMPLT (R275). -/
def execVcmplt (ty : LTy) (vm md : MReg) (vs1 vs2 : VReg) (s : State) : Out :=
  .next (s.setT (s.t.vcmp ty vm md vs1 vs2 fun a b => (decide (intOf (laneBits ty) a < intOf (laneBits ty) b), 0)))
/-- VSEL: the mask selects, every lane is written (R275). -/
def execVsel (ty : LTy) (vm : MReg) (vd vs1 vs2 : VReg) (s : State) : Out :=
  .next (s.setT (
    let t := s.t
    let w := laneBits ty
    t.putV vd (ofLanes w ((List.range (512 / w)).map fun i =>
      laneGet w (if laneOn (w / 8) (t.mval vm) i then t.vval vs1 else t.vval vs2) i))))

end Sys2Proof.Machine
end

