-- ==== Sys2Proof/Machine/VFlt.lean ====
section
/-! DEFINITION. VFlt: the floating-point vector forms (R276, R277, R79, R81). -/

namespace Sys2Proof.Machine

/-- VFADD (R276). -/
def execVfadd (ty : LTy) (vm : MReg) (vd vs1 vs2 : VReg) (s : State) : Out :=
  .next (s.setT (s.t.v2 ty vm vd vs1 vs2 (fAdd (ffOf ty))))
/-- VFSUB (R276). -/
def execVfsub (ty : LTy) (vm : MReg) (vd vs1 vs2 : VReg) (s : State) : Out :=
  .next (s.setT (s.t.v2 ty vm vd vs1 vs2 (fSub (ffOf ty))))
/-- VFMUL (R276). -/
def execVfmul (ty : LTy) (vm : MReg) (vd vs1 vs2 : VReg) (s : State) : Out :=
  .next (s.setT (s.t.v2 ty vm vd vs1 vs2 (fMul (ffOf ty))))
/-- VFMIN (R77, R276). -/
def execVfmin (ty : LTy) (vm : MReg) (vd vs1 vs2 : VReg) (s : State) : Out :=
  .next (s.setT (s.t.v2 ty vm vd vs1 vs2 (fMinMax (ffOf ty) false)))
/-- VFMAX (R77, R276). -/
def execVfmax (ty : LTy) (vm : MReg) (vd vs1 vs2 : VReg) (s : State) : Out :=
  .next (s.setT (s.t.v2 ty vm vd vs1 vs2 (fMinMax (ffOf ty) true)))
/-- vd := f of lane pairs and the old lane of vd (R276). -/
def Tile.v3 (t : Tile) (ty : LTy) (vm : MReg) (vd vs1 vs2 : VReg) (f : Nat → Nat → Nat → Nat × Fl) : Tile :=
  let w := laneBits ty
  let a := t.vval vs1
  let b := t.vval vs2
  let c := t.vval vd
  let r := maskedLanes w (t.mval vm) c fun i => f (laneGet w a i) (laneGet w b i) (laneGet w c i)
  (t.putV vd r.1).flags r.2
/-- VFMA (R276). -/
def execVfma (ty : LTy) (vm : MReg) (vd vs1 vs2 : VReg) (s : State) : Out :=
  .next (s.setT (s.t.v3 ty vm vd vs1 vs2 (fMadd (ffOf ty))))
/-- VFMS (R276). -/
def execVfms (ty : LTy) (vm : MReg) (vd vs1 vs2 : VReg) (s : State) : Out :=
  .next (s.setT (s.t.v3 ty vm vd vs1 vs2 (fMsub (ffOf ty))))
/-- VFABS: the sign bit cleared (R276, R277). -/
def execVfabs (ty : LTy) (vm : MReg) (vd vs1 : VReg) (s : State) : Out :=
  .next (s.setT (s.t.v1 ty vm vd vs1 fun a => (a % 2 ^ (laneBits ty - 1), 0)))
/-- VFNEG: the sign bit inverted (R276, R277). -/
def execVfneg (ty : LTy) (vm : MReg) (vd vs1 : VReg) (s : State) : Out :=
  .next (s.setT (s.t.v1 ty vm vd vs1 fun a => (a ^^^ 2 ^ (laneBits ty - 1), 0)))
/-- VFCMPEQ (R262, R277). -/
def execVfcmpeq (ty : LTy) (vm md : MReg) (vs1 vs2 : VReg) (s : State) : Out :=
  .next (s.setT (s.t.vcmp ty vm md vs1 vs2 (fCmp (ffOf ty) .eq)))
/-- VFCMPLT (R262, R277). -/
def execVfcmplt (ty : LTy) (vm md : MReg) (vs1 vs2 : VReg) (s : State) : Out :=
  .next (s.setT (s.t.vcmp ty vm md vs1 vs2 (fCmp (ffOf ty) .lt)))
/-- VFCMPLE (R262, R277). -/
def execVfcmple (ty : LTy) (vm md : MReg) (vs1 vs2 : VReg) (s : State) : Out :=
  .next (s.setT (s.t.vcmp ty vm md vs1 vs2 (fCmp (ffOf ty) .le)))
/-- VRSQRT (R79). -/
def execVrsqrt (ty : LTy) (vm : MReg) (vd vs1 : VReg) (s : State) : Out :=
  .next (s.setT (s.t.v1 ty vm vd vs1 (fRsqrt (ffOf ty))))
/-- VRECIP (R79). -/
def execVrecip (ty : LTy) (vm : MReg) (vd vs1 : VReg) (s : State) : Out :=
  .next (s.setT (s.t.v1 ty vm vd vs1 (fRecip (ffOf ty))))
/-- VSQRT (R79). -/
def execVsqrt (ty : LTy) (vm : MReg) (vd vs1 : VReg) (s : State) : Out :=
  .next (s.setT (s.t.v1 ty vm vd vs1 (fSqrt (ffOf ty))))
/-- VEXP2 (R81). -/
def execVexp2 (ty : LTy) (vm : MReg) (vd vs1 : VReg) (s : State) : Out :=
  .next (s.setT (s.t.v1 ty vm vd vs1 (fExp2 (ffOf ty))))

end Sys2Proof.Machine
end

