-- ==== Sys2Proof/Machine/VPerm.lean ====
section
/-! DEFINITION. VPerm: permutes, packing, conversion, reductions, lane moves and masks (R278 to R283). -/

namespace Sys2Proof.Machine

/-- vd := lanes chosen by position, under the write mask; bits move unchanged (R278). -/
def Tile.vperm (t : Tile) (ty : LTy) (vm : MReg) (vd : VReg) (f : Nat → Nat) : Tile :=
  t.putV vd (maskedLanes (laneBits ty) (t.mval vm) (t.vval vd) fun i => (f i, 0)).1

/-- VPERM (R278). -/
def execVperm (ty : LTy) (vm : MReg) (vd vs1 vs2 : VReg) (s : State) : Out :=
  .next (s.setT (
    let w := laneBits ty
    s.t.vperm ty vm vd fun i => laneGet w (s.t.vval vs1) (laneGet w (s.t.vval vs2) i % lanesOf ty)))
/-- VSHUF: the old vd holds the indices (R278). -/
def execVshuf (ty : LTy) (vm : MReg) (vd vs1 vs2 : VReg) (s : State) : Out :=
  .next (s.setT (
    let w := laneBits ty
    let n := lanesOf ty
    s.t.vperm ty vm vd fun i =>
      let j := laneGet w (s.t.vval vd) i % (2 * n)
      if j < n then laneGet w (s.t.vval vs1) j else laneGet w (s.t.vval vs2) (j - n)))
/-- VBCAST (R278). -/
def execVbcast (ty : LTy) (vm : MReg) (vd vs1 : VReg) (ys2 : YReg) (s : State) : Out :=
  .next (s.setT (s.t.xWord [ys2] [] fun t =>
    let b := t.popY ys2
    b.2.vperm ty vm vd fun _ => laneGet (laneBits ty) (t.vval vs1) (b.1.toNat % lanesOf ty)))
/-- VSLIDEUP (R278). -/
def execVslideup (ty : LTy) (vm : MReg) (vd vs1 : VReg) (ys2 : YReg) (s : State) : Out :=
  .next (s.setT (s.t.xWord [ys2] [] fun t =>
    let b := t.popY ys2
    let k := b.1.toNat
    b.2.vperm ty vm vd fun i => if k ≤ i then laneGet (laneBits ty) (t.vval vs1) (i - k) else laneGet (laneBits ty) (t.vval vd) i))
/-- VSLIDEDN (R278). -/
def execVslidedn (ty : LTy) (vm : MReg) (vd vs1 : VReg) (ys2 : YReg) (s : State) : Out :=
  .next (s.setT (s.t.xWord [ys2] [] fun t =>
    let b := t.popY ys2
    let k := b.1.toNat
    b.2.vperm ty vm vd fun i =>
      if i + k < lanesOf ty then laneGet (laneBits ty) (t.vval vs1) (i + k) else laneGet (laneBits ty) (t.vval vd) i))
/-- VZIP (R278). -/
def execVzip (ty : LTy) (vm : MReg) (vd vs1 vs2 : VReg) (s : State) : Out :=
  .next (s.setT (s.t.vperm ty vm vd fun i =>
    laneGet (laneBits ty) (if i % 2 = 0 then s.t.vval vs1 else s.t.vval vs2) (i / 2)))
/-- VUNZIP (R278). -/
def execVunzip (ty : LTy) (vm : MReg) (vd vs1 vs2 : VReg) (s : State) : Out :=
  .next (s.setT (
    let n := lanesOf ty
    s.t.vperm ty vm vd fun i =>
      if i < n / 2 then laneGet (laneBits ty) (s.t.vval vs1) (2 * i) else laneGet (laneBits ty) (s.t.vval vs2) (2 * i - n)))

/-! ## Packing and conversion (R279, R280) -/

/-- The half-width type VPACK narrows to (R279). -/
def narrowTy : LTy → LTy
  | .i16 => .i8
  | .i32 => .i16
  | .i64 => .i32
  | .f32 => .bf16
  | .f64 => .f32
  | t => t
/-- The double-width type VWIDEN widens to (R279). -/
def wideTy : LTy → LTy
  | .i8 => .i16
  | .i16 => .i32
  | .i32 => .i64
  | .bf16 => .f32
  | .f32 => .f64
  | t => t
/-- VPACK: the write mask governs narrow lanes (R279). -/
def execVpack (ty : LTy) (vm : MReg) (vd vs1 vs2 : VReg) (s : State) : Out :=
  .next (s.setT (
    let t := s.t
    let h := lanesOf ty
    let w := laneBits ty
    let r := maskedLanes (laneBits (narrowTy ty)) (t.mval vm) (t.vval vd) fun i =>
      convert (laneFmt (narrowTy ty)) (laneFmt ty) .rne false
        (if i < h then laneGet w (t.vval vs1) i else laneGet w (t.vval vs2) (i - h))
    (t.putV vd r.1).flags r.2))
/-- VWIDEN: the write mask governs wide lanes (R279). -/
def execVwiden (ty : LTy) (vm : MReg) (vd vs1 : VReg) (half : Bool) (s : State) : Out :=
  .next (s.setT (
    let t := s.t
    let h := lanesOf ty / 2
    let r := maskedLanes (laneBits (wideTy ty)) (t.mval vm) (t.vval vd) fun i =>
      convert (laneFmt (wideTy ty)) (laneFmt ty) .rne false (laneGet (laneBits ty) (t.vval vs1) ((if half then h else 0) + i))
    (t.putV vd r.1).flags r.2))
/-- VCVT: lanes beyond the source's or destination's count are zero (R280). -/
def execVcvt (dst src : NFmt) (rm : RMode) (sat : Bool) (vd vs1 : VReg) (s : State) : Out :=
  .next (s.setT (
    let t := s.t
    let ns := 512 / nfBits src
    let nd := 512 / nfBits dst
    let rs := (List.range (min ns nd)).map fun i => convert dst src rm sat (laneGet (nfBits src) (t.vval vs1) i)
    (t.putV vd (ofLanes (nfBits dst) (rs.map (·.1)))).flags (rs.foldl (fun a r => a ||| r.2) 0)))

/-! ## Reductions (R78, R281) -/

/-- One pass of the pairwise tree, with the flags of its nodes. -/
def treePass (f : Nat → Nat → Nat × Fl) : List Nat → List Nat × Fl
  | a :: b :: r =>
    let x := f a b
    let y := treePass f r
    (x.1 :: y.1, x.2 ||| y.2)
  | r => (r, 0)
/-- The tree of R78 over n lanes in at most `fuel` passes. -/
def tree (f : Nat → Nat → Nat × Fl) : Nat → List Nat → Nat × Fl
  | 0, l => (l.headD 0, 0)
  | k + 1, l =>
    match l with
    | [a] => (a, 0)
    | l =>
      let p := treePass f l
      let r := tree f k p.1
      (r.1, p.2 ||| r.2)
/-- A reduction: masked-off lanes enter as the identity; lane 0 receives the result, the others zero (R281). -/
def Tile.vred (t : Tile) (ty : LTy) (vm : MReg) (vd vs1 : VReg) (ident : Nat) (f : Nat → Nat → Nat × Fl) : Tile :=
  let w := laneBits ty
  let ls := (List.range (lanesOf ty)).map fun i => if laneOn (w / 8) (t.mval vm) i then laneGet w (t.vval vs1) i else ident
  let r := tree f 6 ls
  (t.putV vd (BitVec.ofNat 512 (r.1 % 2 ^ w))).flags r.2
/-- VREDSUM (R281). -/
def execVredsum (ty : LTy) (vm : MReg) (vd vs1 : VReg) (s : State) : Out :=
  .next (s.setT (
    if ty.isInt then s.t.vred ty vm vd vs1 0 (laneInt ty (· + ·))
    else s.t.vred ty vm vd vs1 ((ffOf ty).signed true 0) (fAdd (ffOf ty))))
/-- VREDMAX (R281). -/
def execVredmax (ty : LTy) (vm : MReg) (vd vs1 : VReg) (s : State) : Out :=
  .next (s.setT (
    if ty.isInt then s.t.vred ty vm vd vs1 (2 ^ (laneBits ty - 1)) (laneInt ty fun a b => if a < b then b else a)
    else s.t.vred ty vm vd vs1 ((ffOf ty).infS true) (fMinMax (ffOf ty) true)))
/-- VREDMIN (R281). -/
def execVredmin (ty : LTy) (vm : MReg) (vd vs1 : VReg) (s : State) : Out :=
  .next (s.setT (
    if ty.isInt then s.t.vred ty vm vd vs1 (2 ^ (laneBits ty - 1) - 1) (laneInt ty fun a b => if a < b then a else b)
    else s.t.vred ty vm vd vs1 ((ffOf ty).infS false) (fMinMax (ffOf ty) false)))

/-! ## Lane moves (R282) -/

/-- VINSY (R282). -/
def execVinsy (ty : LTy) (vd : VReg) (ys1 ys2 : YReg) (s : State) : Out :=
  .next (s.setT (s.t.xWord [ys1, ys2] [] fun t =>
    let a := t.popY ys1
    let b := a.2.popY ys2
    let k := a.1.toNat % lanesOf ty
    b.2.putV vd (ofLanes (laneBits ty) ((List.range (lanesOf ty)).map fun i =>
      if i = k then b.1.toNat else laneGet (laneBits ty) (t.vval vd) i))))
/-- VEXTY: integer lanes are sign-extended, an FP32 lane clears the upper half (R282). -/
def execVexty (ty : LTy) (yd : YReg) (vs1 : VReg) (ys2 : YReg) (s : State) : Out :=
  .next (s.setT (s.t.xWord [ys2] [yd] fun t =>
    let b := t.popY ys2
    let c := laneGet (laneBits ty) (t.vval vs1) (b.1.toNat % lanesOf ty)
    b.2.putY yd (BitVec.ofNat 64 (if ty.isInt then codeOf 64 (intOf (laneBits ty) c) else c))))
/-- VSPLAT (R282). -/
def execVsplat (ty : LTy) (vm : MReg) (vd : VReg) (ys1 : YReg) (s : State) : Out :=
  .next (s.setT (s.t.xWord [ys1] [] fun t =>
    let a := t.popY ys1
    a.2.vperm ty vm vd fun _ => a.1.toNat % 2 ^ laneBits ty))

/-! ## Masks (R283) -/

/-- MAND (R283). -/
def execMand (md ms1 ms2 : MReg) (s : State) : Out := .next (s.setT (s.t.putM md (s.t.mval ms1 &&& s.t.mval ms2)))
/-- MOR (R283). -/
def execMor (md ms1 ms2 : MReg) (s : State) : Out := .next (s.setT (s.t.putM md (s.t.mval ms1 ||| s.t.mval ms2)))
/-- MXOR (R283). -/
def execMxor (md ms1 ms2 : MReg) (s : State) : Out := .next (s.setT (s.t.putM md (s.t.mval ms1 ^^^ s.t.mval ms2)))
/-- MNOT (R283). -/
def execMnot (md ms1 : MReg) (s : State) : Out := .next (s.setT (s.t.putM md (~~~s.t.mval ms1)))
/-- MPOP (R283). -/
def execMpop (yd : YReg) (ms1 : MReg) (s : State) : Out :=
  .next (s.setT (s.t.xWord [] [yd] fun t => t.putY yd (aluCnt (t.mval ms1))))
/-- MFIRST (R283). -/
def execMfirst (yd : YReg) (ms1 : MReg) (s : State) : Out :=
  .next (s.setT (s.t.xWord [] [yd] fun t => t.putY yd (aluCtz (t.mval ms1))))

end Sys2Proof.Machine
end

