-- ==== Sys2Proof/Machine/Dispatch.lean ====
section
/-! DEFINITION. Dispatch: one arm per constructor of Instr, each one call of its meaning. -/

namespace Sys2Proof.Machine

open Sys2Proof

def exec (i : Instr) (s : State) : Host.Outcome State Fault Refusal :=
  match i with
  | .lb rd rs1 imm => Sys2Proof.Machine.execLb rd rs1 imm s
  | .lh rd rs1 imm => Sys2Proof.Machine.execLh rd rs1 imm s
  | .lw rd rs1 imm => Sys2Proof.Machine.execLw rd rs1 imm s
  | .ld rd rs1 imm => Sys2Proof.Machine.execLd rd rs1 imm s
  | .lbu rd rs1 imm => Sys2Proof.Machine.execLbu rd rs1 imm s
  | .lhu rd rs1 imm => Sys2Proof.Machine.execLhu rd rs1 imm s
  | .lwu rd rs1 imm => Sys2Proof.Machine.execLwu rd rs1 imm s
  | .sb rs2 rs1 imm => Sys2Proof.Machine.execSb rs2 rs1 imm s
  | .sh rs2 rs1 imm => Sys2Proof.Machine.execSh rs2 rs1 imm s
  | .sw rs2 rs1 imm => Sys2Proof.Machine.execSw rs2 rs1 imm s
  | .sd rs2 rs1 imm => Sys2Proof.Machine.execSd rs2 rs1 imm s
  | .lbY yd rs1 imm => Sys2Proof.Machine.execLbY yd rs1 imm s
  | .lhY yd rs1 imm => Sys2Proof.Machine.execLhY yd rs1 imm s
  | .lwY yd rs1 imm => Sys2Proof.Machine.execLwY yd rs1 imm s
  | .ldY yd rs1 imm => Sys2Proof.Machine.execLdY yd rs1 imm s
  | .lbuY yd rs1 imm => Sys2Proof.Machine.execLbuY yd rs1 imm s
  | .lhuY yd rs1 imm => Sys2Proof.Machine.execLhuY yd rs1 imm s
  | .lwuY yd rs1 imm => Sys2Proof.Machine.execLwuY yd rs1 imm s
  | .sbY yd rs1 imm => Sys2Proof.Machine.execSbY yd rs1 imm s
  | .shY yd rs1 imm => Sys2Proof.Machine.execShY yd rs1 imm s
  | .swY yd rs1 imm => Sys2Proof.Machine.execSwY yd rs1 imm s
  | .sdY yd rs1 imm => Sys2Proof.Machine.execSdY yd rs1 imm s
  | .addi rd rs1 imm => Sys2Proof.Machine.execAddi rd rs1 imm s
  | .slli rd rs1 sh => Sys2Proof.Machine.execSlli rd rs1 sh s
  | .srli rd rs1 sh => Sys2Proof.Machine.execSrli rd rs1 sh s
  | .srai rd rs1 sh => Sys2Proof.Machine.execSrai rd rs1 sh s
  | .slti rd rs1 imm => Sys2Proof.Machine.execSlti rd rs1 imm s
  | .sltiu rd rs1 imm => Sys2Proof.Machine.execSltiu rd rs1 imm s
  | .xori rd rs1 imm => Sys2Proof.Machine.execXori rd rs1 imm s
  | .ori rd rs1 imm => Sys2Proof.Machine.execOri rd rs1 imm s
  | .andi rd rs1 imm => Sys2Proof.Machine.execAndi rd rs1 imm s
  | .addiw rd rs1 imm => Sys2Proof.Machine.execAddiw rd rs1 imm s
  | .add rd rs1 rs2 => Sys2Proof.Machine.execAdd rd rs1 rs2 s
  | .sub rd rs1 rs2 => Sys2Proof.Machine.execSub rd rs1 rs2 s
  | .and rd rs1 rs2 => Sys2Proof.Machine.execAnd rd rs1 rs2 s
  | .or rd rs1 rs2 => Sys2Proof.Machine.execOr rd rs1 rs2 s
  | .xor rd rs1 rs2 => Sys2Proof.Machine.execXor rd rs1 rs2 s
  | .sll rd rs1 rs2 => Sys2Proof.Machine.execSll rd rs1 rs2 s
  | .srl rd rs1 rs2 => Sys2Proof.Machine.execSrl rd rs1 rs2 s
  | .sra rd rs1 rs2 => Sys2Proof.Machine.execSra rd rs1 rs2 s
  | .slt rd rs1 rs2 => Sys2Proof.Machine.execSlt rd rs1 rs2 s
  | .sltu rd rs1 rs2 => Sys2Proof.Machine.execSltu rd rs1 rs2 s
  | .min rd rs1 rs2 => Sys2Proof.Machine.execMin rd rs1 rs2 s
  | .max rd rs1 rs2 => Sys2Proof.Machine.execMax rd rs1 rs2 s
  | .minu rd rs1 rs2 => Sys2Proof.Machine.execMinu rd rs1 rs2 s
  | .maxu rd rs1 rs2 => Sys2Proof.Machine.execMaxu rd rs1 rs2 s
  | .mul rd rs1 rs2 => Sys2Proof.Machine.execMul rd rs1 rs2 s
  | .mulh rd rs1 rs2 => Sys2Proof.Machine.execMulh rd rs1 rs2 s
  | .mulhu rd rs1 rs2 => Sys2Proof.Machine.execMulhu rd rs1 rs2 s
  | .div rd rs1 rs2 => Sys2Proof.Machine.execDiv rd rs1 rs2 s
  | .divu rd rs1 rs2 => Sys2Proof.Machine.execDivu rd rs1 rs2 s
  | .rem rd rs1 rs2 => Sys2Proof.Machine.execRem rd rs1 rs2 s
  | .remu rd rs1 rs2 => Sys2Proof.Machine.execRemu rd rs1 rs2 s
  | .addw rd rs1 rs2 => Sys2Proof.Machine.execAddw rd rs1 rs2 s
  | .subw rd rs1 rs2 => Sys2Proof.Machine.execSubw rd rs1 rs2 s
  | .sllw rd rs1 rs2 => Sys2Proof.Machine.execSllw rd rs1 rs2 s
  | .srlw rd rs1 rs2 => Sys2Proof.Machine.execSrlw rd rs1 rs2 s
  | .sraw rd rs1 rs2 => Sys2Proof.Machine.execSraw rd rs1 rs2 s
  | .clz rd rs1 => Sys2Proof.Machine.execClz rd rs1 s
  | .ctz rd rs1 => Sys2Proof.Machine.execCtz rd rs1 s
  | .cnt rd rs1 => Sys2Proof.Machine.execCnt rd rs1 s
  | .sel rd rs1 rs2 => Sys2Proof.Machine.execSel rd rs1 rs2 s
  | .lui rd imm => Sys2Proof.Machine.execLui rd imm s
  | .auipc rd imm => Sys2Proof.Machine.execAuipc rd imm s
  | .beq rs1 rs2 off => Sys2Proof.Machine.execBeq rs1 rs2 off s
  | .bne rs1 rs2 off => Sys2Proof.Machine.execBne rs1 rs2 off s
  | .blt rs1 rs2 off => Sys2Proof.Machine.execBlt rs1 rs2 off s
  | .bge rs1 rs2 off => Sys2Proof.Machine.execBge rs1 rs2 off s
  | .bltu rs1 rs2 off => Sys2Proof.Machine.execBltu rs1 rs2 off s
  | .bgeu rs1 rs2 off => Sys2Proof.Machine.execBgeu rs1 rs2 off s
  | .jal rd off => Sys2Proof.Machine.execJal rd off s
  | .jalr rd rs1 imm => Sys2Proof.Machine.execJalr rd rs1 imm s
  | .pbr jd off => Sys2Proof.Machine.execPbr jd off s
  | .bj js => Sys2Proof.Machine.execBj js s
  | .bjz js rs1 => Sys2Proof.Machine.execBjz js rs1 s
  | .bjnz js rs1 => Sys2Proof.Machine.execBjnz js rs1 s
  | .loop lvl rs1 fin => Sys2Proof.Machine.execLoop lvl rs1 fin s
  | .loopi lvl cnt fin => Sys2Proof.Machine.execLoopi lvl cnt fin s
  | .lclr lvl => Sys2Proof.Machine.execLclr lvl s
  | .vld ty vm vd rs1 imm => Sys2Proof.Machine.execVld ty vm vd rs1 imm s
  | .vst ty vm vd rs1 imm => Sys2Proof.Machine.execVst ty vm vd rs1 imm s
  | .vlds ty vm vd rs1 rs2 => Sys2Proof.Machine.execVlds ty vm vd rs1 rs2 s
  | .vsts ty vm vd rs1 rs2 => Sys2Proof.Machine.execVsts ty vm vd rs1 rs2 s
  | .vgather ty vm vd rs1 vs2 => Sys2Proof.Machine.execVgather ty vm vd rs1 vs2 s
  | .vscatter ty vm vd rs1 vs2 => Sys2Proof.Machine.execVscatter ty vm vd rs1 vs2 s
  | .vldb ty vm vd rs1 imm => Sys2Proof.Machine.execVldb ty vm vd rs1 imm s
  | .vadd ty vm vd vs1 vs2 => Sys2Proof.Machine.execVadd ty vm vd vs1 vs2 s
  | .vsub ty vm vd vs1 vs2 => Sys2Proof.Machine.execVsub ty vm vd vs1 vs2 s
  | .vmul ty vm vd vs1 vs2 => Sys2Proof.Machine.execVmul ty vm vd vs1 vs2 s
  | .vmulh ty vm vd vs1 vs2 => Sys2Proof.Machine.execVmulh ty vm vd vs1 vs2 s
  | .vmin ty vm vd vs1 vs2 => Sys2Proof.Machine.execVmin ty vm vd vs1 vs2 s
  | .vmax ty vm vd vs1 vs2 => Sys2Proof.Machine.execVmax ty vm vd vs1 vs2 s
  | .vabs ty vm vd vs1 => Sys2Proof.Machine.execVabs ty vm vd vs1 s
  | .vand ty vm vd vs1 vs2 => Sys2Proof.Machine.execVand ty vm vd vs1 vs2 s
  | .vor ty vm vd vs1 vs2 => Sys2Proof.Machine.execVor ty vm vd vs1 vs2 s
  | .vxor ty vm vd vs1 vs2 => Sys2Proof.Machine.execVxor ty vm vd vs1 vs2 s
  | .vsll ty vm vd vs1 vs2 => Sys2Proof.Machine.execVsll ty vm vd vs1 vs2 s
  | .vsrl ty vm vd vs1 vs2 => Sys2Proof.Machine.execVsrl ty vm vd vs1 vs2 s
  | .vsra ty vm vd vs1 vs2 => Sys2Proof.Machine.execVsra ty vm vd vs1 vs2 s
  | .vcmpeq ty vm md vs1 vs2 => Sys2Proof.Machine.execVcmpeq ty vm md vs1 vs2 s
  | .vcmplt ty vm md vs1 vs2 => Sys2Proof.Machine.execVcmplt ty vm md vs1 vs2 s
  | .vsel ty vm vd vs1 vs2 => Sys2Proof.Machine.execVsel ty vm vd vs1 vs2 s
  | .vfadd ty vm vd vs1 vs2 => Sys2Proof.Machine.execVfadd ty vm vd vs1 vs2 s
  | .vfsub ty vm vd vs1 vs2 => Sys2Proof.Machine.execVfsub ty vm vd vs1 vs2 s
  | .vfmul ty vm vd vs1 vs2 => Sys2Proof.Machine.execVfmul ty vm vd vs1 vs2 s
  | .vfma ty vm vd vs1 vs2 => Sys2Proof.Machine.execVfma ty vm vd vs1 vs2 s
  | .vfms ty vm vd vs1 vs2 => Sys2Proof.Machine.execVfms ty vm vd vs1 vs2 s
  | .vfmin ty vm vd vs1 vs2 => Sys2Proof.Machine.execVfmin ty vm vd vs1 vs2 s
  | .vfmax ty vm vd vs1 vs2 => Sys2Proof.Machine.execVfmax ty vm vd vs1 vs2 s
  | .vfabs ty vm vd vs1 => Sys2Proof.Machine.execVfabs ty vm vd vs1 s
  | .vfneg ty vm vd vs1 => Sys2Proof.Machine.execVfneg ty vm vd vs1 s
  | .vfcmpeq ty vm md vs1 vs2 => Sys2Proof.Machine.execVfcmpeq ty vm md vs1 vs2 s
  | .vfcmplt ty vm md vs1 vs2 => Sys2Proof.Machine.execVfcmplt ty vm md vs1 vs2 s
  | .vfcmple ty vm md vs1 vs2 => Sys2Proof.Machine.execVfcmple ty vm md vs1 vs2 s
  | .vrsqrt ty vm vd vs1 => Sys2Proof.Machine.execVrsqrt ty vm vd vs1 s
  | .vrecip ty vm vd vs1 => Sys2Proof.Machine.execVrecip ty vm vd vs1 s
  | .vsqrt ty vm vd vs1 => Sys2Proof.Machine.execVsqrt ty vm vd vs1 s
  | .vexp2 ty vm vd vs1 => Sys2Proof.Machine.execVexp2 ty vm vd vs1 s
  | .vperm ty vm vd vs1 vs2 => Sys2Proof.Machine.execVperm ty vm vd vs1 vs2 s
  | .vshuf ty vm vd vs1 vs2 => Sys2Proof.Machine.execVshuf ty vm vd vs1 vs2 s
  | .vbcast ty vm vd vs1 ys2 => Sys2Proof.Machine.execVbcast ty vm vd vs1 ys2 s
  | .vslideup ty vm vd vs1 ys2 => Sys2Proof.Machine.execVslideup ty vm vd vs1 ys2 s
  | .vslidedn ty vm vd vs1 ys2 => Sys2Proof.Machine.execVslidedn ty vm vd vs1 ys2 s
  | .vzip ty vm vd vs1 vs2 => Sys2Proof.Machine.execVzip ty vm vd vs1 vs2 s
  | .vunzip ty vm vd vs1 vs2 => Sys2Proof.Machine.execVunzip ty vm vd vs1 vs2 s
  | .vcvt dst src rm sat vd vs1 => Sys2Proof.Machine.execVcvt dst src rm sat vd vs1 s
  | .vpack ty vm vd vs1 vs2 => Sys2Proof.Machine.execVpack ty vm vd vs1 vs2 s
  | .vwiden ty vm vd vs1 half => Sys2Proof.Machine.execVwiden ty vm vd vs1 half s
  | .vredsum ty vm vd vs1 => Sys2Proof.Machine.execVredsum ty vm vd vs1 s
  | .vredmax ty vm vd vs1 => Sys2Proof.Machine.execVredmax ty vm vd vs1 s
  | .vredmin ty vm vd vs1 => Sys2Proof.Machine.execVredmin ty vm vd vs1 s
  | .vinsy ty vd ys1 ys2 => Sys2Proof.Machine.execVinsy ty vd ys1 ys2 s
  | .vexty ty yd vs1 ys2 => Sys2Proof.Machine.execVexty ty yd vs1 ys2 s
  | .vsplat ty vm vd ys1 => Sys2Proof.Machine.execVsplat ty vm vd ys1 s
  | .mand md ms1 ms2 => Sys2Proof.Machine.execMand md ms1 ms2 s
  | .mor md ms1 ms2 => Sys2Proof.Machine.execMor md ms1 ms2 s
  | .mxor md ms1 ms2 => Sys2Proof.Machine.execMxor md ms1 ms2 s
  | .mnot md ms1 => Sys2Proof.Machine.execMnot md ms1 s
  | .mpop yd ms1 => Sys2Proof.Machine.execMpop yd ms1 s
  | .mfirst yd ms1 => Sys2Proof.Machine.execMfirst yd ms1 s
  | .fadd ty yd ys1 ys2 => Sys2Proof.Machine.execFadd ty yd ys1 ys2 s
  | .fsub ty yd ys1 ys2 => Sys2Proof.Machine.execFsub ty yd ys1 ys2 s
  | .fmul ty yd ys1 ys2 => Sys2Proof.Machine.execFmul ty yd ys1 ys2 s
  | .fdiv ty yd ys1 ys2 => Sys2Proof.Machine.execFdiv ty yd ys1 ys2 s
  | .fsqrt ty yd ys1 => Sys2Proof.Machine.execFsqrt ty yd ys1 s
  | .fmin ty yd ys1 ys2 => Sys2Proof.Machine.execFmin ty yd ys1 ys2 s
  | .fmax ty yd ys1 ys2 => Sys2Proof.Machine.execFmax ty yd ys1 ys2 s
  | .fmadd ty yd ys1 ys2 => Sys2Proof.Machine.execFmadd ty yd ys1 ys2 s
  | .fcmp ty cc yd ys1 ys2 => Sys2Proof.Machine.execFcmp ty cc yd ys1 ys2 s
  | .fcvt dst src rm sat yd ys1 => Sys2Proof.Machine.execFcvt dst src rm sat yd ys1 s
  | .fclass ty yd ys1 => Sys2Proof.Machine.execFclass ty yd ys1 s
  | .mcfg ys1 => Sys2Proof.Machine.execMcfg ys1 s
  | .mldb ys1 ys2 => Sys2Proof.Machine.execMldb ys1 ys2 s
  | .mma acc ys1 ys2 => Sys2Proof.Machine.execMma acc ys1 ys2 s
  | .mrot => Sys2Proof.Machine.execMrot s
  | .mscale ys1 ys2 => Sys2Proof.Machine.execMscale ys1 ys2 s
  | .mzero acc int64 => Sys2Proof.Machine.execMzero acc int64 s
  | .mrdacc acc ys1 ys2 => Sys2Proof.Machine.execMrdacc acc ys1 ys2 s
  | .mwracc acc ys1 ys2 => Sys2Proof.Machine.execMwracc acc ys1 ys2 s
  | .mcmd ys1 => Sys2Proof.Machine.execMcmd ys1 s
  | .mstat yd => Sys2Proof.Machine.execMstat yd s
  | .eclr ed => Sys2Proof.Machine.execEclr ed s
  | .eins ed ys1 ys2 => Sys2Proof.Machine.execEins ed ys1 ys2 s
  | .eld ed ys1 ys2 => Sys2Proof.Machine.execEld ed ys1 ys2 s
  | .est es ys1 => Sys2Proof.Machine.execEst es ys1 s
  | .emax ed ea eb => Sys2Proof.Machine.execEmax ed ea eb s
  | .eadd ed ea eb => Sys2Proof.Machine.execEadd ed ea eb s
  | .einf ed ea eb => Sys2Proof.Machine.execEinf ed ea eb s
  | .econj ed ea => Sys2Proof.Machine.execEconj ed ea s
  | .eeval yd es ys2 => Sys2Proof.Machine.execEeval yd es ys2 s
  | .ecnt yd es => Sys2Proof.Machine.execEcnt yd es s
  | .scfg ys1 => Sys2Proof.Machine.execScfg ys1 s
  | .slocal ys1 ys2 => Sys2Proof.Machine.execSlocal ys1 ys2 s
  | .spass ys1 => Sys2Proof.Machine.execSpass ys1 s
  | .sapply ys1 ys2 => Sys2Proof.Machine.execSapply ys1 ys2 s
  | .sclose => Sys2Proof.Machine.execSclose s
  | .swait vd => Sys2Proof.Machine.execSwait vd s
  | .sndh rs1 rs2 => Sys2Proof.Machine.execSndh rs1 rs2 s
  | .snd rs1 rs2 => Sys2Proof.Machine.execSnd rs1 rs2 s
  | .rcv rd q => Sys2Proof.Machine.execRcv rd q s
  | .rcvn rd q => Sys2Proof.Machine.execRcvn rd q s
  | .wmsg => Sys2Proof.Machine.execWmsg s
  | .mbxpop rd rs2 => Sys2Proof.Machine.execMbxpop rd rs2 s
  | .cpset which rs1 => Sys2Proof.Machine.execCpset which rs1 s
  | .cplaunch rd => Sys2Proof.Machine.execCplaunch rd s
  | .cpstat rd rs1 => Sys2Proof.Machine.execCpstat rd rs1 s
  | .wait => Sys2Proof.Machine.execWait s
  | .waitv rd rs1 => Sys2Proof.Machine.execWaitv rd rs1 s
  | .fence rd scope => Sys2Proof.Machine.execFence rd scope s
  | .fwait rs1 => Sys2Proof.Machine.execFwait rs1 s
  | .amoadd w rd rs1 rs2 => Sys2Proof.Machine.execAmoadd w rd rs1 rs2 s
  | .amoand w rd rs1 rs2 => Sys2Proof.Machine.execAmoand w rd rs1 rs2 s
  | .amoor w rd rs1 rs2 => Sys2Proof.Machine.execAmoor w rd rs1 rs2 s
  | .amoxor w rd rs1 rs2 => Sys2Proof.Machine.execAmoxor w rd rs1 rs2 s
  | .amomin w rd rs1 rs2 => Sys2Proof.Machine.execAmomin w rd rs1 rs2 s
  | .amomax w rd rs1 rs2 => Sys2Proof.Machine.execAmomax w rd rs1 rs2 s
  | .amoswap w rd rs1 rs2 => Sys2Proof.Machine.execAmoswap w rd rs1 rs2 s
  | .amocas w rd rs1 rs2 => Sys2Proof.Machine.execAmocas w rd rs1 rs2 s
  | .damoadd w rd rs1 rs2 => Sys2Proof.Machine.execDamoadd w rd rs1 rs2 s
  | .damomin w rd rs1 rs2 => Sys2Proof.Machine.execDamomin w rd rs1 rs2 s
  | .damomax w rd rs1 rs2 => Sys2Proof.Machine.execDamomax w rd rs1 rs2 s
  | .next rd => Sys2Proof.Machine.execNext rd s
  | .tdone => Sys2Proof.Machine.execTdone s
  | .mfs rd spr => Sys2Proof.Machine.execMfs rd spr s
  | .mts spr rs1 => Sys2Proof.Machine.execMts spr rs1 s
  | .ecall => Sys2Proof.Machine.execEcall s
  | .eret => Sys2Proof.Machine.execEret s
  | .brk => Sys2Proof.Machine.execBrk s
  | .idle => Sys2Proof.Machine.execIdle s
  | .halt => Sys2Proof.Machine.execHalt s
  | .frameinv rs1 => Sys2Proof.Machine.execFrameinv rs1 s
  | .rqRegionWrite p n size val => Sys2Proof.Machine.execRqRegionWrite p n size val s
  | .tickcmpWrite p val => Sys2Proof.Machine.execTickcmpWrite p val s
  | .capreqWrite p val => Sys2Proof.Machine.execCapreqWrite p val s
  | .capabilityMinted p => Sys2Proof.Machine.execCapabilityMinted p s
  | .queueRearm p n => Sys2Proof.Machine.execQueueRearm p n s
  | .mailboxRearm p => Sys2Proof.Machine.execMailboxRearm p s
  | .overflowAreaRestart p => Sys2Proof.Machine.execOverflowAreaRestart p s
  | .lostClear p => Sys2Proof.Machine.execLostClear p s
  | .intpendClear p bits => Sys2Proof.Machine.execIntpendClear p bits s
  | .merrlogClear p bits => Sys2Proof.Machine.execMerrlogClear p bits s
  | .delayedLoopWriteLand p => Sys2Proof.Machine.execDelayedLoopWriteLand p s
  | .interruptTake p => Sys2Proof.Machine.execInterruptTake p s
  | .engineCommandStart p eng => Sys2Proof.Machine.execEngineCommandStart p eng s
  | .matrixCommandComplete p => Sys2Proof.Machine.execMatrixCommandComplete p s
  | .rotationSendArrival p => Sys2Proof.Machine.execRotationSendArrival p s
  | .rotationSwap p => Sys2Proof.Machine.execRotationSwap p s
  | .ringCreditArrival p => Sys2Proof.Machine.execRingCreditArrival p s
  | .mcmdRecordArrival k => Sys2Proof.Machine.execMcmdRecordArrival k s
  | .envelopeCommandComplete p => Sys2Proof.Machine.execEnvelopeCommandComplete p s
  | .scanCommandComplete p => Sys2Proof.Machine.execScanCommandComplete p s
  | .carryArrival k => Sys2Proof.Machine.execCarryArrival k s
  | .spassComplete p => Sys2Proof.Machine.execSpassComplete p s
  | .scloseComplete p => Sys2Proof.Machine.execScloseComplete p s
  | .chainRelease g tail => Sys2Proof.Machine.execChainRelease g tail s
  | .cueEntryFetch g d => Sys2Proof.Machine.execCueEntryFetch g d s
  | .barrierFire g d k => Sys2Proof.Machine.execBarrierFire g d k s
  | .readyReport g d k => Sys2Proof.Machine.execReadyReport g d k s
  | .readyReportArrival k => Sys2Proof.Machine.execReadyReportArrival k s
  | .barrierRelease g k => Sys2Proof.Machine.execBarrierRelease g k s
  | .pkgReadyReport g => Sys2Proof.Machine.execPkgReadyReport g s
  | .pkgRelease g at_ => Sys2Proof.Machine.execPkgRelease g at_ s
  | .gangBoundaryCommit g => Sys2Proof.Machine.execGangBoundaryCommit g s
  | .taskMerge g => Sys2Proof.Machine.execTaskMerge g s
  | .gangBoundaryPublish g => Sys2Proof.Machine.execGangBoundaryPublish g s
  | .damoRequestRecord k => Sys2Proof.Machine.execDamoRequestRecord k s
  | .barrierStallEvent p => Sys2Proof.Machine.execBarrierStallEvent p s
  | .longReceiveEvent p => Sys2Proof.Machine.execLongReceiveEvent p s
  | .packetArrival k => Sys2Proof.Machine.execPacketArrival k s
  | .retryResend k => Sys2Proof.Machine.execRetryResend k s
  | .packetAckArrival k => Sys2Proof.Machine.execPacketAckArrival k s
  | .streamSlotReturn k => Sys2Proof.Machine.execStreamSlotReturn k s
  | .noteArrival k => Sys2Proof.Machine.execNoteArrival k s
  | .localMailboxDelivery p => Sys2Proof.Machine.execLocalMailboxDelivery p s
  | .escapeMove k => Sys2Proof.Machine.execEscapeMove k s
  | .parkedReinject k => Sys2Proof.Machine.execParkedReinject k s
  | .remoteStoreArrival k => Sys2Proof.Machine.execRemoteStoreArrival k s
  | .remoteStoreAck k => Sys2Proof.Machine.execRemoteStoreAck k s
  | .refusalArrival k => Sys2Proof.Machine.execRefusalArrival k s
  | .remoteLoadArrival k => Sys2Proof.Machine.execRemoteLoadArrival k s
  | .remoteLoadResponse k => Sys2Proof.Machine.execRemoteLoadResponse k s
  | .globalLoadResponse p k => Sys2Proof.Machine.execGlobalLoadResponse p k s
  | .amoAction k => Sys2Proof.Machine.execAmoAction k s
  | .amoResponse k => Sys2Proof.Machine.execAmoResponse k s
  | .copyStart p id => Sys2Proof.Machine.execCopyStart p id s
  | .copyComplete p id => Sys2Proof.Machine.execCopyComplete p id s
  | .translationWalk p va need => Sys2Proof.Machine.execTranslationWalk p va need s
  | .walkComplete d k => Sys2Proof.Machine.execWalkComplete d k s
  | .invalidationAck p => Sys2Proof.Machine.execInvalidationAck p s
  | .serviceShootdown part pfi => Sys2Proof.Machine.execServiceShootdown part pfi s
  | .fwaitDone p => Sys2Proof.Machine.execFwaitDone p s
  | .rcvWake p => Sys2Proof.Machine.execRcvWake p s
  | .wmsgWake p => Sys2Proof.Machine.execWmsgWake p s
  | .idleWake p => Sys2Proof.Machine.execIdleWake p s
  | .gangStart g => Sys2Proof.Machine.execGangStart g s
  | .timeSliceEnd g => Sys2Proof.Machine.execTimeSliceEnd g s
  | .gangSwitchStop g => Sys2Proof.Machine.execGangSwitchStop g s
  | .switchPark g => Sys2Proof.Machine.execSwitchPark g s
  | .gangResume g => Sys2Proof.Machine.execGangResume g s
  | .sliceAbort g => Sys2Proof.Machine.execSliceAbort g s
  | .uncorrectableConsumption p addr kind => Sys2Proof.Machine.execUncorrectableConsumption p addr kind s
  | .rollbackStop g => Sys2Proof.Machine.execRollbackStop g s
  | .rollbackResume g => Sys2Proof.Machine.execRollbackResume g s
  | .serialReexecution g => Sys2Proof.Machine.execSerialReexecution g s
  | .touchmarkExchange p => Sys2Proof.Machine.execTouchmarkExchange p s
  | .touchmarkArrival p => Sys2Proof.Machine.execTouchmarkArrival p s
  | .patternApply d c => Sys2Proof.Machine.execPatternApply d c s
  | .rampStep d => Sys2Proof.Machine.execRampStep d s
  | .rampEnd d => Sys2Proof.Machine.execRampEnd d s
  | .temperatureRead p temp => Sys2Proof.Machine.execTemperatureRead p temp s
  | .thermalThrottleStep p => Sys2Proof.Machine.execThermalThrottleStep p s
  | .migrationStart p => Sys2Proof.Machine.execMigrationStart p s
  | .migrationResume p => Sys2Proof.Machine.execMigrationResume p s
  | .wearCharge p tj mv => Sys2Proof.Machine.execWearCharge p tj mv s
  | .monitorRead p bti em fails => Sys2Proof.Machine.execMonitorRead p bti em fails s
  | .frameRetire pfn located => Sys2Proof.Machine.execFrameRetire pfn located s
  | .frameLineCopy part pfi line => Sys2Proof.Machine.execFrameLineCopy part pfi line s
  | .mirrorClear part pfi => Sys2Proof.Machine.execMirrorClear part pfi s
  | .memoryScrubError d pidx kind addr => Sys2Proof.Machine.execMemoryScrubError d pidx kind addr s
  | .attest rq nonce key => Sys2Proof.Machine.execAttest rq nonce key s
  | .partitionCreate rq shape => Sys2Proof.Machine.execPartitionCreate rq shape s
  | .partitionResize rq shape => Sys2Proof.Machine.execPartitionResize rq shape s
  | .partitionDelete rq => Sys2Proof.Machine.execPartitionDelete rq s
  | .partitionRoot rq root => Sys2Proof.Machine.execPartitionRoot rq root s
  | .partitionPattern rq g c whole pat => Sys2Proof.Machine.execPartitionPattern rq g c whole pat s
  | .load rq pa stack bytes => Sys2Proof.Machine.execLoad rq pa stack bytes s
  | .launch rq image len undo pair pkg npkg => Sys2Proof.Machine.execLaunch rq image len undo pair pkg npkg s
  | .preemptStop rq g tick => Sys2Proof.Machine.execPreemptStop rq g tick s
  | .preemptResume rq g tick => Sys2Proof.Machine.execPreemptResume rq g tick s
  | .queryTrace rq => Sys2Proof.Machine.execQueryTrace rq s
  | .queryAssay rq => Sys2Proof.Machine.execQueryAssay rq s
  | .queryErrorLog rq => Sys2Proof.Machine.execQueryErrorLog rq s
  | .queryEventCounts rq => Sys2Proof.Machine.execQueryEventCounts rq s
  | .resync rq => Sys2Proof.Machine.execResync rq s
  | .freeze rq tick => Sys2Proof.Machine.execFreeze rq tick s
  | .shutdownImmediate rq => Sys2Proof.Machine.execShutdownImmediate rq s
  | .shutdownAtBoundary rq => Sys2Proof.Machine.execShutdownAtBoundary rq s
  | .coordinatorFailover dead => Sys2Proof.Machine.execCoordinatorFailover dead s
  | .boot sigOk lmsOk othersOk version => Sys2Proof.Machine.execBoot sigOk lmsOk othersOk version s
  | .tapReadout d => Sys2Proof.Machine.execTapReadout d s
  | .tickCompare p => Sys2Proof.Machine.execTickCompare p s
  | .ieee1588Sync fix => Sys2Proof.Machine.execIeee1588Sync fix s
  | .dieRestart d => Sys2Proof.Machine.execDieRestart d s

end Sys2Proof.Machine
end

