-- ==== Sys2Proof/Machine/Touchmark.lean ====
section
/-! DEFINITION. Touchmark: what the touchmarks of a redundant pair cover (R406, R407; log 22). -/

namespace Sys2Proof.Machine

/-- A register that an instruction writes. -/
inductive Dst where
  | x (r : XReg)
  | y (r : YReg)
  | v (r : VReg)
  | m (r : MReg)
  | j (r : JReg)
  | loop (l : Level)
  deriving DecidableEq, Repr

/-- The registers that an instruction writes as it issues; what a split load, an envelope command, a release or a response writes comes later. -/
def dests : Instr → List Dst
  | .lb rd _ _ | .lh rd _ _ | .lw rd _ _ | .ld rd _ _ | .lbu rd _ _ | .lhu rd _ _ | .lwu rd _ _ | .addi rd _ _ | .slli rd _ _
  | .srli rd _ _ | .srai rd _ _ | .slti rd _ _ | .sltiu rd _ _ | .xori rd _ _ | .ori rd _ _ | .andi rd _ _ | .addiw rd _ _
  | .add rd _ _ | .sub rd _ _ | .and rd _ _ | .or rd _ _ | .xor rd _ _ | .sll rd _ _ | .srl rd _ _ | .sra rd _ _ | .slt rd _ _
  | .sltu rd _ _ | .min rd _ _ | .max rd _ _ | .minu rd _ _ | .maxu rd _ _ | .mul rd _ _ | .mulh rd _ _ | .mulhu rd _ _
  | .div rd _ _ | .divu rd _ _ | .rem rd _ _ | .remu rd _ _ | .addw rd _ _ | .subw rd _ _ | .sllw rd _ _ | .srlw rd _ _
  | .sraw rd _ _ | .clz rd _ | .ctz rd _ | .cnt rd _ | .sel rd _ _ | .lui rd _ | .auipc rd _ | .jal rd _ | .jalr rd _ _
  | .rcv rd _ | .rcvn rd _ | .mbxpop rd _ | .cplaunch rd | .cpstat rd _ | .fence rd _ => [.x rd]
  | .vexty _ yd _ _ | .mpop yd _ | .mfirst yd _ | .fadd _ yd _ _ | .fsub _ yd _ _ | .fmul _ yd _ _ | .fdiv _ yd _ _
  | .fsqrt _ yd _ | .fmin _ yd _ _ | .fmax _ yd _ _ | .fmadd _ yd _ _ | .fcmp _ _ yd _ _ | .fcvt _ _ _ _ yd _ | .fclass _ yd _
  | .mstat yd => [.y yd]
  | .vadd _ _ vd _ _ | .vsub _ _ vd _ _ | .vmul _ _ vd _ _ | .vmulh _ _ vd _ _ | .vmin _ _ vd _ _ | .vmax _ _ vd _ _
  | .vabs _ _ vd _ | .vand _ _ vd _ _ | .vor _ _ vd _ _ | .vxor _ _ vd _ _ | .vsll _ _ vd _ _ | .vsrl _ _ vd _ _
  | .vsra _ _ vd _ _ | .vsel _ _ vd _ _ | .vfadd _ _ vd _ _ | .vfsub _ _ vd _ _ | .vfmul _ _ vd _ _ | .vfma _ _ vd _ _
  | .vfms _ _ vd _ _ | .vfmin _ _ vd _ _ | .vfmax _ _ vd _ _ | .vfabs _ _ vd _ | .vfneg _ _ vd _ | .vrsqrt _ _ vd _
  | .vrecip _ _ vd _ | .vsqrt _ _ vd _ | .vexp2 _ _ vd _ | .vperm _ _ vd _ _ | .vshuf _ _ vd _ _ | .vbcast _ _ vd _ _
  | .vslideup _ _ vd _ _ | .vslidedn _ _ vd _ _ | .vzip _ _ vd _ _ | .vunzip _ _ vd _ _ | .vcvt _ _ _ _ vd _
  | .vpack _ _ vd _ _ | .vwiden _ _ vd _ _ | .vredsum _ _ vd _ | .vredmax _ _ vd _ | .vredmin _ _ vd _ | .vinsy _ vd _ _
  | .vsplat _ _ vd _ => [.v vd]
  | .vcmpeq _ _ md _ _ | .vcmplt _ _ md _ _ | .vfcmpeq _ _ md _ _ | .vfcmplt _ _ md _ _ | .vfcmple _ _ md _ _ | .mand md _ _
  | .mor md _ _ | .mxor md _ _ | .mnot md _ => [.m md]
  | .pbr jd _ => [.j jd]
  | .loop lvl _ _ | .loopi lvl _ _ | .lclr lvl => [.loop lvl]
  | .next rd => [.x rd, .x (rd + 1)]
  | .mfs (.x rd) _ => [.x rd]
  | .mfs (.y yd) _ => [.y yd]
  | _ => []

/-- The value a register of tile t holds, little-endian; of a port, the value pushed last. -/
def Tile.dstBytes (t : Tile) : Dst → List Byte
  | .x r => leBytes 8 (if r = 28 then t.regs.qax0.getLastD 0 else if r = 29 then t.regs.qax1.getLastD 0 else t.xval r).toNat
  | .y r => leBytes 8 (if r = 12 then t.regs.qxa0.getLastD 0 else if r = 13 then t.regs.qxa1.getLastD 0 else t.yval r).toNat
  | .v r => leBytes 64 (t.vval r).toNat
  | .m r => leBytes 8 (t.mval r).toNat
  | .j r => leBytes 8 (t.jval r).toNat
  | .loop l => let r := t.regs.loop.get l; leBytes 8 r.lc.toNat ++ leBytes 8 r.ls.toNat ++ leBytes 8 r.le.toNat

/-- The values that an instruction has written to registers; a register whose load or AMO is outstanding has none yet. -/
def Tile.wroteBytes (t : Tile) (i : Instr) : List Byte :=
  if t.fe.flow == .wait then []
  else (dests i).flatMap fun d => match d with
    | .x r => if t.busy r then [] else t.dstBytes d
    | .y _ | .v _ | .m _ | .j _ | .loop _ => t.dstBytes d

/-- The address and the bytes of a scalar store from an x register. -/
def Tile.storedX (t : Tile) (rs2 rs1 : XReg) (imm : BitVec 12) (n : Nat) : List Byte :=
  let a := t.popX rs1
  leBytes 8 (a.1 + imm.signExtend 64).toNat ++ leBytes n (a.2.popX rs2).1.toNat

/-- The part of a split store whose X part has run at once, as far as its bytes go. -/
def Tile.splitPart (t : Tile) : Instr → Option XPart
  | .sbY ys rs1 imm => some (.storeY ys 1 ((t.popX rs1).1 + imm.signExtend 64) 0 .self 0)
  | .shY ys rs1 imm => some (.storeY ys 2 ((t.popX rs1).1 + imm.signExtend 64) 0 .self 0)
  | .swY ys rs1 imm => some (.storeY ys 4 ((t.popX rs1).1 + imm.signExtend 64) 0 .self 0)
  | .sdY ys rs1 imm => some (.storeY ys 8 ((t.popX rs1).1 + imm.signExtend 64) 0 .self 0)
  | .vst ty vm vs rs1 imm => some (.storeV vs (t.vacc ((t.popX rs1).1 + imm.signExtend 64 * 64) ty vm .unit 0) .self)
  | .vsts ty vm vs rs1 rs2 =>
    let a := t.popX rs1
    some (.storeV vs (t.vacc a.1 ty vm (.stride (a.2.popX rs2).1.toInt) 0) .self)
  | .vscatter ty vm vs rs1 vs2 => some (.storeV vs (t.vacc (t.popX rs1).1 ty vm (.index vs2) 0) .self)
  | .lbY yd .. | .lhY yd .. | .lwY yd .. | .ldY yd .. | .lbuY yd .. | .lhuY yd .. | .lwuY yd .. => some (.loadY yd 8 false none none)
  | .vld ty vm vd .. | .vldb ty vm vd .. => some (.loadV vd (t.vacc 0 ty vm .unit 0) none)
  | .vlds ty vm vd .. => some (.loadV vd (t.vacc 0 ty vm .unit 0) none)
  | .vgather ty vm vd .. => some (.loadV vd (t.vacc 0 ty vm .unit 0) none)
  | _ => none

/-- What an X part that has run covers: a load's register as it is after it, a store's addresses and bytes as its sources were before it. -/
def xpartBytes (before after : Tile) : XPart → List Byte
  | .loadY yd .. => after.delivered.dstBytes (.y yd)
  | .loadV vd .. => after.delivered.dstBytes (.v vd)
  | .storeY ys n va .. => leBytes 8 va.toNat ++ leBytes n (before.popY ys).1.toNat
  | .storeV vs a _ =>
    let w := winOf a.base
    (before.storeLanes vs a w.1 (w.2 - 1) (a.base.toNat % 2 ^ 21)).flatMap fun l =>
      leBytes 8 (a.base.toNat + match l.2.1 with
        | q :: _ => if isSelf a.base then q.off else l.1
        | [] => l.1) ++ leBytes (laneBits a.ty / 8) l.2.2.1

/-- Operands of an envelope command. -/
def EnvOp.operands : EnvOp → List Word
  | .eins _ m c => [m, c]
  | .eld _ a n => [a, BitVec.ofNat 64 n]
  | .est _ a => [a]
  | .eeval _ _ x => [x]
  | .eclr _ | .emax .. | .eadd .. | .einf .. | .econj .. | .ecnt .. => []

/-- The operands of what an instruction pushed to the engines. -/
def pushBytes (a b : Tile) : List Byte :=
  (((b.mx.fifo.drop a.mx.fifo.length).flatMap fun c => [c.addr, c.word]) ++
    ((b.scan.fifo.drop a.scan.fifo.length).flatMap fun c => [c.addr, c.word]) ++
    (b.envq.drop a.envq.length).flatMap fun c => c.op.operands).flatMap fun w => leBytes 8 w.toNat

/-- What an instruction sent in packets and matrix records. -/
def State.sentBytes (s after : State) : List Byte :=
  (after.net.drop s.net.length).flatMap fun f => match f.msg with
    | .packet k => leBytes 8 k.tag.toNat ++ k.data.flatMap fun w => leBytes 8 w.toNat
    | .mcmd _ _ cap c _ => [c.word, c.addr, c.acc.setWidth 64, cap].flatMap fun w => leBytes 8 w.toNat
    | _ => []

/-- The value that a word writes to a special register or a copy register. -/
def Tile.specialBytes (t : Tile) : Instr → List Byte
  | .mts _ (.x r) | .cpset _ r => leBytes 8 (t.popX r).1.toNat
  | .mts _ (.y r) => leBytes 8 (t.popY r).1.toNat
  | _ => []

/-- The address and bytes that a word stores from x registers. -/
def Tile.storeXBytes (t : Tile) : Instr → List Byte
  | .sb rs2 rs1 imm => t.storedX rs2 rs1 imm 1
  | .sh rs2 rs1 imm => t.storedX rs2 rs1 imm 2
  | .sw rs2 rs1 imm => t.storedX rs2 rs1 imm 4
  | .sd rs2 rs1 imm => t.storedX rs2 rs1 imm 8
  | .amoadd _ _ rs1 rs2 | .amoand _ _ rs1 rs2 | .amoor _ _ rs1 rs2 | .amoxor _ _ rs1 rs2 | .amomin _ _ rs1 rs2 | .amomax _ _ rs1 rs2
  | .amoswap _ _ rs1 rs2 | .amocas _ _ rs1 rs2 | .damoadd _ _ rs1 rs2 | .damomin _ _ rs1 rs2 | .damomax _ _ rs1 rs2 => t.storedX rs2 rs1 0 8
  | _ => []

/-- What a touchmark covers of an instruction that has issued: its PC, the values that it wrote, its stores and pushes (R407). -/
def State.wordBytes (s after : State) (i : Instr) : List Byte :=
  let b := after.t
  let n := b.fe.iseq
  let left := b.fe.xq.any (fun x => x.seq == n) || b.fe.xl.any fun o => o.seq == n
  leBytes 8 b.fe.ipc.toNat ++ b.delivered.wroteBytes i ++ s.t.specialBytes i ++ s.t.storeXBytes i ++
  (match s.t.splitPart i with
    | some p => if left then [] else xpartBytes s.t b p
    | none => []) ++ s.sentBytes after ++ pushBytes s.t b

/-- The X parts and loads that a turn has ended. -/
def partsEnded (a b : Tile) : List XPart :=
  (a.fe.xq.filterMap fun x => match x.work with
    | .part p => if b.fe.xq.any (fun y => y.seq == x.seq) || b.fe.xl.any (fun o => o.seq == x.seq) then none else some p
    | _ => none) ++
  a.fe.xl.filterMap fun o => if b.fe.xl.any (fun q => q.seq == o.seq) then none else some o.part

/-- The touchmarks of a pair after a turn of its thread, in which instruction i has issued, or none: both tiles run it; what a silent error adds to
the follower's is free (R405 to R407, log 22). -/
def State.markTurn (s before : State) (i : Option Instr) : State :=
  match s.t.pair.partner with
  | none => s
  | some q =>
    if !s.t.pair.leader then s
    else
      let ran := s.t.fe.iseq != before.t.fe.iseq && s.t.fe.flow != .trap && s.t.fe.flow != .stall
      let word := match i with
        | some i => if ran then before.wordBytes s i else []
        | none => []
      let bs := word ++ (partsEnded before.t s.t).flatMap (xpartBytes before.t s.t)
      let n := if ran then 1 else 0
      let upd := fun (more : List Byte) (t : Tile) =>
        { t with pair := { t.pair with mark := crc64 t.pair.mark (bs ++ more), count := t.pair.count + n } }
      let more := if bs.isEmpty then [] else Config.silentError s.steps
      ((s.onTile s.cur (upd [])).mirror s.cur).onTile q fun u =>
        { upd more u with pair := { (upd more u).pair with count := s.t.pair.count + n } }

end Sys2Proof.Machine
end

