-- ==== Sys2Proof/Machine/Timing.lean ====
section
/-! DEFINITION. Timing: the cycles of an issue and of its result: one instruction of each slice a cycle, the latencies of the classes, the cost of a taken
transfer (R22 to R24, R90, R223, R224, R249, R253, R265). -/

namespace Sys2Proof.Machine

/-! ## Classes (R224) -/

/-- The unit that an instruction holds until it delivers. -/
def unitOf : Instr → Option OneUnit
  | .div .. | .divu .. | .rem .. | .remu .. => some .ad
  | .vrsqrt .. | .vrecip .. | .vsqrt .. | .vexp2 .. | .fdiv .. | .fsqrt .. => some .xs
  | _ => none

/-- Whether lanes are floating-point. -/
def fltTy : LTy → Bool
  | .bf16 | .f32 | .f64 => true
  | .i8 | .i16 | .i32 | .i64 => false

/-- Whether a form is one that can raise flags at its delivery: the classes XF and XS, and float forms of packing, widening and the reductions
(R265, R267, R279, R281). -/
def flagged : Instr → Bool
  | .vfadd .. | .vfsub .. | .vfmul .. | .vfma .. | .vfms .. | .vfmin .. | .vfmax .. | .vfcmpeq .. | .vfcmplt .. | .vfcmple .. | .vcvt .. => true
  | .fadd .. | .fsub .. | .fmul .. | .fdiv .. | .fsqrt .. | .fmin .. | .fmax .. | .fmadd .. | .fcmp .. | .fcvt .. => true
  | .vrsqrt .. | .vrecip .. | .vsqrt .. | .vexp2 .. => true
  | .vpack ty .. | .vwiden ty .. | .vredsum ty .. | .vredmax ty .. | .vredmin ty .. => fltTy ty
  | _ => false

/-- Cycles of an XS form (R224). -/
def xsCycles (ty : LTy) : Nat := if ty = .f64 then 24 else 12
/-- Cycles of a reduction: two a level of its tree for integers, four for floats (R78, R224). -/
def xrCycles (ty : LTy) : Nat :=
  Nat.log2 (lanesOf ty) * (if fltTy ty then 4 else 2)

/-- The latency of an instruction's class, in cycles; an access to the own scratchpad takes one cycle of its bank (R90, R224, R309, R319, R327). -/
def latency : Instr → Nat
  | .mul .. | .mulh .. | .mulhu .. => 3
  | .div .. | .divu .. | .rem .. | .remu .. => 20
  | .lb .. | .lh .. | .lw .. | .ld .. | .lbu .. | .lhu .. | .lwu .. => 5
  | .lbY .. | .lhY .. | .lwY .. | .ldY .. | .lbuY .. | .lhuY .. | .lwuY .. => 5
  | .cpstat .. | .rcv .. | .rcvn .. => 2
  | .next _ => 4
  | .vfadd .. | .vfsub .. | .vfmul .. | .vfma .. | .vfms .. | .vfmin .. | .vfmax .. | .vfabs .. | .vfneg .. | .vfcmpeq .. | .vfcmplt ..
  | .vfcmple .. | .vcvt .. | .fadd .. | .fsub .. | .fmul .. | .fmin .. | .fmax .. | .fmadd .. | .fcmp .. | .fcvt .. | .fclass .. => 4
  | .vrsqrt ty .. | .vrecip ty .. | .vsqrt ty .. | .vexp2 ty .. | .fdiv ty .. | .fsqrt ty .. => xsCycles ty
  | .vredsum ty .. | .vredmax ty .. | .vredmin ty .. => xrCycles ty
  | .vadd .. | .vsub .. | .vmul .. | .vmulh .. | .vmin .. | .vmax .. | .vabs .. | .vand .. | .vor .. | .vxor .. | .vsll .. | .vsrl ..
  | .vsra .. | .vsel .. | .vcmpeq .. | .vcmplt .. | .vperm .. | .vshuf .. | .vbcast .. | .vslideup .. | .vslidedn .. | .vzip .. | .vunzip ..
  | .vpack .. | .vwiden .. | .vinsy .. | .vexty .. | .vsplat .. | .mand .. | .mor .. | .mxor .. | .mnot .. | .mpop .. | .mfirst .. => 2
  | _ => 1

/-- Cycles that the banks take for an access to some places: the most distinct units in one bank (R88, R90). -/
def bankCycles (places : List Nat) : Nat :=
  let us := (places.map (· / 16)).eraseDups
  us.foldl (fun a u => max a (us.countP fun v => v % 64 == u % 64)) 1

/-- The bank cycles of a vector access to the own scratchpad, counted over every unit that it touches (R90, R274). -/
def Tile.vecCycles (t : Tile) (a : VAcc) : Nat :=
  if isSelf a.base then bankCycles (t.vPlaces a) else 1

/-- Registers that an instruction writes later than its issue, when it waits, or when a response or a command of an engine comes: it waits for an
earlier result that is in flight to them (R9, R223). -/
def lateDests : Instr → List Dst
  | .lb rd _ _ | .lh rd _ _ | .lw rd _ _ | .ld rd _ _ | .lbu rd _ _ | .lhu rd _ _ | .lwu rd _ _ => if rd = 28 ∨ rd = 29 then [.x rd] else []
  | .waitv rd _ | .rcv rd _ | .rcvn rd _ => [.x rd]
  | .next rd => [.x rd, .x (rd + 1)]
  | .amoadd _ rd _ _ | .amoand _ rd _ _ | .amoor _ rd _ _ | .amoxor _ rd _ _ | .amomin _ rd _ _ | .amomax _ rd _ _ | .amoswap _ rd _ _
  | .amocas _ rd _ _ | .damoadd _ rd _ _ | .damomin _ rd _ _ | .damomax _ rd _ _ => [.x rd]
  | .ecall => [.x 10]
  | .eeval yd _ _ | .ecnt yd _ => [.y yd]
  | .swait vd => [.v vd]
  | _ => []

/-- Whether a result is in flight to a register or port. -/
def Tile.flying (t : Tile) : Dst → Bool
  | .x r => t.inX r != 0 || t.fe.res.any fun o => o.hasX r
  | .y r => t.inY r != 0 || t.fe.res.any fun o => o.hasY r
  | .v r => t.fe.res.any fun o => o.hasV r
  | .m r => t.fe.res.any fun o => o.hasM r
  | .j _ | .loop _ => false

/-- Whether an instruction has to wait for a result in flight that no source of it names: a second of the class AD or XS for the first, one that writes its
register late for an earlier write (R224). -/
def Tile.clash (t : Tile) (i : Instr) : Bool :=
  ((unitOf i).isSome && t.fe.res.any fun o => o.unit == unitOf i) || (lateDests i).any t.flying

/-! ## Results in flight -/

/-- What an instruction has written to a register or a port with `lat` cycles of latency, and the tile in which that is not yet to be seen; a result of one
cycle is in its register before any reader issues, and in a port a cycle later (R24, R223). -/
def Tile.hide (before : Tile) (lat : Nat) (u : Tile) : Dst → List Write × Tile
  | .x r =>
    if r = 28 then ((u.regs.qax0.drop before.regs.qax0.length).map (.portX r), { u with regs := { u.regs with qax0 := before.regs.qax0 } })
    else if r = 29 then ((u.regs.qax1.drop before.regs.qax1.length).map (.portX r), { u with regs := { u.regs with qax1 := before.regs.qax1 } })
    else if lat ≤ 1 ∨ r = 0 ∨ u.busy r then ([], u)
    else ([.x r (u.xval r)], u.putX r (before.xval r))
  | .y r =>
    if r = 12 then ((u.regs.qxa0.drop before.regs.qxa0.length).map (.portY r), { u with regs := { u.regs with qxa0 := before.regs.qxa0 } })
    else if r = 13 then ((u.regs.qxa1.drop before.regs.qxa1.length).map (.portY r), { u with regs := { u.regs with qxa1 := before.regs.qxa1 } })
    else if lat ≤ 1 ∨ r = 0 then ([], u)
    else ([.y r (u.yval r)], u.putY r (before.yval r))
  | .v r => if lat ≤ 1 then ([], u) else ([.v r (u.vval r)], u.putV r (before.vval r))
  | .m r => if lat ≤ 1 ∨ r = 0 then ([], u) else ([.m r (u.mval r)], u.putM r (before.mval r))
  | .j _ | .loop _ => ([], u)

/-- Whether two writes enter the same port. -/
def Write.samePort : Write → Write → Bool
  | .portX a _, .portX b _ => a == b
  | .portY a _, .portY b _ => a == b
  | _, _ => false

/-- The tick of delivery: entries leave a port in the program order of its producer (R222). -/
def Tile.dueFor (t : Tile) (ws : List Write) (due : Nat) : Nat :=
  (t.fe.res.filter fun o => o.writes.any fun a => ws.any a.samePort).foldl (fun m o => max m o.due) due

/-- The writes of a word that has issued, whose result comes `lat` cycles on, are in flight (R223, R265). -/
def Tile.fly (u before : Tile) (ds : List Dst) (lat due : Nat) (fl : Bool) (unit : Option OneUnit) : Tile :=
  let r := ds.foldl (fun (a : List Write × Tile) d => (a.1 ++ (Tile.hide before lat a.2 d).1, (Tile.hide before lat a.2 d).2)) ([], u)
  let more := if lat ≤ 1 then 0 else r.2.ur.fflags &&& ~~~before.ur.fflags
  if r.1.isEmpty && more == 0 && !fl && unit.isNone then r.2
  else { r.2 with
    ur := { r.2.ur with fflags := if lat ≤ 1 then r.2.ur.fflags else before.ur.fflags }
    fe := { r.2.fe with res := r.2.fe.res ++ [⟨u.fe.iseq, r.1, more, fl, unit, u.dueFor r.1 due⟩] } }

/-- The register of a split load of the own scratchpad. -/
def splitDst : XPart → Option Dst
  | .loadY yd .. => some (.y yd)
  | .loadV vd .. => some (.v vd)
  | .storeY .. | .storeV .. => none
/-- Whether the data of a split load raises flags when it is converted (R271). -/
def XPart.flagged (p : XPart) : Bool :=
  match p with
  | .loadV _ a _ => (winOf a.base).1 != 0
  | .loadY .. | .storeY .. | .storeV .. => false

/-- An X part that has moved its data delivers it at the later of two points: the latency of its A part, which an entry without writes counts, and two
cycles after its own issue for a vector (R23, R224, R274). One whose data is outstanding writes its register when that comes. -/
def Tile.flyPart (u before : Tile) (n : Nat) (p : XPart) (tick : Nat) (pat : BitVec 16) : Tile :=
  match splitDst p with
  | none => u
  | some d =>
    if u.fe.xl.any fun o => o.seq == n then u else
    let lat := match p with
      | .loadV _ a _ => if a.vm != 0 || (match a.form with
          | .index _ => true
          | _ => false) then 4 + before.vecCycles a else 2
      | _ => 1
    let floor := (before.fe.res.filter fun o => o.seq == n).foldl (fun m o => max m o.due) (nthSlot pat tick lat)
    let w := { u with fe := { u.fe with iseq := n } }.fly before [d] 2 floor p.flagged none
    { w with fe := { w.fe with iseq := u.fe.iseq } }

/-! ## What an issue costs -/

/-- Further cycles in which fetch stands still after a transfer that is taken (R249, R250, R253, R255, R332). -/
def Tile.transferCost (t : Tile) : Instr → Nat
  | .beq .. | .bne .. | .blt .. | .bge .. | .bltu .. | .bgeu .. | .jal .. | .jalr .. | .loop .. | .loopi .. | .eret => 3
  | .bj j | .bjz j _ | .bjnz j _ => (match t.fe.jat[j.toNat]'j.isLt with
    | some k => if k + 4 ≤ t.fe.an then 0 else 3
    | none => 0)
  | _ => 0

/-- The j register that an instruction writes. -/
def jDst : Instr → Option JReg
  | .pbr jd _ => some jd
  | .mts n (.x _) => (match sprOf n.toNat with
    | some (.j r) => some r
    | _ => none)
  | _ => none

/-- A word of A that has issued: A issues the next one in a later cycle, and fetch stands still after a taken transfer. -/
def Tile.countA (u before : Tile) (i : Instr) (tick : Nat) (pat : BitVec 16) : Tile :=
  let k := if u.fe.flow = .jump then before.transferCost i else 0
  { u with fe := { u.fe with
    aAt := tick + 1
    an := before.fe.an + 1
    fAt := if k = 0 then u.fe.fAt else nthSlot pat tick (k + 1)
    jat := match jDst i with
      | some j => u.fe.jat.set j.toNat (some before.fe.an) j.isLt
      | none => u.fe.jat } }
/-- A word or part of X that has issued. -/
def Tile.countX (u : Tile) (tick : Nat) : Tile := { u with fe := { u.fe with xAt := tick + 1 } }

/-- The tile after the issue of a word: what the word has written is in flight, and its slice has issued in this cycle (R22, R223). A split load of the own
scratchpad whose X part has still to issue leaves an entry that counts the latency of its A part. -/
def State.afterIssue (s : State) (u before : Tile) (i : Instr) (x : Bool) : Tile :=
  let pat := (s.clkpat s.cur).setWidth 16
  let lat := match before.splitPart i with
    | some (.loadV _ a _) => 4 + before.vecCycles a
    | _ => latency i
  let due := nthSlot pat s.tick lat
  let u := if x then u.countX s.tick else u.countA before i s.tick pat
  match before.splitPart i with
  | none => u.fly before (dests i) (latency i) due (flagged i) (unitOf i)
  | some p =>
    match splitDst p with
    | none => if u.fe.xq.any fun o => o.seq == u.fe.iseq then u else u.countX s.tick
    | some d =>
      if u.fe.xl.any fun o => o.seq == u.fe.iseq then u.countX s.tick
      else if u.fe.xq.any fun o => o.seq == u.fe.iseq then
        { u with fe := { u.fe with res := u.fe.res ++ [⟨u.fe.iseq, [], 0, false, none, due⟩] } }
      else (u.countX s.tick).fly before [d] 2 due p.flagged none

end Sys2Proof.Machine
end

