-- ==== Sys2Proof/Machine/Issue.lean ====
section
/-! DEFINITION. Issue: fetch, the division of the word stream into slices, issue in each slice's order, drained traps and
interrupts (R22, R23, R220, R354, R355), and the setting that lets the next step fetch a given word. -/

namespace Sys2Proof.Machine

/-! ## Kinds of words -/

/-- Whether a register number names a hardware loop register. -/
def loopSpr (n : BitVec 12) : Bool := 0x020 ≤ n.toNat && n.toNat ≤ 0x025

/-- A words that redirect or stop fetch, or whose effect on the loop registers fetch must see: they are never read ahead. -/
def steers : Instr → Bool
  | .beq .. | .bne .. | .blt .. | .bge .. | .bltu .. | .bgeu .. | .jal .. | .jalr .. => true
  | .bj _ | .bjz .. | .bjnz .. | .loop .. | .loopi .. | .lclr _ => true
  | .mts n (.x _) => loopSpr n
  | .wait | .waitv .. | .ecall | .eret | .brk | .idle | .halt | .frameinv _ | .next _ => true
  | _ => false

/-- Those of them that fetch may pass while A waits for a port, which a word behind them may serve: they redirect nothing (R22, R24). -/
def passable : Instr → Bool
  | .wait | .waitv .. | .idle | .frameinv _ | .mts _ (.x _) => true
  | _ => false

/-- X words with a trap point at their issue (R354). -/
def trapPoint : Instr → Bool
  | .mcfg _ | .mldb .. | .mma .. | .mscale .. | .mrdacc .. | .mwracc .. | .mcmd _ => true
  | .eld .. | .est .. | .eins .. | .emax .. | .eadd .. | .einf .. | .econj .. | .eeval .. => true
  | .slocal .. | .spass _ | .sapply .. | .sclose | .scfg _ | .swait _ => true
  | .mfs (.y _) _ | .mts _ (.y _) => true
  | _ => false

/-- X words whose whole effect is on y, v and m registers, FFLAGS and ports, so that it can be undone (R354, log 10). -/
def undoable : Instr → Bool
  | .mstat _ => false
  | .mts n (.y _) => n == 0x008
  | i => (dests i).any fun d => match d with
    | .y _ | .v _ | .m _ => true
    | .x _ | .j _ | .loop _ => false

/-- X words at which the thread waits: they never go ahead of A (R45, R125). -/
def parks : Instr → Bool
  | .swait _ => true
  | _ => false

/-- Split words (R221): they take a place in both queues. -/
def splits : Instr → Bool
  | .lbY .. | .lhY .. | .lwY .. | .ldY .. | .lbuY .. | .lhuY .. | .lwuY .. | .sbY .. | .shY .. | .swY .. | .sdY .. => true
  | .vld .. | .vst .. | .vlds .. | .vsts .. | .vgather .. | .vscatter .. | .vldb .. => true
  | _ => false

/-! ## The interlock of v registers (R223) -/

/-- A destination under a mask keeps its old value in part. -/
def maskDst (vm : MReg) (vd : VReg) : List VReg := if vm = 0 then [] else [vd]

/-- The v registers whose values an X word needs: its sources, and a destination that it keeps in part. -/
def vSrcs : Instr → List VReg
  | .vadd _ vm vd a b | .vsub _ vm vd a b | .vmul _ vm vd a b | .vmulh _ vm vd a b | .vmin _ vm vd a b | .vmax _ vm vd a b
  | .vand _ vm vd a b | .vor _ vm vd a b | .vxor _ vm vd a b | .vsll _ vm vd a b | .vsrl _ vm vd a b | .vsra _ vm vd a b
  | .vfadd _ vm vd a b | .vfsub _ vm vd a b | .vfmul _ vm vd a b | .vfmin _ vm vd a b | .vfmax _ vm vd a b
  | .vperm _ vm vd a b | .vzip _ vm vd a b | .vunzip _ vm vd a b | .vpack _ vm vd a b => a :: b :: maskDst vm vd
  | .vsel _ _ _ a b => [a, b]
  | .vfma _ _ vd a b | .vfms _ _ vd a b | .vshuf _ _ vd a b => [vd, a, b]
  | .vcmpeq _ _ _ a b | .vcmplt _ _ _ a b | .vfcmpeq _ _ _ a b | .vfcmplt _ _ _ a b | .vfcmple _ _ _ a b => [a, b]
  | .vabs _ vm vd a | .vfabs _ vm vd a | .vfneg _ vm vd a | .vrsqrt _ vm vd a | .vrecip _ vm vd a | .vsqrt _ vm vd a
  | .vexp2 _ vm vd a | .vwiden _ vm vd a _ | .vbcast _ vm vd a _ => a :: maskDst vm vd
  | .vslideup _ _ vd a _ | .vslidedn _ _ vd a _ => [vd, a]
  | .vredsum _ _ _ a | .vredmax _ _ _ a | .vredmin _ _ _ a | .vcvt _ _ _ _ _ a | .vexty _ _ a _ => [a]
  | .vsplat _ vm vd _ => maskDst vm vd
  | .vinsy _ vd _ _ => [vd]
  | _ => []

/-- The v register that an X word writes whole. -/
def vDst : Instr → Option VReg
  | .vadd _ vm vd _ _ | .vsub _ vm vd _ _ | .vmul _ vm vd _ _ | .vmulh _ vm vd _ _ | .vmin _ vm vd _ _ | .vmax _ vm vd _ _
  | .vand _ vm vd _ _ | .vor _ vm vd _ _ | .vxor _ vm vd _ _ | .vsll _ vm vd _ _ | .vsrl _ vm vd _ _ | .vsra _ vm vd _ _
  | .vfadd _ vm vd _ _ | .vfsub _ vm vd _ _ | .vfmul _ vm vd _ _ | .vfmin _ vm vd _ _ | .vfmax _ vm vd _ _
  | .vperm _ vm vd _ _ | .vzip _ vm vd _ _ | .vunzip _ vm vd _ _ | .vpack _ vm vd _ _ => if vm = 0 then some vd else none
  | .vabs _ vm vd _ | .vfabs _ vm vd _ | .vfneg _ vm vd _ | .vrsqrt _ vm vd _ | .vrecip _ vm vd _ | .vsqrt _ vm vd _
  | .vexp2 _ vm vd _ | .vwiden _ vm vd _ _ | .vbcast _ vm vd _ _ | .vsplat _ vm vd _ => if vm = 0 then some vd else none
  | .vsel _ _ vd _ _ | .vredsum _ _ vd _ | .vredmax _ _ vd _ | .vredmin _ _ vd _ | .vcvt _ _ _ _ vd _ | .swait vd => some vd
  | _ => none

/-- The mask registers whose values an X word needs (R49, R223). -/
def mSrcs : Instr → List MReg
  | .vadd _ vm .. | .vsub _ vm .. | .vmul _ vm .. | .vmulh _ vm .. | .vmin _ vm .. | .vmax _ vm .. | .vabs _ vm .. | .vand _ vm ..
  | .vor _ vm .. | .vxor _ vm .. | .vsll _ vm .. | .vsrl _ vm .. | .vsra _ vm .. | .vsel _ vm .. | .vfadd _ vm .. | .vfsub _ vm ..
  | .vfmul _ vm .. | .vfma _ vm .. | .vfms _ vm .. | .vfmin _ vm .. | .vfmax _ vm .. | .vfabs _ vm .. | .vfneg _ vm .. | .vrsqrt _ vm ..
  | .vrecip _ vm .. | .vsqrt _ vm .. | .vexp2 _ vm .. | .vperm _ vm .. | .vshuf _ vm .. | .vbcast _ vm .. | .vslideup _ vm ..
  | .vslidedn _ vm .. | .vzip _ vm .. | .vunzip _ vm .. | .vpack _ vm .. | .vwiden _ vm .. | .vredsum _ vm .. | .vredmax _ vm ..
  | .vredmin _ vm .. | .vsplat _ vm .. => [vm]
  | .vcmpeq _ vm md .. | .vcmplt _ vm md .. | .vfcmpeq _ vm md .. | .vfcmplt _ vm md .. | .vfcmple _ vm md .. => [vm, md]
  | .mand _ a b | .mor _ a b | .mxor _ a b => [a, b]
  | .mnot _ a | .mpop _ a | .mfirst _ a => [a]
  | _ => []

/-- Whether a word reads or writes FFLAGS whole: the flags of what has issued before it may still be to come (R265, R271). -/
def flagsWhole : Instr → Bool
  | .mfs (.y _) n => n == 0x008
  | .mts n (.y _) => n == 0x008
  | _ => false
/-- Whether flags are still to come: of a form in flight, or of a vector load that converts (R265, R271). -/
def Tile.flagsToCome (t : Tile) : Bool := t.fe.res.any (·.flagged) || t.fe.xl.any fun o => o.part.flagged

/-- Whether an X word waits for a result that is outstanding or in flight (R223). -/
def Tile.vHeld (t : Tile) (i : Instr) : Bool :=
  (vSrcs i).any t.awaitsV || (mSrcs i).any t.awaitsM || (flagsWhole i && t.flagsToCome) || t.clash i
/-- An X word that has had its effect overwrites what a load, or an earlier result in flight, had still to write to its v or mask register (R223, R246). -/
def Tile.vOver (t : Tile) (i : Instr) : Tile :=
  let u := match vDst i with
    | some vd => t.dropV vd
    | none => t
  (dests i).foldl (fun u d => match d with
    | .m md => u.dropM md
    | .x _ | .y _ | .v _ | .j _ | .loop _ => u) u

/-! ## One issue -/

/-- Sets the executing word. -/
def Tile.at (t : Tile) (pc : Word) (seq : Nat) (l : Loops) : Tile :=
  { t with fe := { t.fe with ipc := pc, iseq := seq, loops := l, flow := .seq } }

/-- The state in which a queue entry's word executes. -/
def State.atSlot (s : State) (x : Slot) (f : Fetch → Fetch) : State :=
  let u := s.t.at x.pc x.seq x.loops
  s.setT { u with fe := f u.fe }

/-- Whether an X word would read a port early that a pending DAMO is to fill (R116): with nothing in its ports it traps. -/
def State.early (s : State) (x : Slot) (i : Instr) : Bool :=
  let t := s.t
  if t.damos.isEmpty || !t.user then false
  else
    let s1 := s.setT { t with regs := { t.regs with qax0 := [], qax1 := [] } }
    match exec i (s1.atSlot x id) with
    | .next s2 => s2.t.fe.flow == .trap
    | _ => false

/-- Whether an X entry may still trap: R354's points, and a port read that a pending DAMO would fill (R116). -/
def State.mayTrap (s : State) (x : Slot) : Bool :=
  match x.work with
  | .word i => trapPoint i || s.early x i
  | .part _ | .split | .push .. => false

/-- Whether A waits at the horizon of R354 for the word with number n. -/
def State.horizon (s : State) (n : Nat) : Bool :=
  s.t.fe.xq.any (fun x => x.seq < n && s.mayTrap x) || s.t.envq.any (fun c => c.seq < n && c.op.holdsX)

/-- A words that take no trap, whatever they read, while no register is pending (R240, R243, R252, R309). -/
def calm : Instr → Bool
  | .add .. | .sub .. | .and .. | .or .. | .xor .. | .sll .. | .srl .. | .sra .. | .slt .. | .sltu .. | .min .. | .max .. => true
  | .minu .. | .maxu .. | .mul .. | .mulh .. | .mulhu .. | .div .. | .divu .. | .rem .. | .remu .. | .sel .. => true
  | .clz .. | .ctz .. | .cnt .. | .addw .. | .subw .. | .sllw .. | .srlw .. | .sraw .. => true
  | .addi .. | .slti .. | .sltiu .. | .xori .. | .ori .. | .andi .. | .addiw .. | .slli .. | .srli .. | .srai .. => true
  | .lui .. | .auipc .. | .pbr .. | .cpset .. => true
  | _ => false

/-- A tile whose ports hold what A may wait for. -/
def Tile.portsForA (t : Tile) : Tile :=
  { t with regs := { t.regs with qxa0 := t.regs.qxa0 ++ [0, 0, 0], qxa1 := t.regs.qxa1 ++ [0, 0, 0], qax0 := [], qax1 := [] } }
/-- A tile whose ports hold what X may wait for. -/
def Tile.portsForX (t : Tile) : Tile :=
  { t with regs := { t.regs with qax0 := t.regs.qax0 ++ [0, 0, 0], qax1 := t.regs.qax1 ++ [0, 0, 0], qxa0 := [], qxa1 := [] } }

/-- Whether a word at its place is held as things are, with nothing done. -/
def State.heldAt (s : State) (x : Slot) (i : Instr) (f : Fetch → Fetch) : Bool :=
  match exec i (s.atSlot x f) with
  | .next s2 => s2.t.fe.flow == .hold
  | _ => false

/-- Whether a word at its place is held by a port that it names and by nothing else. -/
def State.heldByPort (s : State) (x : Slot) (i : Instr) (f : Fetch → Fetch) : Bool :=
  s.heldAt x i f && !(s.setT s.t.portsForA).heldAt x i f

/-- Whether the first A word that has not issued waits for a queue port alone, which a later X word may fill or drain (R24). -/
def State.portWait (s : State) : Bool :=
  match s.t.fe.aq with
  | [] => false
  | x :: rest =>
    match x.work with
    | .part _ | .split => false
    | .push rd _ => s.t.portFull rd
    | .word i => s.heldByPort x i fun fe => { fe with aq := rest }

/-- Whether X may issue the word of entry x now. It goes ahead of A words that can take no trap; and, where the first of them waits for a port alone, ahead
of any, if what it does can be undone should one of them trap: an empty or full port stalls only its own slice, and a trap finds no later effect made (R22,
R24, R354; log 10). No data of a split load and no result of an envelope command may then be outstanding. -/
def State.xMay (s : State) (x : Slot) : Bool :=
  let t := s.t
  let before := t.fe.aq.filter fun a => a.seq < x.seq
  before.isEmpty || (match x.work with
    | .word i => !parks i && t.fe.xl.isEmpty && (t.envq.all fun c => match c.op with
        | .ecnt .. | .eeval .. => false
        | _ => true) &&
      ((t.damos.isEmpty && before.all fun a => match a.work with
        | .word j => calm j
        | .push .. => true
        | .part _ | .split => false) || (undoable i && s.portWait))
    | .part _ | .split | .push .. => true)

/-- What the X word of place n found, which has changed `old` into `new`. -/
def Before.of (old new : Tile) : Before :=
  { y := old.delivered.regs.y, v := old.delivered.regs.v, m := old.delivered.regs.m, fflags := old.delivered.ur.fflags
    pop0 := old.regs.qax0.take (old.regs.qax0.length - new.regs.qax0.length)
    pop1 := old.regs.qax1.take (old.regs.qax1.length - new.regs.qax1.length)
    push0 := new.regs.qxa0.length - old.regs.qxa0.length
    push1 := new.regs.qxa1.length - old.regs.qxa1.length }

/-- X notes a word that it issues ahead of A (R22, R354). -/
def Tile.note (t before : Tile) (i : Instr) (n : Nat) (pc : Word) : Tile :=
  let k := t.fe.ahead.filter fun a => decide (before.nextA < a.seq)
  { t with fe := { t.fe with
    ahead := if before.nextA < n then k ++ [⟨n, pc, if undoable i then some (.of before t) else none⟩] else k } }

/-- The tile after the issue of an X word of place n. -/
def State.afterX (s : State) (before : Tile) (i : Instr) (n : Nat) (pc : Word) : Tile :=
  s.afterIssue ((s.t.vOver i).note before i n pc) before i true

/-! ## Vector accesses of several units (R97, R272) -/

/-- Whether nothing else could touch the scratchpad of the current tile now: no network item, no other thread, no copy, no command of an engine. -/
def State.alone (s : State) : Bool :=
  let t := s.t
  s.net.isEmpty && (s.tiles.all fun e => e.1 == s.cur || e.2.gang.isNone) && t.copies.isEmpty && t.mx.run.isNone && t.mx.fifo.isEmpty &&
  t.mx.remote.isEmpty && t.scan.run.isNone && t.scan.fifo.isEmpty && t.envq.isEmpty

/-- Vector memory words. -/
def vecMem : Instr → Bool
  | .vld .. | .vst .. | .vlds .. | .vsts .. | .vgather .. | .vscatter .. | .vldb .. => true
  | _ => false

/-- A load of the own scratchpad that stands with some of its units read; none for another part. -/
def XPart.reading : XPart → Option (VReg × VAcc)
  | .loadV vd a none => if a.got.isEmpty then none else some (vd, a)
  | _ => none
/-- A load of the own scratchpad that has touched some further units: with nothing left it has its data. -/
def Tile.readOn (t : Tile) (seed : Nat) (vd : VReg) (a : VAcc) : XPart :=
  let got := t.readUnits seed (t.vPlaces a) a.got
  if (leftOf (t.vPlaces a) got).isEmpty then .loadV vd a (some (t.readLanes a)) else .loadV vd { a with got := got } none
/-- The loads that stand so touch further units: before any later access of the thread they have their data (R98, R272). -/
def State.readTurn (s : State) : Option Out :=
  let t := s.t
  let on := fun (x : Slot) => match x.work with
    | .part p => p.reading
    | .word _ | .split | .push .. => none
  if t.fe.xq.any fun x => (on x).isSome then
    some (.next (s.setT { t with fe := { t.fe with xq := t.fe.xq.map fun x => match on x with
      | some (vd, a) => { x with work := .part (t.readOn s.steps vd a) }
      | none => x } }))
  else none

/-- The X part of a vector access to the own scratchpad touches some of its 16 B units: the part as it then stands, and the tile; none when it touches all
that are left, or is no such part (R97, R272). -/
def State.partUnits (s : State) (p : XPart) : Option (XPart × Tile) :=
  let t := s.t
  if s.alone then none
  else match p with
  | .loadV vd a none =>
    if !isSelf a.base then none else match t.readOn s.steps vd a with
    | .loadV vd a none => some (.loadV vd a none, t)
    | _ => none
  | .storeV vs a .self =>
    match region a.base with
    | some (.self _ _ span _) =>
      let at' := fun (w : Piece × Nat) => placeOf span a.bhkey w.1.off
      let ws := t.storeLeft vs a
      let now := ws.filter fun w => touchesNow s.steps (ws.map at') (at' w)
      if now.length = ws.length then none
      else some (.storeV vs { a with done := a.done ++ (now.map fun w => at' w / 16).eraseDups } .self, t.spadPieces span a.bhkey now)
    | _ => none
  | _ => none

/-- A word of A executes. The X part of a vector access that others could see between its units takes its place in the X issue queue, and a load may have
touched some of its units only (R97, R272). -/
def State.execA (s : State) (i : Instr) : Out :=
  if !vecMem i || s.alone then exec i s
  else
    let t := s.t
    let n := t.fe.iseq
    let mark : List Slot := if t.fe.xq.isEmpty then [⟨n + 1, t.fe.ipc, t.fe.loops, .split⟩] else []
    match exec i (s.setT { t with fe := { t.fe with xq := t.fe.xq ++ mark } }) with
    | .next s2 =>
      let u := s2.t
      let xq := if mark.isEmpty then u.fe.xq else u.fe.xq.filter fun x => x.seq != n + 1
      .next (s2.setT { u with fe := { u.fe with xq := xq.map fun x => match x.work with
        | .part (.loadV vd a (some _)) => if x.seq == n && isSelf a.base then { x with work := .part (u.readOn s.steps vd a) } else x
        | _ => x } })
    | o => o

/-- X issues the head of its queue, one in a cycle; none when it cannot yet. After an X part the effects behind it follow (R22, R100, R107). A trap waits
until the A words before it have issued (R355). -/
def State.issueX (s : State) : Option Out :=
  let t := s.t
  match t.fe.xq with
  | [] => none
  | x :: rest =>
    if t.envq.any (fun c => c.op.holdsX) || decide (s.tick < t.fe.xAt) then none
    else
      let s1 := s.atSlot x fun fe => { fe with xq := rest }
      match x.work with
      | .split | .push .. => none
      | .part p => if t.partHeld p then none else
        match s.partUnits p with
        | some (q, u) => some (.next (s.setT { u with fe := { u.fe with xq := { x with work := .part q } :: rest } }))
        | none => (s1.issuePart State.runPartV x.seq p).map fun u =>
          .next (u.setT ((u.t.flyPart t x.seq p s.tick ((s.clkpat s.cur).setWidth 16)).countX s.tick)).flushLate
      | .word i =>
        if !s.xMay x || t.vHeld i then none
        else match exec i s1 with
          | .next s2 =>
            (match s2.t.fe.flow with
            | .hold => none
            | .trap => if t.drained x.seq && decide (x.seq < t.nextA) then some (.next s2) else none
            | .wait => some (.next (s2.setT (s2.t.vOver i)))
            | _ => some (.next (s2.setT (s2.afterX t i x.seq x.pc))))
          | o => some o

/-- Data that has come for an issued split load is written to its register (R23). -/
def State.landX (s : State) : Option Out := (s.t.fe.xl.findSome? s.t.landLoad).map fun t => .next (s.setT t)

/-- Words that fetch has read behind the entry x are discarded, and x is fetched next: what the X words among them have done is undone, and those of which
that is not possible are not executed again (R22, R354). -/
def Tile.refetch (t : Tile) (x : Slot) : Tile :=
  let r := t.rewind x.seq
  { r.1 with
    regs := { r.1.regs with loop := x.loops }
    fe := { r.1.fe with
      pc := x.pc, seq := x.seq, aq := [], xq := t.fe.xq.filter (fun e => decide (e.seq < x.seq)), ahead := []
      skip := t.fe.skip ++ r.2.map fun a => ⟨t.mode, x.pc, a.pc⟩ } }

/-- A issues the head of the words that fetch holds for it. A word that stalls or waits stays there; one that steers fetch is fetched
again when it may issue. -/
def State.issueA (s : State) : Option Out :=
  let t := s.t
  match t.fe.aq with
  | [] => none
  | x :: rest =>
    if s.horizon x.seq then none
    else match x.work with
      | .part _ | .split => none
      | .push rd v => if t.portFull rd then none else some (.next (s.setT ({ t with fe := { t.fe with aq := rest } }.putX rd v)))
      | .word i =>
        if s.tick < t.fe.aAt ∨ t.clash i then none
        else if steers i then (if s.heldAt x i fun fe => { fe with aq := rest } then none else some (.next (s.setT (t.refetch x))))
        else match (s.atSlot x fun fe => { fe with aq := rest }).execA i with
        | .next s2 =>
          match s2.t.fe.flow with
          | .hold => none
          | .trap => if t.drained x.seq then some (.next s2) else none
          | .stall | .wait => some (.next (s2.setT { s2.t with fe := { s2.t.fe with aq := t.fe.aq } }))
          | _ => some (.next (s2.setT (s2.afterIssue s2.t t i false)))
        | o => some o

/-- The word at an address, translated for fetch, from committed memory; none is the fetch fault of R251. -/
def State.fetchWord (s : State) (t : Tile) (pc : Word) : Option IWord × List TlbEnt :=
  match region pc with
  | some (.global va) =>
    match s.translate t va .fetch t.user with
    | (.ok pa, tlb) =>
      (some (BitVec.ofNat 32 (leNat ((List.range 4).map fun i => s.committed (s.gangOf t) (pa + i)))), tlb)
    | (.error _, tlb) => (none, tlb)
  | _ => (none, t.tlb)

/-- A trap of the word at pc, once every earlier instruction has issued and none of them can still trap (R220, R251, R354). -/
def State.trapAt (s : State) (c : Cause) : Option Out :=
  let t := s.t
  if t.fe.aq.isEmpty && t.drained t.fe.seq && t.holding.isNone then some (.next (s.setT ((t.at t.fe.pc t.fe.seq t.regs.loop).trap c))) else none

/-- A fetched word waits in a queue, a split word in both; fetch passes it (R22, R221, R256). -/
def Tile.defer (t : Tile) (i : Instr) (x : Bool) : Tile :=
  let sl : Slot := ⟨t.fe.seq, t.fe.pc, t.regs.loop, .word i⟩
  let fe := { t.fe with
    seq := t.fe.seq + 1
    aq := if x then t.fe.aq else t.fe.aq ++ [sl]
    xq := if x then t.fe.xq ++ [sl] else if splits i then t.fe.xq ++ [{ sl with work := .split }] else t.fe.xq }
  { t with fe := fe }.pass t.fe.pc

/-- The executing word has issued at the fetch point: what its flow says of the next word. -/
def Tile.after (t : Tile) : Tile :=
  let u := { t with fe := { t.fe with seq := t.fe.seq + 1 } }
  match t.fe.flow with
  | .seq => u.pass t.fe.ipc
  | .jump => u.passed
  | .hold | .stall | .wait | .trap => u

/-- Whether fetch may hold one more word: the X issue queue has room when it reads one. -/
def Tile.roomFor (t : Tile) (x : Bool) : Bool := x || decide (t.fe.aq.length < Config.aqDepth)

/-- A word at the fetch point that cannot issue waits in its queue, unless fetch may not pass it. -/
def State.holdHere (s : State) (i : Instr) (x : Bool) : Option Out :=
  let t := s.t
  let here : Slot := ⟨t.fe.seq, t.fe.pc, t.regs.loop, .word i⟩
  if (steers i && !(passable i && s.heldByPort here i id)) || !t.roomFor x then none else some (.next (s.setT (t.defer i x)))

/-- Executes the word at the fetch point. -/
def State.runHere (s : State) (i : Instr) (x : Bool) : Option Out :=
  let t := s.t
  if t.clash i then s.holdHere i x
  else match (s.setT (t.at t.fe.pc t.fe.seq t.regs.loop)).execA i with
  | .next s2 =>
    let u := s2.t
    match u.fe.flow with
    | .hold => s.holdHere i x
    | .stall => some (.next (s2.setT (u.flow .seq)))
    | .trap =>
      if t.drained t.fe.seq && (!x || t.fe.aq.isEmpty) then some (.next (s2.setT u.after)) else if x then s.holdHere i x else none
    | .wait => some (.next (s2.setT (if x then (u.vOver i).after.pass u.fe.ipc else u.after)))
    | _ => some (.next (s2.setT (if x then s2.afterX t i t.fe.seq t.fe.pc else s2.afterIssue u t i false).after))
  | o => some o

/-- Passes an X word that has issued already, before the A word that it was fetched behind trapped or was fetched again (R22, R336). -/
def Tile.skipped (t : Tile) : Option Tile :=
  (t.fe.skip.findIdx? fun k => k.mode == t.mode && k.pc == t.fe.pc).map fun n =>
    { t with fe := { t.fe with skip := t.fe.skip.eraseIdx n, seq := t.fe.seq + 1 } }.pass t.fe.pc

/-- Whether the end test at a word does not depend on the loop-register writes of the words that A holds: the three words behind a delayed
write see the old values, and elsewhere the test must not reach its level (R256, R258). -/
def Tile.endKnown (t : Tile) (pc : Word) (n : Nat) : Bool :=
  t.fe.aq.all fun x => match x.work with
    | .word (.mts r (.x _)) =>
      let lvl := fun (l : Level) (f : LoopField) =>
        let o := x.loops.get l
        let c := t.regs.loop.get l
        (o.lc != 0 && o.ls.toNat ≤ x.pc.toNat && x.pc.toNat ≤ o.le.toNat && decide (n ≤ x.seq + 3)) || (match f with
          | .lc => c.le != pc
          | .ls => c.lc == 0 || c.le != pc
          | .le => c.lc == 0)
      (match sprOf r.toNat with
      | some (.loop l f) => lvl l f
      | _ => true)
    | _ => true

/-- Whether the X word at the fetch point has been read already: fetch waits at it for its end test. -/
def Tile.readHere (t : Tile) : Bool := (t.fe.xq.any fun x => x.seq == t.fe.seq) || t.fe.ahead.any fun a => a.seq == t.fe.seq
/-- An X word whose end test is not known yet enters the X issue queue, and fetch does not pass it (R22, R256). -/
def Tile.readOnly (t : Tile) (i : Instr) : Tile := { t with fe := { t.fe with xq := t.fe.xq ++ [⟨t.fe.seq, t.fe.pc, t.regs.loop, .word i⟩] } }

/-- Fetch reads the next word and divides it; while the X issue queue is full, and after a taken transfer, it stands still (R22, R249). A word that can
issue at once does. -/
def State.fetch (s : State) : Option Out :=
  if Config.xqDepth ≤ s.t.fe.xq.length ∨ s.tick < s.t.fe.fAt then none else
  let t0 := s.t
  let t1 := { t0 with regs := { t0.regs with loop := t0.regs.loop.landDue } }
  let f := s.fetchWord t1 t1.fe.pc
  let s := s.setT { t1 with tlb := f.2 }
  let t := s.t
  match f.1 with
  | none => s.trapAt (cFetch t.fe.pc)
  | some w =>
    match decode w with
    | .error _ => s.trapAt (cIllegal (w.setWidth 64))
    | .ok i =>
      if w.getLsbD 6 then
        if !t.endKnown t.fe.pc t.fe.seq then (if t.readHere || t.skipped.isSome then none else some (.next (s.setT (t.readOnly i))))
        else match t.skipped with
        | some u => some (.next (s.setT u))
        | none =>
          if t.fe.xq.isEmpty && t.holding.isNone && !t.vHeld i && decide (t.fe.xAt ≤ s.tick) &&
            s.xMay ⟨t.fe.seq, t.fe.pc, t.regs.loop, .word i⟩ then s.runHere i true
          else some (.next (s.setT (t.defer i true)))
      else if !t.endKnown t.fe.pc t.fe.seq then none
      else if t.fe.aq.isEmpty && !s.horizon t.fe.seq then
        if s.tick < t.fe.aAt then none
        else if splits i && decide (s.tick < t.fe.xAt) then some (.next (s.setT (t.defer i false)))
        else s.runHere i false
      else if (!steers i || (passable i && s.portWait)) && t.roomFor false then some (.next (s.setT (t.defer i false)))
      else none

/-- The first of three that answers. -/
def orElse3 (a b c : Option Out) : Option Out :=
  match a with
  | some o => some o
  | none =>
    match b with
    | some o => some o
    | none => c

/-- X issues only what drains: of a thread that a gang switch has stopped, the split parts (R387); of one that a migration has stopped, what
is earlier than the next A word, and the pushes that A owes, until the move of its context begins (R355, R419). -/
def State.drainX (s : State) : Option Out :=
  let t := s.t
  if t.ctl.moveEnd.isSome then none
  else orElse3 s.landX (match t.fe.xq with
    | [] => none
    | x :: _ => match x.work with
      | .part _ => s.issueX
      | .word _ => if t.switched || t.nextA < x.seq then none else s.issueX
      | .split | .push .. => none) (if t.owing && !t.switched then s.issueA else none)

/-- The instruction that a turn has issued: the word of its place in a queue, or the one fetched. -/
def State.turnWord (before s : State) : Option Instr :=
  match (before.t.fe.aq ++ before.t.fe.xq).find? fun x => x.seq == s.t.fe.iseq && (match x.work with
    | .word _ => true
    | .part _ | .split | .push .. => false) with
  | some x => (match x.work with
    | .word i => some i
    | .part _ | .split | .push .. => none)
  | none => match (before.fetchWord before.t before.t.fe.pc).1 with
    | some w => (match decode w with
      | .ok i => some i
      | .error _ => none)
    | none => none

/-- The touchmark of a pair covers what its thread has issued (R407). -/
def markedOut (before : State) : Option Out → Option Out
  | some (.next s) => some (.next (if s.t.pair.partner.isNone then s else s.markTurn before (before.turnWord s)))
  | o => o

/-- The walkers of a thread's die keep what the walks of its turn have read (R371). -/
def State.walked (s before : State) : State :=
  match s.t.gang.bind s.gang? with
  | none => s
  | some g => (s.t.tlb.filter fun e => !before.t.tlb.contains e).foldl (fun s e => s.keepWalk (s.cur / 192) g.part (e.vf * 65536)) s

/-- The virtual page at which a turn has taken a translation or a fetch fault (R251, R368). -/
def State.faultPage (s : State) : Option Nat :=
  let code := s.t.sr.cause.toNat % 512
  if s.t.fe.flow == .trap && (code == 0x17 || code == 0x18) then some (s.t.sr.tval.toNat / 65536) else none

/-- A turn with a miss whose frame's walk is under way joins that walk, and one whose router has 64 pages queued waits, also where the walk is to fault; else
its walk takes no time (R371; log 12). -/
def State.walkTurn (s before : State) : Option State :=
  let p := before.cur
  match before.t.gang.bind before.gang? with
  | none => some s
  | some g =>
    let walks := (before.die (p / 192)).walks
    if walks.isEmpty then some (s.walked before)
    else
      let es := ((s.t.tlb.filter fun e => !before.t.tlb.contains e).map fun e => (e.vf, e.frames)) ++ s.faultPage.toList.map fun v => (v, 1)
      let on := fun (w : Walk) => w.part == g.part && es.any fun e => decide (e.1 ≤ w.vf) && decide (w.vf < e.1 + e.2)
      match walks.findIdx? on with
      | some k =>
        if ((walks[k]?).map fun w => w.waiters.any fun u => u.1 == p).getD true then none
        else some (before.onDie (p / 192) fun d =>
          { d with walks := d.walks.modify k fun w => { w with waiters := w.waiters ++ [(p, BitVec.ofNat 64 (w.vf * 65536), .read)] } })
      | none =>
        if es.any fun e => decide (64 ≤ (walks.filter fun w => w.vf / 256 % 4 == e.1 / 256 % 4).length) then none else some (s.walked before)

def walkedOut (before : State) : Option Out → Option Out
  | some (.next s) => (s.walkTurn before).map .next
  | o => o

/-- A running thread's next issue. While an enabled source is pending A issues no further word, and X only what is earlier (R353, R355). -/
def State.runTurn (s : State) : Option Out :=
  match s.irqTurn with
  | some s => some (.next s)
  | none =>
    let t := s.t
    if (t.takeable s.tick).isSome then
      orElse3 s.landX (match t.fe.xq with
      | x :: _ => if x.seq < t.nextA then s.issueX else none
      | [] => none) (if t.owing then s.issueA else none)
    else orElse3 s.landX s.issueX (orElse3 s.issueA s.fetch none)

/-- What a thread does in its state at an enabled slot: a load that stands with some of its units read comes first (R272). -/
def State.slotTurn (s : State) : Option Out :=
  match s.readTurn with
  | some o => some o
  | none => match s.t.ctl.stat with
  | .running => s.runTurn
  | .waiting (.swait _) | .waiting (.barrier ..) => s.landX
  | .waiting _ => orElse3 (s.irqTurn.map .next) s.landX s.issueX
  | .stopped _ | .moving _ => s.drainX
  | .idle | .launched | .halted => none

/-- An error that a walk of the turn has met is consumed as well as it faults (R368, R398). -/
def walkConsumed (before : State) : Option Out → Option Out
  | some (.next s) => some (.next (match s.faultPage, before.gangOf before.t, before.partOf before.t with
    | some v, some g, some q => if before.svc.bad.isEmpty then s else
      (match before.badWalk (before.walkersOf before.t) q (v * 65536) with
      | some l => s.consume ((s.gang? g.id).getD g) s.cur (BitVec.ofNat 64 (64 * l)) .memory
      | none => s)
    | _, _, _ => s))
  | o => o

/-- One issue of the current thread; none when it can make no progress (R22, R45, R355), or may not (R387, R398, R434), or its
slot is not enabled. While A waits, X issues on. A read of a place with a known error is its consumption (R398). -/
def State.threadTurn (s : State) : Option Out :=
  let t := s.t
  if t.gang.isNone || s.barred t || !s.slotOn s.cur then none
  else walkedOut s (walkConsumed s (markedOut s (State.checked State.slotTurn s.cur s)))

/-! ## A state whose next step fetches a given word -/

/-- The translation the next fetch uses, when it succeeds. -/
def State.fetchPa (s : State) : Option Nat :=
  match region s.t.fe.pc with
  | some (.global va) =>
    match s.translate s.t va .fetch s.t.user with
    | (.ok pa, _) => some pa
    | (.error _, _) => none
  | _ => none

/-- Eight bytes of a page-table entry in memory. -/
def putPte (pa v : Nat) (m : Memory) : Memory := memWrites ((leBytes 8 v).zipIdx.map fun b => (pa + b.2, b.1)) m

/-- A partition of group 0 of die 0 with one program frame at the default text address, and one gang with logical index
0 on tile 0 running there: what a load from outside the machine leaves (log 14). -/
def State.loaded (s : State) : State :=
  let g : Gang :=
    { id := 0, part := 0, dies := [0], groups := 1, det := false, hsub := 0, poison := false, gsblog2 := 20, htab := 0
      evring := 0, evlog2 := 12, evlost := 0, pkg := 0, npkg := 0, key := 0, l2p := [(0, 0)], stat := .running, t0 := 0, ts := 0
      t1 := 0, step := 0, bmus := [], bmuSnap := [], fired := [], commit := none, staged := [], undo := 65536, consumed := 0, poisonRolled := false
      serial := 0, bcause := 0, btake := [], suspect := 0, hcount := 0, rolling := none, ate := none, sealed := false, saved := none, slice := false
      auto := false, emerg := [], prior := [], rings := [], wake := none, endAtBoundary := false, resumeAt := none, anew := false, asked := [] }
  let q : Partition := ⟨0, .groups 0 1, [0], 0, [], 0, 0, 0⟩
  let m := putPte 0 0x1001 (putPte 0x1000 0x2001 (putPte 0x2080 0x1_003F s.mem))
  let t := s.tile 0
  let s := { s with cur := 0, parts := [q], gangs := [g], mem := m }
  s.setTile 0 { t with
    gang := some 0
    lidx := 0
    ctl := { t.ctl with stat := .running }
    fe := { t.fe with pc := BitVec.ofNat 64 Config.textBase } }

/-- Clears what would keep the current thread from fetching next. -/
def State.fetchNext (s : State) : State :=
  let t := s.t
  let t := { t with ctl := { t.ctl with stat := .running }, fe := { t.fe with aq := [], xq := [], xl := [], late := [], kept := [], ahead := [], skip := [], res := [], aAt := 0, xAt := 0, fAt := 0 }, envq := [] }
  let t := if (t.takeable s.tick).isSome then { t with sr := { t.sr with inten := 0 } } else t
  let wait := ((List.range 16).find? fun k => (s.clkpat s.cur).getLsbD ((s.tick + k) % 16)).getD 0
  { s with turns := [.thread s.cur], tick := s.tick + wait }.setT t

/-- The bytes of a word at the fetch point of a state that can fetch. -/
def State.placeWord (s : State) (w : Nat) : State :=
  match s.fetchPa with
  | some pa => s.memPuts pa (leBytes 4 w)
  | none => s

end Sys2Proof.Machine
end

