-- ==== Sys2Proof/Machine/Moves.lean ====
section
/-! DEFINITION. Moves: the moves that the machine makes of its own accord: those that a tick has made due, and those of its
default policy (log 1); what follows every step. -/

namespace Sys2Proof.Machine

/-! ## Candidates -/

/-- A move is the meaning of an event, whose place it names. -/
abbrev Move := State → Out

/-- The tile for which a boundary's reads count: that of the first member with a DAMO in a line whose tag is bad, else that of the first member; for a cue
stream the first member of its logical die (DESIGN CHOICE, log 83). -/
def State.boundaryReader (s : State) (gid : Nat) : Option Nat :=
  (s.gang? gid).bind fun g =>
    match g.l2p.find? fun e => (s.tile e.2).damos.any fun d => s.svc.bad.contains (d.pa / 64) with
    | some e => some e.2
    | none => g.l2p.head?.map Prod.snd
def State.cueReader (s : State) (gid d : Nat) : Option Nat :=
  (s.gang? gid).bind fun g => (g.l2p.find? fun e => e.1 / 192 == d).map Prod.snd

/-- The events that read a scratchpad or memory. -/
inductive ReadEv where
  | matrix (p : Nat)
  | envelope (p : Nat)
  | scan (p : Nat)
  | spass (p : Nat)
  | rcv (p : Nat)
  | copy (p id : Nat)
  | load (p id : Nat)
  | remote (k : Nat)
  | amo (k : Nat)
  | publish (g : Nat)
  | cue (g d : Nat)
  deriving DecidableEq, Repr

/-- The event as one of these; none for one that reads no scratchpad and no memory. -/
def readEv : Instr → Option ReadEv
  | .matrixCommandComplete p => some (.matrix p)
  | .envelopeCommandComplete p => some (.envelope p)
  | .scanCommandComplete p => some (.scan p)
  | .spassComplete p => some (.spass p)
  | .rcvWake p => some (.rcv p)
  | .copyComplete p id => some (.copy p id)
  | .globalLoadResponse p id => some (.load p id)
  | .remoteLoadArrival k => some (.remote k)
  | .amoAction k => some (.amo k)
  | .gangBoundaryPublish g => some (.publish g)
  | .cueEntryFetch g d => some (.cue g d)
  | _ => none

/-- Its meaning. -/
def ReadEv.move : ReadEv → Move
  | .matrix p => execMatrixCommandComplete p
  | .envelope p => execEnvelopeCommandComplete p
  | .scan p => execScanCommandComplete p
  | .spass p => execSpassComplete p
  | .rcv p => execRcvWake p
  | .copy p id => execCopyComplete p id
  | .load p id => execGlobalLoadResponse p id
  | .remote k => execRemoteLoadArrival k
  | .amo k => execAmoAction k
  | .publish g => execGangBoundaryPublish g
  | .cue g d => execCueEntryFetch g d

/-- The tile for which it reads (R398). -/
def State.readerOf (s : State) : ReadEv → Option Nat
  | .matrix p | .envelope p | .scan p | .spass p | .rcv p | .copy p _ | .load p _ => some p
  | .remote k => (s.net[k]?).bind fun f => s.flightTile f f.dst
  | .amo k => (s.net[k]?).bind fun f => s.flightTile f f.src
  | .publish g => s.boundaryReader g
  | .cue g d => s.cueReader g d

/-- The lines of memory that it reads, whether or not what it does depends on their bytes (R398, R439). -/
def State.linesRead (s : State) : ReadEv → List Nat
  | .load p k => match (s.tile p).findLoad k with
    | some l => (match l.kind with
      | .global bytes _ => (bytes.filter fun b => b.2.isNone).map (·.1 / 64)
      | .remote | .amo => [])
    | none => []
  | .amo k => match s.net[k]? with
    | some f => (match f.msg with
      | .amo _ pa .. => [pa / 64]
      | _ => [])
    | none => []
  | .publish g => match s.gang? g with
    | some g => g.l2p.flatMap fun e => (s.tile e.2).damos.map (·.pa / 64)
    | none => []
  | _ => []

/-- The virtual addresses of its own reads and writes of memory, whose walks may end in a bad line: of a copy, where it has stopped with what
it left in `after` (R148, R372, R398). -/
def State.walksOf (s after : State) : ReadEv → List Nat
  | .copy p id => match (s.tile p).copies.find? fun c => c.id == id && c.state == .moving with
    | some c => if c.status = 1 || (after.tile p).copies.any (fun d => d.id == id && d.state == .moving) then [] else c.pages.map (· * 65536)
    | none => []
  | .publish g => match s.gang? g with
    | some g => if g.hsub = 0 then [] else (List.range ((s.allTasks g).length + 1)).map fun i => g.htab.toNat + 32 * (g.hcount + i)
    | none => []
  | .cue g d => match (s.gang? g).bind fun g => g.bmu d with
    | some b => [b.base.toNat + 32 * b.next]
    | none => []
  | _ => []

/-- A walk that it has met in a line whose tag is bad is consumed as well as it faults (R368, R398). -/
def State.walkedBad (s before : State) (e : ReadEv) (p : Nat) : State :=
  if before.svc.bad.isEmpty || s == before then s
  else match before.gangAt p with
  | none => s
  | some g => match before.part? g.part with
    | none => s
    | some q => match ((before.walksOf s e).findSome? fun va => before.badWalk [] q va), s.gang? g.id with
      | some l, some h => if h.present && h.rolling.isNone then s.consume h p (BitVec.ofNat 64 (64 * l)) .memory else s
      | _, _ => s

/-- Such an event as step makes it: its meaning, unless it reads a place with a known error (R398). -/
def ReadEv.run (e : ReadEv) : Move := fun s =>
  match s.readerOf e with
  | none => e.move s
  | some p =>
    let known := if s.svc.bad.isEmpty || (match e.move s with
      | .next t => t == s
      | _ => true) then [] else (s.linesRead e).map Spot.line
    match (s.checked (fun u => some (e.move u)) p known).getD (.next s) with
    | .next t => .next (t.walkedBad s e p)
    | o => o

/-- An event as step makes it. -/
def State.runMove (i : Instr) (s : State) : Out :=
  match readEv i with
  | none => exec i s
  | some e => e.run s

/-- The move that a network item makes next. -/
def flightMove (k : Nat) (f : Flight) : Move :=
  if f.parked then execParkedReinject k
  else match f.msg with
    | .store .. => execRemoteStoreArrival k
    | .storeAck _ => execRemoteStoreAck k
    | .refusal .. => execRefusalArrival k
    | .load .. => (ReadEv.remote k).run
    | .loadResp .. => execRemoteLoadResponse k
    | .packet m => if m.queue = 4 then execNoteArrival k else execPacketArrival k
    | .ack .. => execPacketAckArrival k
    | .retry _ | .retryCmd .. => execRetryResend k
    | .slotBack .. => execStreamSlotReturn k
    | .mail .. => execNoteArrival k
    | .mcmd .. => execMcmdRecordArrival k
    | .carry .. => execCarryArrival k
    | .ring .. | .credit => execParkedReinject k
    | .ready _ => execReadyReportArrival k
    | .amo .. => (ReadEv.amo k).run
    | .amoResp .. => execAmoResponse k
    | .damo _ => execDamoRequestRecord k

def State.netMoves (s : State) : List Move := (s.net.zipIdx.filter fun f => f.1.due ≤ s.tick).map fun f => flightMove f.2 f.1

/-- Whether a thread waits at WAIT, WAITV or SWAIT. -/
def Tile.atWait (t : Tile) : Bool :=
  match t.ctl.stat with
  | .waiting (.barrier ..) | .waiting (.swait _) => true
  | _ => false

/-- Moves of one tile's units. -/
def tileMoves (p : Nat) (t : Tile) : List Move :=
  (if t.mx.run.isNone && !(t.mx.fifo.isEmpty && t.mx.remote.isEmpty) then [execEngineCommandStart p .matrix] else []) ++
  (if t.mx.run.isSome then [execRotationSendArrival p, execRingCreditArrival p, execRotationSwap p, (ReadEv.matrix p).run] else
    if t.mx.credit then [execRotationSendArrival p] else [execRotationSendArrival p, execRingCreditArrival p]) ++
  (if t.envq.isEmpty then [] else [(ReadEv.envelope p).run]) ++
  (if t.scan.run.isNone && !t.scan.fifo.isEmpty then [execEngineCommandStart p .scan] else []) ++
  (match t.scan.run with
    | none => []
    | some c => match c.op with
      | .spass => [(ReadEv.spass p).run]
      | .sclose => [execScloseComplete p]
      | .slocal | .sapply => [(ReadEv.scan p).run]) ++
  (if t.ni.held.isEmpty then [] else [execLocalMailboxDelivery p]) ++
  t.copies.flatMap (fun c => [execCopyStart p c.id, (ReadEv.copy p c.id).run]) ++
  t.loads.filterMap (fun l => match l.kind with
    | .global .. => some ((ReadEv.load p l.id).run)
    | _ => none) ++
  (match t.ctl.stat with
    | .waiting (.fwait ..) => [execFwaitDone p]
    | .waiting (.rcv ..) => [(ReadEv.rcv p).run]
    | .waiting .wmsg => [execWmsgWake p]
    | .waiting .idle => [execIdleWake p]
    | .moving _ => [execMigrationResume p]
    | _ => []) ++
  (if t.atWait || t.mx.run.isSome then [execBarrierStallEvent p] else []) ++
  (match t.ctl.stat with
    | .waiting (.rcv ..) | .waiting (.stream ..) => [execLongReceiveEvent p]
    | _ => []) ++
  (if t.sr.minting.isSome then [execCapabilityMinted p] else []) ++
  (if t.migrates then [execMigrationStart p, execThermalThrottleStep p] else []) ++
  (if t.pair.leader then [execTouchmarkExchange p, execTouchmarkArrival p] else [])

/-- Whether a FRAMEINV waits for acknowledgements. -/
def State.invalidating (s : State) : Bool := s.tiles.any fun e => match e.2.ctl.stat with
  | .waiting (.inval ..) => true
  | _ => false

/-- Moves of one gang. -/
def gangMoves (s : State) (g : Gang) : List Move :=
  match g.stat with
  | .placed => if g.t0 ≤ s.tick then [execGangStart g.id] else []
  | .ended | .failed => []
  | .stopped => if g.sealed || s.tick < g.ts + 4096 then [] else [execSwitchPark g.id]
  | .resuming => [execGangResume g.id]
  | .rolling => [execRollbackResume g.id]
  | .running | .stopping =>
    (g.fired.zipIdx.filter fun f => f.1.due ≤ s.tick).flatMap (fun f =>
      if f.1.pkg then (if f.1.reportedPkg then [execPkgRelease g.id (f.1.due + 4096)] else [execPkgReadyReport g.id])
      else [execBarrierRelease g.id f.2]) ++
    (g.bmus.zipIdx.flatMap fun b =>
      (if b.1.next < b.1.count && b.1.win.length < 32 then [(ReadEv.cue g.id b.2).run] else []) ++
      b.1.win.zipIdx.flatMap fun e =>
        if b.1.arrived.isEmpty then []
        else if e.1.dies = 0 then [execBarrierFire g.id b.2 e.2]
        else [execReadyReport g.id b.2 e.2, execBarrierFire g.id b.2 e.2]) ++
    (if g.commit.isSome then [execTaskMerge g.id, (ReadEv.publish g.id).run] else [execGangBoundaryCommit g.id]) ++
    (if g.serial ≠ 0 then [execTaskMerge g.id] else []) ++
    (if g.bcause = 0x60 then [execSerialReexecution g.id] else []) ++
    (s.closedTails g).map fun l => execChainRelease g.id l

/-- Moves of one die. -/
def dieMoves (d : Nat) (q : Die) : List Move :=
  (if q.ramp.isSome then [execRampEnd d, execRampStep d] else []) ++ q.reqs.map (fun r => execPatternApply d r.cluster) ++
  (if q.walks.isEmpty then [] else [execWalkComplete d 0])

/-- Moves of the service on frames. -/
def frameMoves (m : FrameMove) : List Move :=
  if m.shot then [execMirrorClear m.part m.pfi]
  else if m.switched then [execServiceShootdown m.part m.pfi]
  else [execFrameLineCopy m.part m.pfi (((List.range 1024).find? fun i => !m.lines.contains i).getD 0)]

/-- Every candidate of the default policy, in a fixed order (log 1). -/
def State.candidates (s : State) : List Move :=
  s.gangs.flatMap (gangMoves s) ++ s.netMoves ++ s.tiles.flatMap (fun e =>
    if e.2.gang.isSome then tileMoves e.1 e.2 else if e.2.pair.partner.isSome && e.2.migrates then [execMigrationStart e.1, execThermalThrottleStep e.1] else []) ++
  (if s.invalidating then s.tiles.map fun e => execInvalidationAck e.1 else []) ++
  s.dies.toList.zipIdx.flatMap (fun d => dieMoves d.2 d.1) ++ s.svc.moves.flatMap frameMoves

/-- Whether a move changes anything. -/
def State.changes (s : State) (m : Move) : Bool :=
  match m s with
  | .next t => t != s
  | _ => true

/-- The first candidate that changes the package. -/
def State.nextMove (s : State) : Option Move := s.candidates.find? s.changes

/-! ## Moves that are due (R126, R129, R134, R197, R387, R390, R398, R407, R412, R413, R419) -/

/-- The window entries of a gang's logical dies, with their places. -/
def Gang.entries (g : Gang) : List (Nat × Bmu × Nat × Cue) :=
  g.bmus.zipIdx.flatMap fun b => if b.1.arrived.isEmpty then [] else b.1.win.zipIdx.map fun e => (b.2, b.1, e.2, e.1)

/-- What a gang does on the tick at which it falls due, or at which its condition holds. -/
def State.gangUrgent (s : State) (g : Gang) : List Move :=
  (match g.stat with
    | .placed => if g.t0 ≤ s.tick then [execGangStart g.id] else []
    | .stopping => if g.ts ≤ s.tick then [execGangSwitchStop g.id] else []
    | .stopped => if !g.sealed && decide (g.ts + 4096 ≤ s.tick) then [execSwitchPark g.id] else []
    | .resuming => if g.wake.any (· ≤ s.tick) then [execGangResume g.id] else []
    | .running | .rolling | .ended | .failed => []) ++
  (if s.sliceLate g then [execSliceAbort g.id] else []) ++
  (match g.rolling with
    | some (ts, _) => if ts ≤ s.tick then [if g.stat == .rolling then execRollbackResume g.id else execRollbackStop g.id] else []
    | none => []) ++
  ((g.fired.zipIdx.filter fun f => !f.1.pkg && decide (f.1.due ≤ s.tick)).map fun f => execBarrierRelease g.id f.2) ++
  ((s.closedTails g).filter fun l => match s.chainRound g l with
    | some r => r.2 ≤ s.tick
    | none => false).map (fun l => execChainRelease g.id l) ++
  (g.entries.filter fun e => s.mayReport g e.1 e.2.1 e.2.2.2).map (fun e => execReadyReport g.id e.1 e.2.2.1) ++
  (g.entries.filter fun e => (s.firing g e.1 e.2.1 e.2.2.2).isSome).map fun e => execBarrierFire g.id e.1 e.2.2.1

/-- Whether a network item arrives on this tick: at its own, unless other TIMED traffic delays it (R130, R134, R143, R197). -/
def State.itemDue (s : State) (k : Nat) (f : Flight) : Bool :=
  f.msg.onTime && decide (f.due ≤ s.tick) && !f.parked && !(f.msg.isTimed && s.crossed f && Config.choice s.tick k % 2 = 1)

/-- What a die's voltage and patterns do on this tick (R412, R413). -/
def dieUrgent (d : Nat) (q : Die) (tick : Nat) : List Move :=
  (match q.ramp with
    | none => []
    | some v => if v = q.mv then [execRampEnd d] else if q.rampAt + 3600 ≤ tick then [execRampStep d] else []) ++
  (if tick % 16 = 0 then q.reqs.map fun r => execPatternApply d r.cluster else [])

/-- What a tile does on this tick: a touchmark arrives or is exchanged, a migration ends (R407, R419). -/
def tileUrgent (p : Nat) (t : Tile) (tick : Nat) : List Move :=
  (if t.pair.leader then (if t.pair.inbox.isNone then [execTouchmarkExchange p] else if t.pair.due ≤ tick then [execTouchmarkArrival p] else []) else []) ++
  if t.ctl.moveEnd.any (· ≤ tick) then [execMigrationResume p] else []

/-- The event of a wait that has outlasted its limit; it comes before what ends the wait on this tick (R45, R133, R163). -/
def limitUrgent (p : Nat) (t : Tile) (tick : Nat) : List Move :=
  if t.limitTicks.any (· < tick) then [execBarrierStallEvent p, execLongReceiveEvent p] else []

/-- What must happen before any instruction issues at this tick. -/
def State.urgent (s : State) : List Move :=
  s.tiles.flatMap (fun e => limitUrgent e.1 e.2 s.tick) ++ s.gangs.flatMap s.gangUrgent ++ (s.net.zipIdx.filter fun f => s.itemDue f.2 f.1).map (fun f => flightMove f.2 f.1) ++
  s.dies.toList.zipIdx.flatMap (fun d => dieUrgent d.2 d.1 s.tick) ++ s.tiles.flatMap fun e => tileUrgent e.1 e.2 s.tick

/-- The first such move that changes the package. -/
def State.urgentMove (s : State) : Option Move :=
  match s.urgent with
  | [] => none
  | l => l.find? s.changes

/-! ## After every step -/

/-- Whether nothing steps any more (R435). -/
def State.dead (s : State) : Bool := s.svc.down

/-- The records of an undo region that are not in committed memory yet go there through the translation; one whose write faults stops logging.
The spec gives the records no layout: the bytes are free (R395, R397, log 42). -/
def State.undoWrite (s : State) (p : Nat) : State :=
  let t := s.tile p
  match t.undo.base, t.gang.bind s.gang? with
  | some b, some g =>
    let first := (b + t.undo.written) / 65536
    match (List.range ((b + t.undo.used + 65535) / 65536 - first)).mapM fun k => s.sysPa g.part ((first + k) * 65536) .write with
    | some pas =>
      let ws := (List.range (t.undo.used - t.undo.written)).map fun k =>
        let i := t.undo.written + k
        (pas.getD ((b + i) / 65536 - first) 0 + (b + i) % 65536, Config.undoByte s.steps i)
      (ws.foldl (fun s w => s.memPut w.1 w.2) s).onTile p fun t => { t with undo := { t.undo with written := t.undo.used } }
    | none => s.onTile p fun t => ({ t with
        undo := { t.undo with full := true, raised := false }
        ir := { t.ir with relstat := setField t.ir.relstat 0 0 0 } }).error 7
  | _, _ => s

/-- Every undo region's new records. -/
def State.settleRecords (s : State) : State :=
  ((s.tiles.filter fun e => e.2.undo.base.isSome && !e.2.undo.full && decide (e.2.undo.written < e.2.undo.used)).map Prod.fst).foldl
    State.undoWrite s

/-- Results that are due are delivered (R223, R265). -/
def State.settleResults (s : State) : State :=
  ((s.tiles.filter fun e => e.2.fe.res.any fun o => decide (o.due ≤ s.tick)).map Prod.fst).foldl
    (fun s p => s.onTile p fun t => t.deliverDue s.tick) s

/-- The B cause that a member which had run again takes when it arrives (R356). -/
def State.settleCauses (s : State) : State :=
  (s.gangs.filter fun g => !g.btake.isEmpty).foldl (fun s g => match s.gang? g.id with
    | some g => s.lateCause g
    | none => s) s

/-- The snapshot-overflow event of an undo region that has just overflowed (R397). -/
def State.settleUndo (s : State) : State :=
  match s.tiles.find? fun e => e.2.undo.full && !e.2.undo.raised with
  | none => s
  | some e =>
    let s := s.onTile e.1 fun t => { t with undo := { t.undo with raised := true } }
    s.threadEvent e.2 4 0

/-- At Tf of a freeze the clocks stop (R434). -/
def State.settleFreeze (s : State) : State := if s.svc.frozen.any (· ≤ s.tick) && s.svc.image.isNone then s.freezeNow else s

/-- A shutdown is complete once no gang lives (R435). -/
def State.settleDown (s : State) : State := if s.svc.shutdown && !s.svc.down && s.live.isEmpty then s.powerDown else s

/-- What follows every move. -/
def State.settle (s : State) : State := s.settleResults.settleRecords.settleUndo.settleCauses.settleFreeze.settleDown

end Sys2Proof.Machine
end

