-- ==== Sys2Proof/Machine/Step.lean ====
section
/-! DEFINITION. Step: one move of the package (R96), and the state whose next step fetches a given word. -/

namespace Sys2Proof.Machine

/-- A thread's turn, or nothing when its thread makes no progress. -/
def turnOf (s : State) : Host.Outcome State Fault Refusal :=
  match s.threadTurn with
  | some o => o
  | none => .next s

/-- The first of some tiles whose thread can issue, and what its issue gives. -/
def State.firstTurn (s : State) : List Nat → Option (Nat × Out)
  | [] => none
  | p :: r =>
    match { s with cur := p }.threadTurn with
    | some o => some (p, o)
    | none => s.firstTurn r

/-- In a tick the threads issue in the order of the tiles, each as long as its slices can; when none can, the next tick begins (R22, R45; log 1). -/
def stepRound (s : State) : Host.Outcome State Fault Refusal :=
  match s.firstTurn ((s.tiles.map (·.1)).filter fun k => s.pos ≤ k) with
  | some (p, .next t) => .next { t with pos := p }
  | some (_, o) => o
  | none => .next (if s.pos = 0 then { s with tick := s.tick + 1 } else { s with pos := 0 })

/-- Whether a turn of tile p has translated a page anew: such a walk takes a time that is not fixed (R371, R443). -/
def State.missed (s before : State) (p : Nat) : Bool := (s.tile p).tlb.any fun e => !(before.tile p).tlb.contains e

/-- The first of some tiles whose thread can issue with no walk, and what its issue gives: no tick passes before (R22, R45). -/
def State.promptTurn (s : State) : List Nat → Option Out
  | [] => none
  | p :: r =>
    match { s with cur := p }.threadTurn with
    | some (.next t) => if t.missed s p then s.promptTurn r else some (.next t)
    | some o => some o
    | none => s.promptTurn r

/-- The machine's own choice when no turn is given: a pending move and a thread's issue alternate (log 1). -/
def stepDefault (s : State) : Host.Outcome State Fault Refusal :=
  if s.steps % 2 = 0 then
    match s.nextMove with
    | some m => m s
    | none => stepRound s
  else stepRound s

/-- The next turn. Ticks pass only when no thread can issue (R45). -/
def stepTurn (s : State) : Host.Outcome State Fault Refusal :=
  match s.turns with
  | [] => stepDefault s
  | .ticks n :: r =>
    match s.promptTurn (s.tiles.map (·.1)) with
    | some o => o
    | none =>
      let t := s.passTo n
      .next { s with turns := if t < s.tick + n then .ticks (s.tick + n - t) :: r else r, tick := t }
  | .thread p :: r => turnOf { s with turns := r, cur := p }
  | .move i :: r => { s with turns := r }.runMove i

/-- One step: what has fallen due comes before any turn. -/
def step (s : State) : Host.Outcome State Fault Refusal :=
  if s.dead then .fault .noPower
  else
    let s1 := { s with steps := s.steps + 1 }
    let o := match s1.urgentMove with
      | some m => m s1
      | none => stepTurn s1
    match o with
    | .next s2 => .next s2.settle
    | o => o

/-- `s` with the instruction stored where `step` fetches next (log 14). -/
def State.withFetchWord (s : State) (_nbits w : Nat) : State :=
  let s := if s.t.gang.isSome && s.fetchPa.isSome then s else s.loaded
  s.fetchNext.placeWord w

end Sys2Proof.Machine
end

