-- ==== Sys2Proof/Safety.lean ====
section
/-! DEFINITION. Safety: the terms in which claims are stated: when a word may issue, what a word leaves unchanged, the
invariants that every step keeps. -/

namespace Sys2Proof.Machine

/-! ## When a word may issue -/

/-- The registers that an A-slice word names are readable and writable: no pending DAMO destination in U mode (R326), none with
an outstanding load (R223), no port value kept from an earlier stall of the word (R336), an entry in each port read and room in each
port written (R24). -/
def Tile.ReadyX (t : Tile) (srcs dsts : List XReg) : Prop :=
  t.keptVals = [] ∧ (t.user = true → ∀ r ∈ srcs ++ dsts, t.damoPending r = false) ∧ (∀ r ∈ srcs ++ dsts, t.busy r = false) ∧
  srcs.count 30 ≤ t.regs.qxa0.length ∧ srcs.count 31 ≤ t.regs.qxa1.length ∧
  t.regs.qax0.length + t.inX 28 + dsts.count 28 ≤ 8 ∧ t.regs.qax1.length + t.inX 29 + dsts.count 29 ≤ 8

/-- The same, but that a destination which is no port may have a load, an AMO or a result outstanding (R246). -/
def Tile.SourcesReady (t : Tile) (srcs dsts : List XReg) : Prop :=
  t.keptVals = [] ∧ (t.user = true → ∀ r ∈ srcs ++ dsts, t.damoPending r = false) ∧ (∀ r ∈ srcs, t.busy r = false) ∧
  (∀ r ∈ dsts, r = 28 ∨ r = 29 → t.busy r = false) ∧ srcs.count 30 ≤ t.regs.qxa0.length ∧ srcs.count 31 ≤ t.regs.qxa1.length ∧
  t.regs.qax0.length + t.inX 28 + dsts.count 28 ≤ 8 ∧ t.regs.qax1.length + t.inX 29 + dsts.count 29 ≤ 8

/-- The registers that an X-slice word names are readable and writable: no envelope result outstanding (R185, R223), no
port value kept from an earlier stall of the word (R336), an entry in each port read and room in each port written (R24). -/
def Tile.ReadyY (t : Tile) (srcs dsts : List YReg) : Prop :=
  t.keptVals = [] ∧ (∀ r ∈ srcs ++ dsts, t.busyY r = false) ∧
  srcs.count 14 ≤ t.regs.qax0.length ∧ srcs.count 15 ≤ t.regs.qax1.length ∧
  t.regs.qxa0.length + t.inY 12 + dsts.count 12 ≤ 8 ∧ t.regs.qxa1.length + t.inY 13 + dsts.count 13 ≤ 8

/-! ## What a word leaves -/

/-- Only the tile of the executing thread differs. -/
def State.OnlyTile (s s' : State) : Prop := s' = s.setT s'.t
/-- Of a tile, only its register files, loop registers and ports differ. -/
def Tile.OnlyRegs (t t' : Tile) : Prop := t' = { t with regs := t'.regs }
/-- Of a tile, only its register files, loop registers, ports and FFLAGS differ. -/
def Tile.OnlyRegsFlags (t t' : Tile) : Prop :=
  t' = { t with regs := t'.regs, ur := { t.ur with fflags := t'.ur.fflags } }
/-- Every byte of committed memory and of every scratchpad reads as before. -/
def State.SameBytes (s s' : State) : Prop :=
  (∀ a, memRead a s'.mem = memRead a s.mem) ∧ ∀ p a, memRead a (s'.tile p).spad = memRead a (s.tile p).spad
/-- The x registers but rd hold what they held. -/
def Tile.SameX (t t' : Tile) (rd : XReg) : Prop := ∀ r, r ≠ rd → t'.xval r = t.xval r
/-- The y registers but yd hold what they held. -/
def Tile.SameY (t t' : Tile) (yd : YReg) : Prop := ∀ r, r ≠ yd → t'.yval r = t.yval r

/-! ## What an arithmetic word reads and writes -/

/-- Operands and destination of the A-slice words that only compute (R240 to R244): sources in the order they are read. -/
def aluShape : Instr → Option (List XReg × XReg)
  | .add rd a b | .sub rd a b | .and rd a b | .or rd a b | .xor rd a b | .sll rd a b | .srl rd a b | .sra rd a b
  | .slt rd a b | .sltu rd a b | .min rd a b | .max rd a b | .minu rd a b | .maxu rd a b | .mul rd a b | .mulh rd a b
  | .mulhu rd a b | .div rd a b | .divu rd a b | .rem rd a b | .remu rd a b | .addw rd a b | .subw rd a b | .sllw rd a b
  | .srlw rd a b | .sraw rd a b => some ([a, b], rd)
  | .sel rd a b => some ([a, b, rd], rd)
  | .clz rd a | .ctz rd a | .cnt rd a => some ([a], rd)
  | .addi rd a _ | .slti rd a _ | .sltiu rd a _ | .xori rd a _ | .ori rd a _ | .andi rd a _ | .addiw rd a _
  | .slli rd a _ | .srli rd a _ | .srai rd a _ => some ([a], rd)
  | .lui rd _ | .auipc rd _ => some ([], rd)
  | _ => none

/-- The vector words that read and write v registers and masks only: the v destination, if there is one (R275 to R283). -/
def vecShape : Instr → Option (Option VReg × Option MReg)
  | .vadd _ _ d _ _ | .vsub _ _ d _ _ | .vmul _ _ d _ _ | .vmulh _ _ d _ _ | .vmin _ _ d _ _ | .vmax _ _ d _ _
  | .vand _ _ d _ _ | .vor _ _ d _ _ | .vxor _ _ d _ _ | .vsll _ _ d _ _ | .vsrl _ _ d _ _ | .vsra _ _ d _ _
  | .vsel _ _ d _ _ | .vfadd _ _ d _ _ | .vfsub _ _ d _ _ | .vfmul _ _ d _ _ | .vfma _ _ d _ _ | .vfms _ _ d _ _
  | .vfmin _ _ d _ _ | .vfmax _ _ d _ _ | .vperm _ _ d _ _ | .vshuf _ _ d _ _ | .vzip _ _ d _ _ | .vunzip _ _ d _ _
  | .vpack _ _ d _ _ => some (some d, none)
  | .vabs _ _ d _ | .vfabs _ _ d _ | .vfneg _ _ d _ | .vrsqrt _ _ d _ | .vrecip _ _ d _ | .vsqrt _ _ d _ | .vexp2 _ _ d _
  | .vredsum _ _ d _ | .vredmax _ _ d _ | .vredmin _ _ d _ => some (some d, none)
  | .vwiden _ _ d _ _ => some (some d, none)
  | .vcvt _ _ _ _ d _ => some (some d, none)
  | .vcmpeq _ _ d _ _ | .vcmplt _ _ d _ _ | .vfcmpeq _ _ d _ _ | .vfcmplt _ _ d _ _ | .vfcmple _ _ d _ _ => some (none, some d)
  | .mand d _ _ | .mor d _ _ | .mxor d _ _ | .mnot d _ => some (none, some d)
  | _ => none

/-- The X-slice words that read and write y registers, with their v destination if they have one: sources, y destination (R260
to R265, R278, R282, R283). -/
def scalarShape : Instr → Option (List YReg × Option YReg × Option VReg)
  | .fadd _ d a b | .fsub _ d a b | .fmul _ d a b | .fdiv _ d a b | .fmin _ d a b | .fmax _ d a b => some ([a, b], some d, none)
  | .fmadd _ d a b => some ([a, b, d], some d, none)
  | .fcmp _ _ d a b => some ([a, b], some d, none)
  | .fsqrt _ d a | .fclass _ d a => some ([a], some d, none)
  | .fcvt _ _ _ _ d a => some ([a], some d, none)
  | .mpop d _ | .mfirst d _ => some ([], some d, none)
  | .vexty _ d _ b => some ([b], some d, none)
  | .vbcast _ _ d _ b | .vslideup _ _ d _ b | .vslidedn _ _ d _ b => some ([b], none, some d)
  | .vinsy _ d a b => some ([a, b], none, some d)
  | .vsplat _ _ d a => some ([a], none, some d)
  | _ => none

/-! ## Words as the statements name them -/

/-- The state in which the executing thread's word has read rs1 and rs2, in that order, and written v to rd. -/
def State.wrote2 (s : State) (rd rs1 rs2 : XReg) (f : Word → Word → Word) : State :=
  s.setT (((s.t.popX rs1).2.popX rs2).2.putX rd (f (s.t.popX rs1).1 ((s.t.popX rs1).2.popX rs2).1))
/-- The same for one source. -/
def State.wrote1 (s : State) (rd rs1 : XReg) (f : Word → Word) : State :=
  s.setT ((s.t.popX rs1).2.putX rd (f (s.t.popX rs1).1))

/-- A scalar load to an x register: destination, base, offset, width in bytes, whether it is sign-extended (R247). -/
def loadOf : Instr → Option (XReg × XReg × Word × Nat × Bool)
  | .lb rd rs1 imm => some (rd, rs1, imm.signExtend 64, 1, true)
  | .lh rd rs1 imm => some (rd, rs1, imm.signExtend 64, 2, true)
  | .lw rd rs1 imm => some (rd, rs1, imm.signExtend 64, 4, true)
  | .ld rd rs1 imm => some (rd, rs1, imm.signExtend 64, 8, false)
  | .lbu rd rs1 imm => some (rd, rs1, imm.signExtend 64, 1, false)
  | .lhu rd rs1 imm => some (rd, rs1, imm.signExtend 64, 2, false)
  | .lwu rd rs1 imm => some (rd, rs1, imm.signExtend 64, 4, false)
  | _ => none
/-- A scalar store of an x register: data, base, offset, width in bytes (R247). -/
def storeOf : Instr → Option (XReg × XReg × Word × Nat)
  | .sb rs2 rs1 imm => some (rs2, rs1, imm.signExtend 64, 1)
  | .sh rs2 rs1 imm => some (rs2, rs1, imm.signExtend 64, 2)
  | .sw rs2 rs1 imm => some (rs2, rs1, imm.signExtend 64, 4)
  | .sd rs2 rs1 imm => some (rs2, rs1, imm.signExtend 64, 8)
  | _ => none
/-- A split load to a y register (R248). -/
def loadYOf : Instr → Option (YReg × XReg × Word × Nat × Bool)
  | .lbY yd rs1 imm => some (yd, rs1, imm.signExtend 64, 1, true)
  | .lhY yd rs1 imm => some (yd, rs1, imm.signExtend 64, 2, true)
  | .lwY yd rs1 imm => some (yd, rs1, imm.signExtend 64, 4, true)
  | .ldY yd rs1 imm => some (yd, rs1, imm.signExtend 64, 8, false)
  | .lbuY yd rs1 imm => some (yd, rs1, imm.signExtend 64, 1, false)
  | .lhuY yd rs1 imm => some (yd, rs1, imm.signExtend 64, 2, false)
  | .lwuY yd rs1 imm => some (yd, rs1, imm.signExtend 64, 4, false)
  | _ => none
/-- A split store of a y register (R248). -/
def storeYOf : Instr → Option (YReg × XReg × Word × Nat)
  | .sbY ys rs1 imm => some (ys, rs1, imm.signExtend 64, 1)
  | .shY ys rs1 imm => some (ys, rs1, imm.signExtend 64, 2)
  | .swY ys rs1 imm => some (ys, rs1, imm.signExtend 64, 4)
  | .sdY ys rs1 imm => some (ys, rs1, imm.signExtend 64, 8)
  | _ => none

/-- v is the w bytes of the scratchpad from an offset, extended (R4, R247). -/
def Tile.Loaded (t : Tile) (span off w : Nat) (signed : Bool) (v : Word) : Prop :=
  (∀ i, i < w → v.extractLsb' (8 * i) 8 = t.spadRead span t.sr.bhkey (off + i)) ∧
  ∀ i, 8 * w ≤ i → i < 64 → v.getLsbD i = (signed && v.getLsbD (8 * w - 1))

/-! ## Lanes as the statements name them (R49, R266, R267) -/

/-- Lane i of a v register. -/
def lane (ty : LTy) (v : Vec) (i : Nat) : BitVec (laneBits ty) := v.extractLsb' (laneBits ty * i) (laneBits ty)
/-- Whether the write mask lets lane i through: the bit of the lane's first byte. -/
def State.on (s : State) (ty : LTy) (vm : MReg) (i : Nat) : Bool := (s.t.mval vm).getLsbD (laneBits ty / 8 * i)
/-- The answer is the state in which vd alone has changed: an unmasked lane i holds f i, a masked-off lane what it held. -/
def State.Lanes (s : State) (out : Out) (ty : LTy) (vm : MReg) (vd : VReg) (f : Nat → BitVec (laneBits ty)) : Prop :=
  ∃ v, out = .next (s.setT (s.t.putV vd v)) ∧
    ∀ i, i < lanesOf ty → lane ty v i = if s.on ty vm i then f i else lane ty (s.t.vval vd) i
/-- The same with the flags of the unmasked lanes ORed into FFLAGS. -/
def State.FLanes (s : State) (out : Out) (ty : LTy) (vm : MReg) (vd : VReg) (f : Nat → Nat × Fl) : Prop :=
  ∃ v fl, out = .next (s.setT ((s.t.putV vd v).flags fl)) ∧
    (∀ i, i < lanesOf ty → lane ty v i = if s.on ty vm i then BitVec.ofNat _ (f i).1 else lane ty (s.t.vval vd) i) ∧
    ∀ b, fl.getLsbD b = (List.range (lanesOf ty)).any fun i => s.on ty vm i && (f i).2.getLsbD b
/-- The answer is the state in which md alone has changed, and the flags: every bit of an unmasked lane is the relation of that lane. -/
def State.MaskOf (s : State) (out : Out) (ty : LTy) (vm md : MReg) (f : Nat → Bool × Fl) : Prop :=
  ∃ m fl, out = .next (s.setT ((s.t.putM md m).flags fl)) ∧
    (∀ b, b < 64 → m.getLsbD b =
      if s.on ty vm (b / (laneBits ty / 8)) then (f (b / (laneBits ty / 8))).1 else (s.t.mval md).getLsbD b) ∧
    ∀ b, fl.getLsbD b = (List.range (lanesOf ty)).any fun i => s.on ty vm i && (f i).2.getLsbD b
/-- The value at node i of level k of the pairwise tree of R78 over leaves, with the flags of the nodes below it. -/
def pairTree (f : Nat → Nat → Nat × Fl) (leaf : Nat → Nat) : Nat → Nat → Nat × Fl
  | 0, i => (leaf i, 0)
  | k + 1, i =>
    let a := pairTree f leaf k (2 * i)
    let b := pairTree f leaf k (2 * i + 1)
    let r := f a.1 b.1
    (r.1, a.2 ||| b.2 ||| r.2)
/-- The answer is the state in which vd holds the reduction in lane 0 and zeros above, with the flags of the tree (R78, R281). -/
def State.Reduces (s : State) (out : Out) (ty : LTy) (vm : MReg) (vd vs1 : VReg) (ident : Nat) (f : Nat → Nat → Nat × Fl) : Prop :=
  let r := pairTree f (fun i => if s.on ty vm i then (lane ty (s.t.vval vs1) i).toNat else ident) (Nat.log2 (lanesOf ty)) 0
  out = .next (s.setT ((s.t.putV vd (BitVec.ofNat 512 (r.1 % 2 ^ laneBits ty))).flags r.2))

/-- A vector memory word that loads, with the base address and the element form it takes from the tile: type, mask, destination,
base, form, x sources (R268). -/
def Tile.vloadOf (t : Tile) : Instr → Option (LTy × MReg × VReg × Word × VForm × List XReg)
  | .vld ty vm vd rs1 imm => some (ty, vm, vd, (t.popX rs1).1 + imm.signExtend 64 * 64, .unit, [rs1])
  | .vlds ty vm vd rs1 rs2 => some (ty, vm, vd, (t.popX rs1).1, .stride ((t.popX rs1).2.popX rs2).1.toInt, [rs1, rs2])
  | .vgather ty vm vd rs1 vs2 => some (ty, vm, vd, (t.popX rs1).1, .index vs2, [rs1])
  | .vldb ty vm vd rs1 imm => some (ty, vm, vd, (t.popX rs1).1 + imm.signExtend 64 * 8, .bcast, [rs1])
  | _ => none
/-- The same for the words that store; the register is the data (R268). -/
def Tile.vstoreOf (t : Tile) : Instr → Option (LTy × MReg × VReg × Word × VForm × List XReg)
  | .vst ty vm vs rs1 imm => some (ty, vm, vs, (t.popX rs1).1 + imm.signExtend 64 * 64, .unit, [rs1])
  | .vsts ty vm vs rs1 rs2 => some (ty, vm, vs, (t.popX rs1).1, .stride ((t.popX rs1).2.popX rs2).1.toInt, [rs1, rs2])
  | .vscatter ty vm vs rs1 vs2 => some (ty, vm, vs, (t.popX rs1).1, .index vs2, [rs1])
  | _ => none
/-- The tile after a word has read its x sources in order. -/
def Tile.popXs (t : Tile) : List XReg → Tile
  | [] => t
  | r :: rs => (t.popX r).2.popXs rs
/-- The conditions of R270 on an access to the self window. -/
def selfOk (f : VForm) (ty : LTy) (fmt pln off : Nat) (pstride : Word) : Prop :=
  (fmt = 1 → f = .unit) ∧ (fmt ≠ 1 → pln = 0) ∧ extentOk f ty fmt pln off pstride = true ∧
  (fmt ≠ 1 → winBits fmt ty / 8 ≠ 0 → off % (winBits fmt ty / 8) = 0)
/-- The index of lane i, 0 where the form has none. -/
def Tile.idx (t : Tile) (ty : LTy) (f : VForm) (i : Nat) : Nat :=
  match f with
  | .index vs => (lane ty (t.vval vs) i).toNat
  | _ => 0

/-! ## Engine commands as the statements name them (R54, R285) -/

/-- The answer is the state of the tile u with one more command in its matrix FIFO, carrying the registers it takes (R54, R159). -/
def State.MxPush (s : State) (out : Out) (u : Tile) (op : MxOp) (acc : AccReg) (word addr : Word) (scales : List (BitVec 32))
    (int64 : Bool) : Prop :=
  let n := (u.mx.pushes + 1) % 2 ^ 16
  let c : MxCmd := ⟨op, acc, word, addr, u.ur.pstride, u.ur.mring, u.sr.bhkey, scales, int64, u.fe.iseq, n, none⟩
  out = .next (s.setT { u with mx := { u.mx with
    fifo := u.mx.fifo ++ [c], pushes := n, owed := u.mx.owed + (if c.notify = 1 then 1 else 0) } })
/-- The state of the tile u with one more command in its envelope FIFO, of the word `word` (R54, R191). -/
def State.envPushed (s : State) (u : Tile) (op : EnvOp) (word : Instr) : State :=
  s.setT { u with envq := u.envq ++ [⟨op, u.ur.etol, u.ur.elimit, u.sr.bhkey, u.fe.ipc, u.fe.iseq, u.fe.loops, 0, word, none⟩] }
/-- A scan command as it is entered. -/
def Tile.scCmd (u : Tile) (op : ScOp) (addr word : Word) : ScCmd :=
  ⟨op, u.ur.scancfg, addr, word, u.sr.bhkey, u.fe.iseq, (u.scan.pushes + 1) % 2 ^ 16⟩
/-- The scan engine with one more command in its FIFO. -/
def Tile.scPushed (u : Tile) (op : ScOp) (addr word : Word) : Scan :=
  { u.scan with fifo := u.scan.fifo ++ [u.scCmd op addr word], pushes := (u.scan.pushes + 1) % 2 ^ 16 }
/-- The tile after a word has read its y sources in order. -/
def Tile.popYs (t : Tile) : List YReg → Tile
  | [] => t
  | r :: rs => (t.popY r).2.popYs rs
/-- The thread waits at its word (R45). -/
def State.Waits (s : State) (u : Tile) (w : Wait) : State :=
  s.setT { u with ctl := { u.ctl with stat := .waiting w, since := s.tick, raised := false }, fe := { u.fe with flow := .wait } }
/-- The AMO forms (R323): operation, width, destination, address and operand registers. -/
def amoOf : Instr → Option (AForm × AWidth × XReg × XReg × XReg)
  | .amoadd w rd a b => some (.add, w, rd, a, b)
  | .amoand w rd a b => some (.and, w, rd, a, b)
  | .amoor w rd a b => some (.or, w, rd, a, b)
  | .amoxor w rd a b => some (.xor, w, rd, a, b)
  | .amomin w rd a b => some (.min, w, rd, a, b)
  | .amomax w rd a b => some (.max, w, rd, a, b)
  | .amoswap w rd a b => some (.swap, w, rd, a, b)
  | .amocas w rd a b => some (.cas, w, rd, a, b)
  | _ => none
/-- The DAMO forms (R325). -/
def damoOf : Instr → Option (DForm × AWidth × XReg × XReg × XReg)
  | .damoadd w rd a b => some (.add, w, rd, a, b)
  | .damomin w rd a b => some (.min, w, rd, a, b)
  | .damomax w rd a b => some (.max, w, rd, a, b)
  | _ => none

/-! ## The step around a word -/

/-- The tile of the thread p as the word at its fetch point finds it: the loop writes that are due have landed, the translation buffer is
the one the fetch leaves, the word is the executing one (R22, R258, R370). -/
def Tile.here (t : Tile) (tlb : List TlbEnt) : Tile :=
  { t with
    regs := { t.regs with loop := t.regs.loop.landDue }
    tlb := tlb
    fe := { t.fe with ipc := t.fe.pc, iseq := t.fe.seq, loops := t.regs.loop.landDue, flow := .seq } }

/-! ## Events as the statements name them -/

/-- Every tile but p is as it was. -/
def State.OtherTiles (s s' : State) (p : Nat) : Prop := ∀ q, q ≠ p → s'.tile q = s.tile q
/-- The value a loop register has once the delayed writes that are due have landed: the last of them, else what it held (R258). -/
def Loops.landed (l : Loops) (n : Level) (f : LoopField) : Word :=
  let old := match f with
    | .lc => (l.get n).lc
    | .ls => (l.get n).ls
    | .le => (l.get n).le
  (((l.lw.filter fun w => w.left == 0 && w.lvl == n && w.field == f).getLast?).map (·.val)).getD old
/-- Whether the thread of a tile waits for tile p to acknowledge an invalidation (R335). -/
def Tile.awaits (t : Tile) (p : Nat) : Bool :=
  match t.ctl.stat with
  | .waiting (.inval _ left) => left.contains p
  | _ => false
/-- Every member of a gang that waits at the WAIT of the boundary has taken a B cause there: it runs on in S at TVEC, EPC the WAIT (R356). -/
def State.BTrapped (s s' : State) (g : Gang) (code : Nat) : Prop :=
  ∀ e ∈ g.l2p, ∀ rd v, (s.tile e.2).ctl.stat = .waiting (.barrier rd v) →
    let u := s'.tile e.2
    u.ctl.stat = .running ∧ u.mode = 1 ∧ bitsOf u.sr.cause 7 0 = code ∧ u.sr.cause.getLsbD 8 = true ∧ u.sr.epc = (s.tile e.2).fe.pc ∧
    u.fe.pc = (s.tile e.2).sr.tvec
/-- What the DAMOs of some members leave staged, member by member and in program order, and each member's DAMOs with their old values (R117). -/
def State.damoRun (s : State) : List (Nat × Nat) → SMap Byte → SMap Byte × List (List Damo)
  | [], st => (st, [])
  | e :: r, st =>
    let a := (s.tile e.2).damos.foldl (applyDamo s.mem) (st, [])
    ((s.damoRun r a.1).1, a.2 :: (s.damoRun r a.1).2)
/-- The service runs and takes a request of session c: authentic, its SEQ past the session's last (R430). -/
def State.Accepts (s : State) (rq : Request) (c : Session) : Prop :=
  s.serving = true ∧ s.session? rq.session = some c ∧ rq.authentic = true ∧ ∀ n, c.last = some n → n < rq.seq
/-- The last reply is that of a request, which its session keeps under its SEQ (R430, R432). -/
def State.Answered (s : State) (rq : Request) (status reason : Nat) (body : List Word) : Prop :=
  let r := replyTo rq status reason body
  s.svc.replies.getLast? = some r ∧ ∃ c, s.session? rq.session = some c ∧ c.last = some rq.seq ∧ c.reply = some r

/-! ## Invariants -/

/-- What every tile keeps: its scratchpad, the scratchpads of its snapshot and of its checkpoints are in canonical form, and an
open task is among its tasks. -/
def Tile.Sound (t : Tile) : Prop :=
  Memory.wf t.spad = true ∧ (∀ k, t.snap = some k → Memory.wf k.spad = true) ∧ (∀ c ∈ t.task.cks, Memory.wf c.spad = true) ∧
  (t.task.opened = true → t.task.tasks ≠ [])

/-- What the package keeps: committed memory is in canonical form, and every tile is sound, those of saved contexts among them. -/
def State.Sound (s : State) : Prop :=
  Memory.wf s.mem = true ∧ (∀ e ∈ s.tiles, e.2.Sound) ∧
  ∀ g ∈ s.gangs, ∀ ctx, g.saved = some ctx → ∀ e ∈ ctx.tiles, e.2.Sound

end Sys2Proof.Machine
end

