-- ==== Sys2Proof/Certificates/Slice0/Obligations.lean ====
section
/-! DEFINITION. Obligations: the statements for the provers. Each is a property of every state, or of every state that meets
its premises on the state and the operands alone. -/

open Sys2Proof Sys2Proof.Machine

/-! ## Arithmetic words (R240 to R244) -/

/-- R241, R243, R244: the register forms but the divisions, the counts and SEL; the W forms, which read bits [31:0] of their sources and
sign-extend bit 31 of the result; the immediate and upper-immediate forms. When the registers are ready, each answers the state in which rd
holds its value of the sources. -/
def Obligations.IntegerForms : Prop :=
  (∀ (s : State) (rd rs1 rs2 : XReg), s.t.ReadyX [rs1, rs2] [rd] →
     exec (.add rd rs1 rs2) s = .next (s.wrote2 rd rs1 rs2 fun a b => a + b) ∧
     exec (.sub rd rs1 rs2) s = .next (s.wrote2 rd rs1 rs2 fun a b => a - b) ∧
     exec (.and rd rs1 rs2) s = .next (s.wrote2 rd rs1 rs2 fun a b => a &&& b) ∧
     exec (.or rd rs1 rs2) s = .next (s.wrote2 rd rs1 rs2 fun a b => a ||| b) ∧
     exec (.xor rd rs1 rs2) s = .next (s.wrote2 rd rs1 rs2 fun a b => a ^^^ b) ∧
     exec (.sll rd rs1 rs2) s = .next (s.wrote2 rd rs1 rs2 fun a b => a <<< (b.setWidth 6).toNat) ∧
     exec (.srl rd rs1 rs2) s = .next (s.wrote2 rd rs1 rs2 fun a b => a >>> (b.setWidth 6).toNat) ∧
     exec (.sra rd rs1 rs2) s = .next (s.wrote2 rd rs1 rs2 fun a b => a.sshiftRight (b.setWidth 6).toNat) ∧
     exec (.slt rd rs1 rs2) s = .next (s.wrote2 rd rs1 rs2 fun a b => if a.toInt < b.toInt then 1 else 0) ∧
     exec (.sltu rd rs1 rs2) s = .next (s.wrote2 rd rs1 rs2 fun a b => if a.toNat < b.toNat then 1 else 0) ∧
     exec (.min rd rs1 rs2) s = .next (s.wrote2 rd rs1 rs2 fun a b => if a.toInt ≤ b.toInt then a else b) ∧
     exec (.max rd rs1 rs2) s = .next (s.wrote2 rd rs1 rs2 fun a b => if a.toInt ≤ b.toInt then b else a) ∧
     exec (.minu rd rs1 rs2) s = .next (s.wrote2 rd rs1 rs2 fun a b => if a.toNat ≤ b.toNat then a else b) ∧
     exec (.maxu rd rs1 rs2) s = .next (s.wrote2 rd rs1 rs2 fun a b => if a.toNat ≤ b.toNat then b else a) ∧
     exec (.mul rd rs1 rs2) s = .next (s.wrote2 rd rs1 rs2 fun a b => BitVec.ofNat 64 (a.toNat * b.toNat)) ∧
     exec (.mulh rd rs1 rs2) s = .next (s.wrote2 rd rs1 rs2 fun a b =>
       ((a.signExtend 128 * b.signExtend 128) >>> 64).setWidth 64) ∧
     exec (.mulhu rd rs1 rs2) s = .next (s.wrote2 rd rs1 rs2 fun a b =>
       ((a.setWidth 128 * b.setWidth 128) >>> 64).setWidth 64)) ∧
  (∀ (s : State) (rd rs1 rs2 : XReg), s.t.ReadyX [rs1, rs2] [rd] →
     exec (.addw rd rs1 rs2) s = .next (s.wrote2 rd rs1 rs2 fun a b => (a.setWidth 32 + b.setWidth 32 : BitVec 32).signExtend 64) ∧
     exec (.subw rd rs1 rs2) s = .next (s.wrote2 rd rs1 rs2 fun a b => (a.setWidth 32 - b.setWidth 32 : BitVec 32).signExtend 64) ∧
     exec (.sllw rd rs1 rs2) s = .next (s.wrote2 rd rs1 rs2 fun a b =>
       (a.setWidth 32 <<< (b.setWidth 5).toNat : BitVec 32).signExtend 64) ∧
     exec (.srlw rd rs1 rs2) s = .next (s.wrote2 rd rs1 rs2 fun a b =>
       (a.setWidth 32 >>> (b.setWidth 5).toNat : BitVec 32).signExtend 64) ∧
     exec (.sraw rd rs1 rs2) s = .next (s.wrote2 rd rs1 rs2 fun a b =>
       ((a.setWidth 32).sshiftRight (b.setWidth 5).toNat : BitVec 32).signExtend 64)) ∧
  ((∀ (s : State) (rd rs1 : XReg) (imm : BitVec 12) (sh : BitVec 6), s.t.ReadyX [rs1] [rd] →
     exec (.addi rd rs1 imm) s = .next (s.wrote1 rd rs1 fun a => a + imm.signExtend 64) ∧
     exec (.slti rd rs1 imm) s = .next (s.wrote1 rd rs1 fun a => if a.toInt < imm.toInt then 1 else 0) ∧
     exec (.sltiu rd rs1 imm) s = .next (s.wrote1 rd rs1 fun a => if a.toNat < (imm.signExtend 64).toNat then 1 else 0) ∧
     exec (.xori rd rs1 imm) s = .next (s.wrote1 rd rs1 fun a => a ^^^ imm.signExtend 64) ∧
     exec (.ori rd rs1 imm) s = .next (s.wrote1 rd rs1 fun a => a ||| imm.signExtend 64) ∧
     exec (.andi rd rs1 imm) s = .next (s.wrote1 rd rs1 fun a => a &&& imm.signExtend 64) ∧
     exec (.addiw rd rs1 imm) s = .next (s.wrote1 rd rs1 fun a => (a.setWidth 32 + imm.signExtend 32 : BitVec 32).signExtend 64) ∧
     exec (.slli rd rs1 sh) s = .next (s.wrote1 rd rs1 fun a => a <<< sh.toNat) ∧
     exec (.srli rd rs1 sh) s = .next (s.wrote1 rd rs1 fun a => a >>> sh.toNat) ∧
     exec (.srai rd rs1 sh) s = .next (s.wrote1 rd rs1 fun a => a.sshiftRight sh.toNat)) ∧
   ∀ (s : State) (rd : XReg) (imm : BitVec 20), s.t.ReadyX [] [rd] →
     exec (.lui rd imm) s = .next (s.setT (s.t.putX rd ((imm ++ 0#12 : BitVec 32).signExtend 64))) ∧
     exec (.auipc rd imm) s = .next (s.setT (s.t.putX rd (s.t.fe.ipc + (imm ++ 0#12 : BitVec 32).signExtend 64))))

/-- R242, whole: the four divisions complete on every operand pair with the results of its table. -/
def Obligations.DivisionForms : Prop :=
  ∀ (s : State) (rd rs1 rs2 : XReg), s.t.ReadyX [rs1, rs2] [rd] →
    ∃ q qu r ru : Word → Word → Word,
      exec (.div rd rs1 rs2) s = .next (s.wrote2 rd rs1 rs2 q) ∧ exec (.divu rd rs1 rs2) s = .next (s.wrote2 rd rs1 rs2 qu) ∧
      exec (.rem rd rs1 rs2) s = .next (s.wrote2 rd rs1 rs2 r) ∧ exec (.remu rd rs1 rs2) s = .next (s.wrote2 rd rs1 rs2 ru) ∧
      ∀ a b : Word,
        (b = 0 → q a b = ones64 ∧ qu a b = ones64 ∧ r a b = a ∧ ru a b = a) ∧
        (a.toInt = -2 ^ 63 → b.toInt = -1 → (q a b).toInt = -2 ^ 63 ∧ r a b = 0) ∧
        (b ≠ 0 → ¬(a.toInt = -2 ^ 63 ∧ b.toInt = -1) →
          (q a b).toInt = a.toInt.tdiv b.toInt ∧ r a b = a - b * q a b) ∧
        (b ≠ 0 → (qu a b).toNat = a.toNat / b.toNat ∧ (ru a b).toNat = a.toNat % b.toNat)

/-- R241, CLZ, CTZ, CNT and SEL: the counts by what they count, SEL by its condition, which is rd before it is written. -/
def Obligations.CountForms : Prop :=
  ∀ (s : State) (rd rs1 rs2 : XReg),
    (s.t.ReadyX [rs1] [rd] → ∃ lz tz ct : Word → Word,
      exec (.clz rd rs1) s = .next (s.wrote1 rd rs1 lz) ∧ exec (.ctz rd rs1) s = .next (s.wrote1 rd rs1 tz) ∧
      exec (.cnt rd rs1) s = .next (s.wrote1 rd rs1 ct) ∧
      ∀ a : Word,
        ((lz a).toNat ≤ 64 ∧ (∀ i, i < (lz a).toNat → a.getMsbD i = false) ∧ ((lz a).toNat < 64 → a.getMsbD (lz a).toNat = true)) ∧
        ((tz a).toNat ≤ 64 ∧ (∀ i, i < (tz a).toNat → a.getLsbD i = false) ∧ ((tz a).toNat < 64 → a.getLsbD (tz a).toNat = true)) ∧
        (ct a).toNat = (List.range 64).countP fun i => a.getLsbD i) ∧
    (s.t.ReadyX [rs1, rs2, rd] [rd] →
      exec (.sel rd rs1 rs2) s = .next (s.wrote2 rd rs1 rs2 fun a b => if s.t.xval rd ≠ 0 then a else b))

/-- The frame of the arithmetic words (R240, R243): an arithmetic word that issues changes its own tile only, of it only registers and
ports: no x register but rd, no y, v, m or j register, no loop register; a port loses what the word reads and gains what it
writes; no flag, special register, accumulator or exception register; every byte reads as before. R246: one whose rd is the destination of
an outstanding load or of a result in flight does not wait for it (but at a port, R222): with its sources and ports ready it completes, as in a state in
which that load's response and that result are written nowhere. (That a late response is written nowhere is the model's deduction from R246 and R223: log 13.) -/
def Obligations.ArithmeticFrame : Prop :=
  (∀ (i : Instr) (srcs : List XReg) (rd : XReg) (s s' : State), aluShape i = some (srcs, rd) → i.wf = true → s.t.ReadyX srcs [rd] →
    exec i s = .next s' →
    s.OnlyTile s' ∧ s.t.OnlyRegs s'.t ∧ s.t.SameX s'.t rd ∧ s.SameBytes s' ∧
    s'.t.regs.y = s.t.regs.y ∧ s'.t.regs.v = s.t.regs.v ∧ s'.t.regs.m = s.t.regs.m ∧ s'.t.regs.j = s.t.regs.j ∧
    s'.t.regs.loop = s.t.regs.loop ∧
    s'.t.regs.qxa0 = s.t.regs.qxa0.drop (srcs.count 30) ∧ s'.t.regs.qxa1 = s.t.regs.qxa1.drop (srcs.count 31) ∧
    s'.t.regs.qax0.take s.t.regs.qax0.length = s.t.regs.qax0 ∧ s'.t.regs.qax1.take s.t.regs.qax1.length = s.t.regs.qax1 ∧
    s'.t.regs.qax0.length = s.t.regs.qax0.length + [rd].count 28 ∧
    s'.t.regs.qax1.length = s.t.regs.qax1.length + [rd].count 29) ∧
  ∀ (i : Instr) (srcs : List XReg) (rd : XReg) (s : State), aluShape i = some (srcs, rd) → rd ∉ srcs → rd ≠ 28 → rd ≠ 29 →
    s.t.SourcesReady srcs [rd] → s.t.busy rd = true →
    let u := (s.t.supersede [rd]).dropX [rd]
    exec i s = exec i (s.setT u) ∧ (∃ s', exec i s = .next s') ∧ u.busy rd = false ∧ u.regs = s.t.regs ∧ u.loads.length = s.t.loads.length

/-! ## Scalar loads and stores (R245 to R248) -/

/-- R246, R247: an aligned scalar load from the self window, behind no earlier split access, writes to rd the bytes at its address,
little-endian and extended, and does nothing else (the whole next state is named). -/
def Obligations.SelfLoad : Prop :=
  ∀ (i : Instr) (s : State) (rd rs1 : XReg) (imm : Word) (w : Nat) (sg : Bool) (off fmt span pln : Nat),
    loadOf i = some (rd, rs1, imm, w, sg) → s.t.ReadyX [rs1] [rd] →
    region ((s.t.popX rs1).1 + imm) = some (.self off fmt span pln) → ((s.t.popX rs1).1 + imm).toNat % w = 0 →
    (fmt = 1 ∨ pln = 0) → (s.t.popX rs1).2.behind (.self off fmt span pln) = false →
    ∃ v, s.t.Loaded span off w sg v ∧ exec i s = .next (s.setT ((s.t.popX rs1).2.putX rd v))

/-- R107, R246: a scalar load from a remote window of the gang, outside a task region, sends its request: one network item to the tile it
names, one outstanding load that will write rd. A scalar load from global memory that translates and whose read set has room is outstanding
for rd, with each byte's physical address and the byte the open task's GSB holds there. Each is a request and steps the route register
(R151). No register but a popped port changes. -/
def Obligations.FarLoads : Prop :=
  (∀ (i : Instr) (s : State) (rd rs1 : XReg) (imm : Word) (w : Nat) (sg : Bool) (l off fmt span g : Nat),
     loadOf i = some (rd, rs1, imm, w, sg) → s.t.ReadyX [rs1] [rd] →
     region ((s.t.popX rs1).1 + imm) = some (.remote l off fmt span) → ((s.t.popX rs1).1 + imm).toNat % w = 0 →
     fmt ≠ 1 → s.t.gang = some g → s.hasIndex (s.t.popX rs1).2 l = true → s.t.task.region = false →
     (s.t.popX rs1).2.behind (.remote l off fmt span) = false →
     ∃ s', exec i s = .next s' ∧
       s'.net = s.net ++ [⟨g, s.t.lidx, l, .load s.t.ctl.serial ((s.t.popX rs1).1 + imm) s.t.sr.bhkey [bytePieces off w] rd [], 0, false, s.tick,
         s.t.pair.count + 1⟩] ∧
       s'.t.loads = s.t.loads ++ [⟨s.t.ctl.serial, .remote, some rd, w, sg, (s.t.popX rs1).1 + imm, 1, none, s.tick⟩] ∧
       s'.t.sr = { s.t.sr with lfsr := lfsrStep s.t.sr.lfsr } ∧
       s'.t.regs = (s.t.popX rs1).2.regs ∧ s.SameBytes s' ∧ s'.t.ur = s.t.ur ∧ s'.t.ir = s.t.ir) ∧
  (∀ (i : Instr) (s : State) (rd rs1 : XReg) (imm : Word) (w : Nat) (sg : Bool) (va : Nat) (pas : List Nat) (u : Tile),
     loadOf i = some (rd, rs1, imm, w, sg) → s.t.ReadyX [rs1] [rd] →
     s.checkScalar (s.t.popX rs1).2 ((s.t.popX rs1).1 + imm) w false = (.ok (.global va, pas), u) → u.behind (.global va) = false →
     ∃ s', exec i s = .next s' ∧
       s'.t.loads = s.t.loads ++
         [⟨s.t.ctl.serial, .global (s.t.overlay pas s.t.openTask) s.t.openTask, some rd, w, sg, (s.t.popX rs1).1 + imm, 1, none, s.tick⟩] ∧
       s'.t.sr = { s.t.sr with lfsr := lfsrStep s.t.sr.lfsr } ∧
       s'.t.regs = (s.t.popX rs1).2.regs ∧ s.SameBytes s' ∧ s'.net = s.net ∧ s'.t.ur = s.t.ur ∧ s'.t.ir = s.t.ir)

/-- R36, R246, R247: an aligned scalar store to the self window, outside the schedule-table region it may not write and behind no earlier
split access, writes the low w bytes of its data at its address and no other byte of any memory; registers but popped ports stay. -/
def Obligations.SelfStore : Prop :=
  ∀ (i : Instr) (s : State) (rs2 rs1 : XReg) (imm : Word) (w : Nat) (off fmt span pln : Nat),
    storeOf i = some (rs2, rs1, imm, w) → s.t.ReadyX [rs1, rs2] [] →
    region ((s.t.popX rs1).1 + imm) = some (.self off fmt span pln) → ((s.t.popX rs1).1 + imm).toNat % w = 0 →
    (fmt = 1 ∨ pln = 0) → s.t.schedHit off w = false → Memory.wf s.t.spad = true →
    ((s.t.popX rs1).2.popX rs2).2.behind (.self off fmt span pln) = false →
    ∃ s', exec i s = .next s' ∧
      (∀ k, k < w → s'.t.spadRead span s.t.sr.bhkey (off + k) = ((s.t.popX rs1).2.popX rs2).1.extractLsb' (8 * k) 8) ∧
      (∀ a, (∀ k, k < w → a ≠ placeOf span s.t.sr.bhkey (off + k)) → memRead a s'.t.spad = memRead a s.t.spad) ∧
      (∀ p, p ≠ s.cur → s'.tile p = s.tile p) ∧ s'.mem = s.mem ∧ s'.net = s.net ∧
      s'.t.regs = ((s.t.popX rs1).2.popX rs2).2.regs ∧ s'.t.ur = s.t.ur ∧ s'.t.mx = s.t.mx ∧ s'.t.env = s.t.env

/-- R92, R107, R246: a scalar store to a remote window, outside a task region, takes the lowest free journal entry and sends its bytes. A scalar
store to global memory that translates and has room enters its bytes in the open task's GSB. No byte of any memory changes yet. -/
def Obligations.FarStores : Prop :=
  (∀ (i : Instr) (s : State) (rs2 rs1 : XReg) (imm : Word) (w : Nat) (l off fmt span g n : Nat),
     storeOf i = some (rs2, rs1, imm, w) → s.t.ReadyX [rs1, rs2] [] →
     region ((s.t.popX rs1).1 + imm) = some (.remote l off fmt span) → ((s.t.popX rs1).1 + imm).toNat % w = 0 →
     fmt ≠ 1 → s.t.gang = some g → s.hasIndex ((s.t.popX rs1).2.popX rs2).2 l = true → s.t.task.region = false →
     ((s.t.popX rs1).2.popX rs2).2.behind (.remote l off fmt span) = false → s.t.freeEntry = some n →
     ∃ s' due, exec i s = .next s' ∧
       s'.net = s.net ++ [⟨g, s.t.lidx, l, .store n s.t.ctl.serial ((s.t.popX rs1).1 + imm) s.t.sr.bhkey
         (byteWrites off w ((s.t.popX rs1).2.popX rs2).1.toNat) s.t.ni.timedWin false, due, false, s.tick, s.t.pair.count + 1⟩] ∧
       s'.t.ni.journal = s.t.ni.journal ++ [⟨n, s.t.ctl.serial, l, (s.t.popX rs1).1 + imm⟩] ∧
       s.SameBytes s' ∧ s'.t.regs = ((s.t.popX rs1).2.popX rs2).2.regs ∧ s'.t.ur = s.t.ur ∧ s'.t.ir = s.t.ir) ∧
  (∀ (i : Instr) (s : State) (rs2 rs1 : XReg) (imm : Word) (w : Nat) (va : Nat) (pas : List Nat) (u : Tile),
     storeOf i = some (rs2, rs1, imm, w) → s.t.ReadyX [rs1, rs2] [] →
     s.checkScalar ((s.t.popX rs1).2.popX rs2).2 ((s.t.popX rs1).1 + imm) w true = (.ok (.global va, pas), u) →
     u.behind (.global va) = false → (s.t.task.opened = true → s.t.task.tasks ≠ []) →
     ∃ s', exec i s = .next s' ∧
       s'.t.getTask s.t.openTask = (s.t.getTask s.t.openTask).store (gsbBytes pas va ((s.t.popX rs1).2.popX rs2).1.toNat) ∧
       s.SameBytes s' ∧ s'.net = s.net ∧ s'.t.regs = ((s.t.popX rs1).2.popX rs2).2.regs ∧ s'.t.ur = s.t.ur ∧ s'.t.ir = s.t.ir)

/-- R245 step 2, R352: a scalar load or store whose address is not a multiple of its width takes the address
fault: EPC the word, TVAL the address, CODE 0x04, mode S, interrupts off with their enable saved, fetch from TVEC; rd and memory unchanged, the ports as
they are without what X words behind it have done. -/
def Obligations.MisalignedTraps : Prop :=
  ∀ (i : Instr) (s : State) (a : Word) (srcs dsts : List XReg) (w : Nat),
    ((∃ rd rs1 imm sg, loadOf i = some (rd, rs1, imm, w, sg) ∧ srcs = [rs1] ∧ dsts = [rd] ∧ a = (s.t.popX rs1).1 + imm) ∨
      ∃ rs2 rs1 imm, storeOf i = some (rs2, rs1, imm, w) ∧ srcs = [rs1, rs2] ∧ dsts = [] ∧ a = (s.t.popX rs1).1 + imm) →
    s.t.ReadyX srcs dsts → a.toNat % w ≠ 0 →
    ∃ s', exec i s = .next s' ∧ s'.t.sr.epc = s.t.fe.ipc ∧ s'.t.sr.tval = a ∧ s'.t.sr.cause = 4 ∧ s'.t.fe.pc = s.t.sr.tvec ∧
      s'.t.mode = 1 ∧ bitsOf s'.t.sr.status 3 2 = s.t.mode ∧ s'.t.sr.status.getLsbD 4 = false ∧
      s'.t.sr.status.getLsbD 5 = s.t.sr.status.getLsbD 4 ∧
      s'.t.regs.x = s.t.regs.x ∧ s'.t.regs.qxa0 = (s.t.rewind s.t.fe.iseq).1.regs.qxa0 ∧
      s'.t.regs.qxa1 = (s.t.rewind s.t.fe.iseq).1.regs.qxa1 ∧ (s.t.fe.ahead = [] → s'.t.regs.qxa0 = s.t.regs.qxa0 ∧ s'.t.regs.qxa1 = s.t.regs.qxa1) ∧
      s.SameBytes s'

/-- R246, R248: a split load of an aligned self-window address with no X entry waiting and no result in flight writes the bytes, extended, to yd; a split store writes
the low w bytes of ys at its address and no other byte. -/
def Obligations.SplitForms : Prop :=
  (∀ (i : Instr) (s : State) (yd : YReg) (rs1 : XReg) (imm : Word) (w : Nat) (sg : Bool) (off fmt span pln : Nat),
     loadYOf i = some (yd, rs1, imm, w, sg) → s.t.ReadyX [rs1] [] → s.t.ReadyY [] [yd] → s.t.fe.xq = [] → s.t.fe.res = [] →
     region ((s.t.popX rs1).1 + imm) = some (.self off fmt span pln) → ((s.t.popX rs1).1 + imm).toNat % w = 0 → (fmt = 1 ∨ pln = 0) →
     ∃ v, s.t.Loaded span off w sg v ∧ exec i s = .next (s.setT ((s.t.popX rs1).2.putY yd v))) ∧
  (∀ (i : Instr) (s : State) (ys : YReg) (rs1 : XReg) (imm : Word) (w : Nat) (off fmt span pln : Nat),
     storeYOf i = some (ys, rs1, imm, w) → s.t.ReadyX [rs1] [] → s.t.ReadyY [ys] [] → s.t.fe.xq = [] → s.t.fe.res = [] → Memory.wf s.t.spad = true →
     region ((s.t.popX rs1).1 + imm) = some (.self off fmt span pln) → ((s.t.popX rs1).1 + imm).toNat % w = 0 → (fmt = 1 ∨ pln = 0) →
     s.t.schedHit off w = false →
     ∃ s', exec i s = .next s' ∧
       (∀ k, k < w → s'.t.spadRead span s.t.sr.bhkey (off + k) = ((s.t.popX rs1).2.popY ys).1.extractLsb' (8 * k) 8) ∧
       (∀ a, (∀ k, k < w → a ≠ placeOf span s.t.sr.bhkey (off + k)) → memRead a s'.t.spad = memRead a s.t.spad) ∧
       (∀ p, p ≠ s.cur → s'.tile p = s.tile p) ∧ s'.mem = s.mem ∧ s'.net = s.net ∧
       s'.t.regs = ((s.t.popX rs1).2.popY ys).2.regs ∧ s'.t.ur = s.t.ur ∧ s'.t.mx = s.t.mx ∧ s'.t.env = s.t.env)

/-! ## Control flow (R249 to R257) -/

/-- R256, R257: a taken branch or jump disarms each armed level whose body its target lies outside; the end test of a word that fetch passes at p: a
level armed with its end at p counts down, level 1 first, to 0 when it expires; a count left over sends fetch to the start of its body, else fetch goes
on at p + 4; a level that is not hit keeps its count, and every level its body. -/
def Obligations.LoopRules : Prop :=
  (∀ (t : Tile) (target : Word),
     (t.jump target).fe.pc = target ∧ (t.jump target).fe.flow = .jump ∧
     ∀ n : Level,
       ((t.jump target).regs.loop.get n).ls = (t.regs.loop.get n).ls ∧ ((t.jump target).regs.loop.get n).le = (t.regs.loop.get n).le ∧
       ((t.regs.loop.get n).lc ≠ 0 →
         (target.toNat < (t.regs.loop.get n).ls.toNat ∨ (t.regs.loop.get n).le.toNat < target.toNat) →
         ((t.jump target).regs.loop.get n).lc = 0) ∧
       ((t.regs.loop.get n).ls.toNat ≤ target.toNat → target.toNat ≤ (t.regs.loop.get n).le.toNat →
         ((t.jump target).regs.loop.get n).lc = (t.regs.loop.get n).lc)) ∧
  (∀ (t : Tile) (p : Word),
     let l := t.regs.loop
     let hit := fun (k : Level) => (l.get k).lc ≠ 0 ∧ p = (l.get k).le
     (¬hit .one → ¬hit .zero → (t.pass p).fe.pc = p + 4 ∧ (t.pass p).regs.loop.get .zero = l.get .zero ∧
       (t.pass p).regs.loop.get .one = l.get .one) ∧
     (hit .one → (l.get .one).lc ≠ 1 → (t.pass p).fe.pc = (l.get .one).ls ∧
       ((t.pass p).regs.loop.get .one).lc = (l.get .one).lc - 1 ∧ (t.pass p).regs.loop.get .zero = l.get .zero) ∧
     ((hit .one → (l.get .one).lc = 1) → hit .zero → (l.get .zero).lc ≠ 1 → (t.pass p).fe.pc = (l.get .zero).ls ∧
       ((t.pass p).regs.loop.get .zero).lc = (l.get .zero).lc - 1 ∧ (hit .one → ((t.pass p).regs.loop.get .one).lc = 0) ∧
       (¬hit .one → (t.pass p).regs.loop.get .one = l.get .one)) ∧
     ((hit .one → (l.get .one).lc = 1) → (hit .zero → (l.get .zero).lc = 1) → (t.pass p).fe.pc = p + 4 ∧
       ∀ k : Level, (hit k → ((t.pass p).regs.loop.get k).lc = 0) ∧ (¬hit k → (t.pass p).regs.loop.get k = l.get k)) ∧
     ∀ k : Level, ((t.pass p).regs.loop.get k).ls = (l.get k).ls ∧ ((t.pass p).regs.loop.get k).le = (l.get k).le)

/-- R249, R250, R252: the six conditional branches read their sources and, when the condition holds, jump to PC + 4 x off; JAL and JALR write PC + 4
to rd, after rs1 is read, and jump, a JALR target that is not a multiple of 4 taking the address fault with rd unchanged; the prepared branches,
whose j registers keep bits [1:0] zero. -/
def Obligations.BranchForms : Prop :=
  (∀ (s : State) (rs1 rs2 : XReg) (off : BitVec 12), s.t.ReadyX [rs1, rs2] [] →
     let a := (s.t.popX rs1).1
     let b := ((s.t.popX rs1).2.popX rs2).1
     let u := ((s.t.popX rs1).2.popX rs2).2
     let go := fun (c : Prop) (_ : Decidable c) => s.setT (if c then u.jump (s.t.fe.ipc + off.signExtend 64 * 4) else u)
     exec (.beq rs1 rs2 off) s = .next (go (a = b) inferInstance) ∧ exec (.bne rs1 rs2 off) s = .next (go (a ≠ b) inferInstance) ∧
     exec (.blt rs1 rs2 off) s = .next (go (a.toInt < b.toInt) inferInstance) ∧
     exec (.bge rs1 rs2 off) s = .next (go (b.toInt ≤ a.toInt) inferInstance) ∧
     exec (.bltu rs1 rs2 off) s = .next (go (a.toNat < b.toNat) inferInstance) ∧
     exec (.bgeu rs1 rs2 off) s = .next (go (b.toNat ≤ a.toNat) inferInstance)) ∧
  ((∀ (s : State) (rd : XReg) (off : BitVec 20), s.t.ReadyX [] [rd] →
     exec (.jal rd off) s = .next (s.setT ((s.t.putX rd (s.t.fe.ipc + 4)).jump (s.t.fe.ipc + off.signExtend 64 * 4)))) ∧
   ∀ (s : State) (rd rs1 : XReg) (imm : BitVec 12), s.t.ReadyX [rs1] [rd] →
     let target := (s.t.popX rs1).1 + imm.signExtend 64
     (target.toNat % 4 = 0 →
       exec (.jalr rd rs1 imm) s = .next (s.setT (((s.t.popX rs1).2.putX rd (s.t.fe.ipc + 4)).jump target))) ∧
     (target.toNat % 4 ≠ 0 → exec (.jalr rd rs1 imm) s = .next (s.setT (s.t.trap (cAddress target))))) ∧
  (∀ (s : State) (j : JReg) (rs1 : XReg) (off : BitVec 17),
     (∃ v : Word, exec (.pbr j off) s = .next (s.setT (s.t.putJ j v)) ∧ v = s.t.fe.ipc + off.signExtend 64 * 4 ∧
       ((s.t.putJ j v).jval j).toNat % 4 = 0 ∧ (v.toNat % 4 = 0 → (s.t.putJ j v).jval j = v)) ∧
     exec (.bj j) s = .next (s.setT (s.t.jump (s.t.jval j))) ∧
     (s.t.ReadyX [rs1] [] →
       exec (.bjz j rs1) s = .next (s.setT (if (s.t.popX rs1).1 = 0 then (s.t.popX rs1).2.jump (s.t.jval j) else (s.t.popX rs1).2)) ∧
       exec (.bjnz j rs1) s = .next (s.setT (if (s.t.popX rs1).1 ≠ 0 then (s.t.popX rs1).2.jump (s.t.jval j) else (s.t.popX rs1).2))))

/-- R254, R255, R257, R258: LOOP and LOOPI write their level's start, end and count, LCLR clears them; the write is immediate but for a word inside the
level's own armed body, from inside the other level's body too; there it is delayed, and the three instructions after the word see the old values, the
fourth the new ones. A count of 0 goes on at the word after the body, a taken jump for the levels, which disarms each armed level whose body that
word lies outside. -/
def Obligations.LoopForms : Prop :=
  (∀ (s : State) (n : Level) (rs1 : XReg) (cnt : BitVec 9) (fin : BitVec 12), s.t.ReadyX [rs1] [] →
     let l := s.t.regs.loop
     let own := (l.get n).lc ≠ 0 ∧ (l.get n).ls.toNat ≤ s.t.fe.ipc.toNat ∧ s.t.fe.ipc.toNat ≤ (l.get n).le.toNat
     let ls := s.t.fe.ipc + 4
     let le := s.t.fe.ipc + fin.setWidth 64 * 4
     ∃ wr : Tile → Word → Word → Word → Tile,
       exec (.loop n rs1 fin) s = .next (s.setT (
         if (s.t.popX rs1).1 = 0 then (wr (s.t.popX rs1).2 0 ls le).jump (le + 4) else wr (s.t.popX rs1).2 (s.t.popX rs1).1 ls le)) ∧
       exec (.loopi n cnt fin) s = .next (s.setT (if cnt = 0 then (wr s.t 0 ls le).jump (le + 4) else wr s.t (cnt.setWidth 64) ls le)) ∧
       exec (.lclr n) s = .next (s.setT (wr s.t 0 0 0)) ∧
       ∀ (t : Tile) (c a e : Word), t.regs.loop = l →
         (¬own → wr t c a e = { t with regs := { t.regs with loop := l.put n ⟨c, a, e⟩ } }) ∧
         (own → wr t c a e = { t with regs := { t.regs with
           loop := { l with lw := l.lw ++ [⟨n, .ls, a, 4⟩, ⟨n, .le, e, 4⟩, ⟨n, .lc, c, 4⟩] } } })) ∧
  (∀ (t : Tile) (p : Word), (t.pass p).regs.loop.lw = t.regs.loop.count.lw) ∧
  ∀ (l : Loops) (n : Level) (f : LoopField) (v : Word), l.lw = [⟨n, f, v, 4⟩] →
    (∀ k, k < 4 → (Nat.repeat Loops.count k l).landDue.get n = l.get n) ∧
    (Nat.repeat Loops.count 4 l).landDue = ({ l with lw := [] } : Loops).write n f v

/-! ## Vector memory (R268 to R273) -/

/-- R268 to R272: a vector load from the self window that passes the checks of R270, with no X entry, split load's data or result waiting, answers the state in
which each unmasked lane of vd is its stored element converted in, each masked-off lane is kept, and no byte has changed. -/
def Obligations.VectorLoad : Prop :=
  ∀ (i : Instr) (s : State) (ty : LTy) (vm : MReg) (vd : VReg) (a : Word) (f : VForm) (srcs : List XReg) (off fmt span pln : Nat),
    s.t.vloadOf i = some (ty, vm, vd, a, f, srcs) → s.t.ReadyX srcs [] → s.t.fe.xq = [] → s.t.fe.xl = [] → s.t.fe.res = [] →
    region a = some (.self off fmt span pln) → selfOk f ty fmt pln off s.t.ur.pstride →
    ∃ v fl, exec i s = .next (s.setT (((s.t.popXs srcs).putV vd v).flags fl)) ∧
      (∀ k, k < lanesOf ty → lane ty v k = if s.on ty vm k then
          BitVec.ofNat _ (convertIn fmt (pln + 1) ty (readPieces (s.t.spadRead span s.t.sr.bhkey)
            (lanePieces f ty fmt pln off s.t.ur.pstride k (s.t.idx ty f k)))).1
        else lane ty (s.t.vval vd) k) ∧
      ∀ b, fl.getLsbD b = (List.range (lanesOf ty)).any fun k => s.on ty vm k &&
        (convertIn fmt (pln + 1) ty (readPieces (s.t.spadRead span s.t.sr.bhkey)
          (lanePieces f ty fmt pln off s.t.ur.pstride k (s.t.idx ty f k)))).2.getLsbD b

/-- R268 to R273, R36, R87: a vector store to the self window that passes the checks of R270, with no X entry, split load's data or result waiting: every byte
outside the places of its unmasked lanes reads as before; where those places are apart, each lane's element reads back as its converted code, in a 4-bit
window and over the planes of PLANE too; the flags of those lanes are ORed into FFLAGS; registers but popped ports stay. By a U-mode thread with a schedule
table, a scatter leaves out the lanes that lie in the table's region, and the lowest of them is entered in the refusal queue, where there is room; any
other store of which an element lies there, masked off or not, traps with nothing stored. -/
def Obligations.VectorStore : Prop :=
  ∀ (i : Instr) (s : State) (ty : LTy) (vm : MReg) (vs : VReg) (a : Word) (f : VForm) (srcs : List XReg) (off fmt span pln : Nat),
    s.t.vstoreOf i = some (ty, vm, vs, a, f, srcs) → s.t.ReadyX srcs [] → s.t.fe.xq = [] → s.t.fe.xl = [] → s.t.fe.res = [] →
    Memory.wf s.t.spad = true → region a = some (.self off fmt span pln) → selfOk f ty fmt pln off s.t.ur.pstride →
    let ps := fun k => lanePieces f ty fmt pln off s.t.ur.pstride k (s.t.idx ty f k)
    let code := fun k => convertOut fmt (pln + 1) ty (lane ty (s.t.vval vs) k).toNat
    let pl := fun (p : Piece) => placeOf span s.t.sr.bhkey p.off
    let apart := fun (p r : Piece) => pl p ≠ pl r ∨ p.bit + p.n ≤ r.bit ∨ r.bit + r.n ≤ p.bit
    let barred := fun k => s.t.user && s.t.task.hasSched && (ps k).any fun p => decide (Config.schedBase ≤ p.off)
    let indexed := ∃ r, f = .index r
    (¬indexed → (∃ k, k < lanesOf ty ∧ barred k = true) → exec i s = .next (s.setT (s.t.trap (cStorePerm a)))) ∧
    ((¬indexed → ∀ k, k < lanesOf ty → barred k = false) →
    ∃ s', exec i s = .next s' ∧
      (∀ q, (∀ k, k < lanesOf ty → s.on ty vm k = true → barred k = false → ∀ p ∈ ps k, q ≠ pl p) → memRead q s'.t.spad = memRead q s.t.spad) ∧
      ((∀ k j, k < lanesOf ty → j < lanesOf ty → k ≠ j → ∀ p ∈ ps k, ∀ r ∈ ps j, apart p r) →
        (∀ k, k < lanesOf ty → (ps k).Pairwise apart) →
        ∀ k, k < lanesOf ty → s.on ty vm k = true → barred k = false →
          readPieces (s'.t.spadRead span s.t.sr.bhkey) (ps k) = (code k).1 % 2 ^ (if fmt = 1 then pln + 1 else winBits fmt ty)) ∧
      (∀ b, s'.t.ur.fflags.getLsbD b = (s.t.ur.fflags.getLsbD b || (List.range (lanesOf ty)).any fun k =>
        s.on ty vm k && !barred k && (code k).2.getLsbD b)) ∧
      ((∀ k, k < lanesOf ty → s.on ty vm k = true → barred k = false) → s'.t.ni = s.t.ni) ∧
      (∀ low, (∃ k, k < lanesOf ty ∧ s.on ty vm k = true ∧ barred k = true ∧ ∃ p, (ps k).head? = some p ∧ p.off = low) →
        (∀ k, k < lanesOf ty → s.on ty vm k = true → barred k = true → ∀ p, (ps k).head? = some p → low ≤ p.off) →
        s.t.ni.refusals.length < Config.refusalDepth →
        s'.t.ni.refusals = s.t.ni.refusals ++ [⟨BitVec.ofNat 64 (a.toNat / 2 ^ 21 * 2 ^ 21 + low), 0, false, true⟩]) ∧
      (∀ p, p ≠ s.cur → s'.tile p = s.tile p) ∧ s'.mem = s.mem ∧ s'.net = s.net ∧ s'.t.regs = (s.t.popXs srcs).regs ∧
      s'.t.mx = s.t.mx ∧ s'.t.env = s.t.env ∧ s'.t.loads = s.t.loads)

/-- R107, R273: a vector load of a remote window outside a task region asks the tile it names for every lane's element, and its X part, which issues,
waits for the data with the mask that it supplies; one more load is outstanding; a vector store there takes the lowest free journal entry and sends the converted codes of its unmasked
lanes. A vector load of global memory that translates and whose read set has room is outstanding so, with the physical bytes of the lanes that its mask lets through (log 10); a vector
store enters the bytes of its unmasked lanes in the open task's GSB. No lane of v and no byte of memory changes. A gather or scatter of another region than the
self window takes the address fault (R270). -/
def Obligations.VectorFar : Prop :=
  (∀ (i : Instr) (s : State) (ty : LTy) (vm : MReg) (vd : VReg) (a : Word) (f : VForm) (srcs : List XReg) (l off fmt span g : Nat),
     s.t.ReadyX srcs [] → s.t.fe.xq = [] → s.t.fe.xl = [] → s.t.fe.res = [] → s.t.gang = some g →
     region a = some (.remote l off fmt span) → fmt ≠ 1 → (∀ vs, f ≠ .index vs) → s.hasIndex s.t l = true →
     extentOk f ty fmt 0 off 0 = true → (winBits fmt ty / 8 ≠ 0 → off % (winBits fmt ty / 8) = 0) → s.t.task.region = false →
     (s.t.vloadOf i = some (ty, vm, vd, a, f, srcs) →
       ∃ s', exec i s = .next s' ∧
         s'.net = s.net ++ [⟨g, s.t.lidx, l, .load s.t.ctl.serial a s.t.sr.bhkey
           ((List.range (lanesOf ty)).map fun k => lanePieces f ty fmt 0 off 0 k 0) vd [], 0, false, s.tick, s.t.pair.count + 1⟩] ∧
         s'.t.loads = (s.t.loads ++ [(⟨s.t.ctl.serial, .remote, none, 0, false, a, lanesOf ty, none, s.tick⟩ : Load)]).map
           (fun l : Load => if l.id = s.t.ctl.serial then l.masked (s.t.mval vm) else l) ∧
         s'.t.fe.xq = [] ∧ s'.t.fe.xl = [⟨s.t.fe.iseq, .loadV vd ⟨a, ty, vm, f, s.t.ur.pstride, s.t.sr.bhkey, s.t.user, s.t.task.hasSched,
           s.t.ctl.serial, [], []⟩ none, s.t.mval vm⟩] ∧
         s'.t.regs = (s.t.popXs srcs).regs ∧ s.SameBytes s' ∧ s'.t.ur = s.t.ur) ∧
     ∀ n, s.t.vstoreOf i = some (ty, vm, vd, a, f, srcs) → s.t.freeEntry = some n →
       ∃ s' due, exec i s = .next s' ∧
         s'.net = s.net ++ [⟨g, s.t.lidx, l, .store n s.t.ctl.serial a s.t.sr.bhkey
           (((List.range (lanesOf ty)).filter (s.on ty vm)).flatMap fun k =>
             writePieces (convertOut fmt 1 ty (lane ty (s.t.vval vd) k).toNat).1 (lanePieces f ty fmt 0 off s.t.ur.pstride k 0))
           s.t.ni.timedWin false, due, false, s.tick, s.t.pair.count + 1⟩] ∧
         s'.t.ni.journal = s.t.ni.journal ++ [⟨n, s.t.ctl.serial, l, a⟩] ∧
         s'.t.regs = (s.t.popXs srcs).regs ∧ s.SameBytes s') ∧
  (∀ (i : Instr) (s : State) (ty : LTy) (vm : MReg) (vd : VReg) (a : Word) (f : VForm) (srcs : List XReg) (va : Nat) (pas : List Nat) (u : Tile),
     s.t.ReadyX srcs [] → s.t.fe.xq = [] → s.t.fe.xl = [] → s.t.fe.res = [] →
     (s.t.vloadOf i = some (ty, vm, vd, a, f, srcs) → s.checkVec (s.t.popXs srcs) a f ty false = (.ok (.global va, pas), u) →
       ∃ s', exec i s = .next s' ∧
         s'.t.loads = (s.t.loads ++ [(⟨s.t.ctl.serial, .global (s.t.overlay pas s.t.openTask) s.t.openTask, none, laneBits ty / 8, false, a,
           lanesOf ty, none, s.tick⟩ : Load)]).map (fun l : Load => if l.id = s.t.ctl.serial then l.masked (s.t.mval vm) else l) ∧
         s'.t.fe.xq = [] ∧ s'.t.fe.xl = [⟨s.t.fe.iseq, .loadV vd ⟨a, ty, vm, f, s.t.ur.pstride, s.t.sr.bhkey, s.t.user, s.t.task.hasSched,
           s.t.ctl.serial, [], []⟩ none, s.t.mval vm⟩] ∧
         s'.t.regs = (s.t.popXs srcs).regs ∧ s.SameBytes s' ∧ s'.net = s.net ∧ s'.t.ur = s.t.ur) ∧
     (s.t.vstoreOf i = some (ty, vm, vd, a, f, srcs) → s.checkVec (s.t.popXs srcs) a f ty true = (.ok (.global va, pas), u) →
       (s.t.task.opened = true → s.t.task.tasks ≠ []) →
       ∃ s', exec i s = .next s' ∧
         s'.t.getTask s.t.openTask = (s.t.getTask s.t.openTask).store
           (((List.range (lanesOf ty)).filter (s.on ty vm)).flatMap fun k =>
             (List.range (laneBits ty / 8)).map fun b =>
               (pas.getD (k * (laneBits ty / 8) + b) 0, (laneVas f ty a.toNat k).getD b 0,
                 (lane ty (s.t.vval vd) k).extractLsb' (8 * b) 8)) ∧
         s'.t.regs = (s.t.popXs srcs).regs ∧ s.SameBytes s' ∧ s'.net = s.net ∧ s'.t.ur = s.t.ur)) ∧
  ∀ (i : Instr) (s : State) (ty : LTy) (vm : MReg) (vd r : VReg) (a : Word) (srcs : List XReg), s.t.ReadyX srcs [] →
    s.t.vloadOf i = some (ty, vm, vd, a, .index r, srcs) ∨ s.t.vstoreOf i = some (ty, vm, vd, a, .index r, srcs) →
    (∀ off fmt span pln, region a ≠ some (.self off fmt span pln)) → exec i s = .next (s.setT (s.t.trap (cAddress a)))

/-! ## Vector arithmetic (R275 to R283) -/

/-- R275: the integer forms, lane by lane, on lanes as bit vectors; no flag. -/
def Obligations.VectorInteger : Prop :=
  ∀ (s : State) (ty : LTy) (vm md : MReg) (vd vs1 vs2 : VReg),
    let w := laneBits ty
    let a := fun i => lane ty (s.t.vval vs1) i
    let b := fun i => lane ty (s.t.vval vs2) i
    s.Lanes (exec (.vadd ty vm vd vs1 vs2) s) ty vm vd (fun i => a i + b i) ∧
    s.Lanes (exec (.vsub ty vm vd vs1 vs2) s) ty vm vd (fun i => a i - b i) ∧
    s.Lanes (exec (.vmul ty vm vd vs1 vs2) s) ty vm vd (fun i => a i * b i) ∧
    s.Lanes (exec (.vmulh ty vm vd vs1 vs2) s) ty vm vd (fun i =>
      (((a i).signExtend (2 * w) * (b i).signExtend (2 * w)) >>> w).setWidth w) ∧
    s.Lanes (exec (.vmin ty vm vd vs1 vs2) s) ty vm vd (fun i => if (a i).toInt < (b i).toInt then a i else b i) ∧
    s.Lanes (exec (.vmax ty vm vd vs1 vs2) s) ty vm vd (fun i => if (a i).toInt < (b i).toInt then b i else a i) ∧
    s.Lanes (exec (.vand ty vm vd vs1 vs2) s) ty vm vd (fun i => a i &&& b i) ∧
    s.Lanes (exec (.vor ty vm vd vs1 vs2) s) ty vm vd (fun i => a i ||| b i) ∧
    s.Lanes (exec (.vxor ty vm vd vs1 vs2) s) ty vm vd (fun i => a i ^^^ b i) ∧
    s.Lanes (exec (.vsll ty vm vd vs1 vs2) s) ty vm vd (fun i => a i <<< ((b i).toNat % w)) ∧
    s.Lanes (exec (.vsrl ty vm vd vs1 vs2) s) ty vm vd (fun i => a i >>> ((b i).toNat % w)) ∧
    s.Lanes (exec (.vsra ty vm vd vs1 vs2) s) ty vm vd (fun i => (a i).sshiftRight ((b i).toNat % w)) ∧
    s.Lanes (exec (.vabs ty vm vd vs1) s) ty vm vd (fun i => if (a i).toInt < 0 then -(a i) else a i) ∧
    s.MaskOf (exec (.vcmpeq ty vm md vs1 vs2) s) ty vm md (fun i => (a i == b i, 0)) ∧
    s.MaskOf (exec (.vcmplt ty vm md vs1 vs2) s) ty vm md (fun i => (decide ((a i).toInt < (b i).toInt), 0)) ∧
    ∃ v, exec (.vsel ty vm vd vs1 vs2) s = .next (s.setT (s.t.putV vd v)) ∧
      ∀ i, i < lanesOf ty → lane ty v i = if s.on ty vm i then a i else b i

/-- R276, R277, R79, R81: the floating-point forms, lane by lane, each with the flags of its unmasked lanes. The sign operations change
only the top bit and raise nothing. -/
def Obligations.VectorFloat : Prop :=
  ∀ (s : State) (ty : LTy) (vm md : MReg) (vd vs1 vs2 : VReg),
    let f := ffOf ty
    let a := fun i => (lane ty (s.t.vval vs1) i).toNat
    let b := fun i => (lane ty (s.t.vval vs2) i).toNat
    let c := fun i => (lane ty (s.t.vval vd) i).toNat
    s.FLanes (exec (.vfadd ty vm vd vs1 vs2) s) ty vm vd (fun i => fAdd f (a i) (b i)) ∧
    s.FLanes (exec (.vfsub ty vm vd vs1 vs2) s) ty vm vd (fun i => fSub f (a i) (b i)) ∧
    s.FLanes (exec (.vfmul ty vm vd vs1 vs2) s) ty vm vd (fun i => fMul f (a i) (b i)) ∧
    s.FLanes (exec (.vfma ty vm vd vs1 vs2) s) ty vm vd (fun i => fMadd f (a i) (b i) (c i)) ∧
    s.FLanes (exec (.vfms ty vm vd vs1 vs2) s) ty vm vd (fun i => fMsub f (a i) (b i) (c i)) ∧
    s.FLanes (exec (.vfmin ty vm vd vs1 vs2) s) ty vm vd (fun i => fMinMax f false (a i) (b i)) ∧
    s.FLanes (exec (.vfmax ty vm vd vs1 vs2) s) ty vm vd (fun i => fMinMax f true (a i) (b i)) ∧
    s.FLanes (exec (.vsqrt ty vm vd vs1) s) ty vm vd (fun i => fSqrt f (a i)) ∧
    s.FLanes (exec (.vrsqrt ty vm vd vs1) s) ty vm vd (fun i => fRsqrt f (a i)) ∧
    s.FLanes (exec (.vrecip ty vm vd vs1) s) ty vm vd (fun i => fRecip f (a i)) ∧
    s.FLanes (exec (.vexp2 ty vm vd vs1) s) ty vm vd (fun i => fExp2 f (a i)) ∧
    s.Lanes (exec (.vfabs ty vm vd vs1) s) ty vm vd (fun i =>
      lane ty (s.t.vval vs1) i &&& ~~~BitVec.twoPow _ (laneBits ty - 1)) ∧
    s.Lanes (exec (.vfneg ty vm vd vs1) s) ty vm vd (fun i =>
      lane ty (s.t.vval vs1) i ^^^ BitVec.twoPow _ (laneBits ty - 1)) ∧
    s.MaskOf (exec (.vfcmpeq ty vm md vs1 vs2) s) ty vm md (fun i => fCmp f .eq (a i) (b i)) ∧
    s.MaskOf (exec (.vfcmplt ty vm md vs1 vs2) s) ty vm md (fun i => fCmp f .lt (a i) (b i)) ∧
    s.MaskOf (exec (.vfcmple ty vm md vs1 vs2) s) ty vm md (fun i => fCmp f .le (a i) (b i))

/-- R278 to R280: the permutes move lanes' bits unchanged; VPACK narrows and VWIDEN widens under R69 to R72, the mask governing the
destination's lanes; VCVT converts the lanes both formats have, with their flags ORed into FFLAGS, and clears the rest. -/
def Obligations.VectorPermute : Prop :=
  ∀ (s : State) (ty : LTy) (vm : MReg) (vd vs1 vs2 : VReg),
    let n := lanesOf ty
    let a := fun i => lane ty (s.t.vval vs1) i
    let b := fun i => lane ty (s.t.vval vs2) i
    s.Lanes (exec (.vperm ty vm vd vs1 vs2) s) ty vm vd (fun i => a ((b i).toNat % n)) ∧
    s.Lanes (exec (.vshuf ty vm vd vs1 vs2) s) ty vm vd (fun i =>
      let j := (lane ty (s.t.vval vd) i).toNat % (2 * n)
      if j < n then a j else b (j - n)) ∧
    s.Lanes (exec (.vzip ty vm vd vs1 vs2) s) ty vm vd (fun i => if i % 2 = 0 then a (i / 2) else b (i / 2)) ∧
    s.Lanes (exec (.vunzip ty vm vd vs1 vs2) s) ty vm vd (fun i => if i < n / 2 then a (2 * i) else b (2 * (i - n / 2))) ∧
    (∀ (y : YReg), s.t.ReadyY [y] [] →
      let u := (s.t.popY y).2
      let k := (s.t.popY y).1.toNat
      (∃ v, exec (.vbcast ty vm vd vs1 y) s = .next (s.setT (u.putV vd v)) ∧
        ∀ i, i < n → lane ty v i = if s.on ty vm i then a (k % n) else lane ty (s.t.vval vd) i) ∧
      (∃ v, exec (.vslideup ty vm vd vs1 y) s = .next (s.setT (u.putV vd v)) ∧
        ∀ i, i < n → lane ty v i = if s.on ty vm i && decide (k ≤ i) then a (i - k) else lane ty (s.t.vval vd) i) ∧
      ∃ v, exec (.vslidedn ty vm vd vs1 y) s = .next (s.setT (u.putV vd v)) ∧
        ∀ i, i < n → lane ty v i = if s.on ty vm i && decide (i + k < n) then a (i + k) else lane ty (s.t.vval vd) i) ∧
    s.FLanes (exec (.vpack ty vm vd vs1 vs2) s) (narrowTy ty) vm vd (fun i =>
      convert (laneFmt (narrowTy ty)) (laneFmt ty) .rne false (if i < n then a i else b (i - n)).toNat) ∧
    (∀ half : Bool, s.FLanes (exec (.vwiden ty vm vd vs1 half) s) (wideTy ty) vm vd (fun i =>
      convert (laneFmt (wideTy ty)) (laneFmt ty) .rne false (a ((if half then n / 2 else 0) + i)).toNat)) ∧
    ∀ (dst src : NFmt) (rm : RMode) (sat : Bool), ∃ v fl,
      exec (.vcvt dst src rm sat vd vs1) s = .next (s.setT ((s.t.putV vd v).flags fl)) ∧
      (∀ i, i < 512 / nfBits dst → v.extractLsb' (nfBits dst * i) (nfBits dst) =
        if i < 512 / nfBits src then
          BitVec.ofNat _ (convert dst src rm sat ((s.t.vval vs1).extractLsb' (nfBits src * i) (nfBits src)).toNat).1
        else 0) ∧
      ∀ b, fl.getLsbD b = (List.range (min (512 / nfBits src) (512 / nfBits dst))).any fun i =>
        (convert dst src rm sat ((s.t.vval vs1).extractLsb' (nfBits src * i) (nfBits src)).toNat).2.getLsbD b

/-- R78, R281: the reductions over the pairwise tree, masked-off lanes entering as the identity of the operation. -/
def Obligations.VectorReduce : Prop :=
  ∀ (s : State) (ty : LTy) (vm : MReg) (vd vs1 : VReg),
    let w := laneBits ty
    let f := ffOf ty
    let int := fun (g : BitVec w → BitVec w → BitVec w) (a b : Nat) => ((g (BitVec.ofNat w a) (BitVec.ofNat w b)).toNat, (0 : Fl))
    (ty.isInt = true →
      s.Reduces (exec (.vredsum ty vm vd vs1) s) ty vm vd vs1 0 (int (· + ·)) ∧
      s.Reduces (exec (.vredmax ty vm vd vs1) s) ty vm vd vs1 (BitVec.intMin w).toNat
        (int fun a b => if a.toInt < b.toInt then b else a) ∧
      s.Reduces (exec (.vredmin ty vm vd vs1) s) ty vm vd vs1 (BitVec.intMax w).toNat
        (int fun a b => if a.toInt < b.toInt then a else b)) ∧
    (ty.isInt = false →
      s.Reduces (exec (.vredsum ty vm vd vs1) s) ty vm vd vs1 (f.signed true 0) (fAdd f) ∧
      s.Reduces (exec (.vredmax ty vm vd vs1) s) ty vm vd vs1 (f.signed true f.inf) (fMinMax f true) ∧
      s.Reduces (exec (.vredmin ty vm vd vs1) s) ty vm vd vs1 (f.signed false f.inf) (fMinMax f false))

/-- R282, R283: the lane moves and the mask forms. -/
def Obligations.LaneMovesAndMasks : Prop :=
  (∀ (s : State) (ty : LTy) (vm : MReg) (vd vs1 : VReg) (y y2 yd : YReg),
    (s.t.ReadyY [y, y2] [] → ∃ v, exec (.vinsy ty vd y y2) s = .next (s.setT (((s.t.popY y).2.popY y2).2.putV vd v)) ∧
      ∀ i, i < lanesOf ty → lane ty v i =
        if i = (s.t.popY y).1.toNat % lanesOf ty then ((s.t.popY y).2.popY y2).1.setWidth _ else lane ty (s.t.vval vd) i) ∧
    (s.t.ReadyY [y] [yd] → exec (.vexty ty yd vs1 y) s = .next (s.setT ((s.t.popY y).2.putY yd
      (let c := lane ty (s.t.vval vs1) ((s.t.popY y).1.toNat % lanesOf ty)
       if ty.isInt then c.signExtend 64 else c.setWidth 64)))) ∧
    (s.t.ReadyY [y] [] → ∃ v, exec (.vsplat ty vm vd y) s = .next (s.setT ((s.t.popY y).2.putV vd v)) ∧
      ∀ i, i < lanesOf ty → lane ty v i = if s.on ty vm i then (s.t.popY y).1.setWidth _ else lane ty (s.t.vval vd) i)) ∧
  ∀ (s : State) (md ms1 ms2 : MReg) (yd : YReg),
    exec (.mand md ms1 ms2) s = .next (s.setT (s.t.putM md (s.t.mval ms1 &&& s.t.mval ms2))) ∧
    exec (.mor md ms1 ms2) s = .next (s.setT (s.t.putM md (s.t.mval ms1 ||| s.t.mval ms2))) ∧
    exec (.mxor md ms1 ms2) s = .next (s.setT (s.t.putM md (s.t.mval ms1 ^^^ s.t.mval ms2))) ∧
    exec (.mnot md ms1) s = .next (s.setT (s.t.putM md (~~~s.t.mval ms1))) ∧
    (s.t.ReadyY [] [yd] → ∃ n k : Word, exec (.mpop yd ms1) s = .next (s.setT (s.t.putY yd n)) ∧
      exec (.mfirst yd ms1) s = .next (s.setT (s.t.putY yd k)) ∧
      n.toNat = ((List.range 64).countP fun i => (s.t.mval ms1).getLsbD i) ∧
      k.toNat ≤ 64 ∧ (∀ i, i < k.toNat → (s.t.mval ms1).getLsbD i = false) ∧
      (k.toNat < 64 → (s.t.mval ms1).getLsbD k.toNat = true))

/-- R260 to R265: the scalar floating-point forms: operands are the low w bits of their registers, the result fills yd, zero-extended
(an integer result of FCVT sign-extended), and the flags are ORed into FFLAGS. -/
def Obligations.ScalarFloat : Prop :=
  ∀ (s : State) (ty : LTy) (yd y1 y2 : YReg),
    let f := ffOf ty
    let w := laneBits ty
    let a := (s.t.popY y1).1.toNat % 2 ^ w
    let b := ((s.t.popY y1).2.popY y2).1.toNat % 2 ^ w
    let two := fun (r : Nat × Fl) =>
      Host.Outcome.next (φ := Fault) (ρ := Refusal) (s.setT ((((s.t.popY y1).2.popY y2).2.putY yd (BitVec.ofNat 64 r.1)).flags r.2))
    let one := fun (r : Nat × Fl) =>
      Host.Outcome.next (φ := Fault) (ρ := Refusal) (s.setT (((s.t.popY y1).2.putY yd (BitVec.ofNat 64 r.1)).flags r.2))
    (s.t.ReadyY [y1, y2] [yd] →
      exec (.fadd ty yd y1 y2) s = two (fAdd f a b) ∧ exec (.fsub ty yd y1 y2) s = two (fSub f a b) ∧
      exec (.fmul ty yd y1 y2) s = two (fMul f a b) ∧ exec (.fdiv ty yd y1 y2) s = two (fDiv f a b) ∧
      exec (.fmin ty yd y1 y2) s = two (fMinMax f false a b) ∧ exec (.fmax ty yd y1 y2) s = two (fMinMax f true a b) ∧
      ∀ cc, exec (.fcmp ty cc yd y1 y2) s = two ((if (fCmp f cc a b).1 then 1 else 0), (fCmp f cc a b).2)) ∧
    (s.t.ReadyY [y1, y2, yd] [yd] → exec (.fmadd ty yd y1 y2) s = two (fMadd f a b ((s.t.yval yd).toNat % 2 ^ w))) ∧
    (s.t.ReadyY [y1] [yd] →
      exec (.fsqrt ty yd y1) s = one (fSqrt f a) ∧ exec (.fclass ty yd y1) s = one (fClass f a, 0) ∧
      ∀ (dst : LTy) (rm : RMode) (sat : Bool),
        exec (.fcvt dst ty rm sat yd y1) s =
          one (let r := convert (laneFmt dst) (laneFmt ty) rm sat a
               (if dst.isInt then ((BitVec.ofNat (laneBits dst) r.1).signExtend 64).toNat else r.1, r.2)))

/-- The frame of the words that read and write v, m and y registers only (R267, R265, R275 to R283): their own tile only, of it
registers, ports and FFLAGS, which only gain bits; no x or j register, no loop register, no byte; a vector word with a v destination
changes no mask, one with a mask destination no v register, and no other register of that file. -/
def Obligations.VectorFrame : Prop :=
  ∀ (i : Instr) (s s' : State) (dv : Option VReg) (dm : Option MReg), vecShape i = some (dv, dm) → exec i s = .next s' →
    s.OnlyTile s' ∧ s.t.OnlyRegsFlags s'.t ∧ s.SameBytes s' ∧ s.t.ur.fflags &&& s'.t.ur.fflags = s.t.ur.fflags ∧
    s'.t.regs = { s.t.regs with v := s'.t.regs.v, m := s'.t.regs.m } ∧
    (∀ r, dv ≠ some r → s'.t.vval r = s.t.vval r) ∧ ∀ r, dm ≠ some r → s'.t.mval r = s.t.mval r

/-- The frame of the X-slice words with y operands (R260, R265, R278, R282, R283): their own tile only, of it registers, ports and
FFLAGS, which only gain bits; no x, m or j register, no loop register, no y register but yd, no v register but vd, no byte; the
ports to the X slice lose what is read, the ports to the A slice gain what is written. -/
def Obligations.ScalarFrame : Prop :=
  ∀ (i : Instr) (s s' : State) (srcs : List YReg) (dy : Option YReg) (dv : Option VReg),
    scalarShape i = some (srcs, dy, dv) → i.wf = true → s.t.ReadyY srcs dy.toList → exec i s = .next s' →
    s.OnlyTile s' ∧ s.t.OnlyRegsFlags s'.t ∧ s.SameBytes s' ∧ s.t.ur.fflags &&& s'.t.ur.fflags = s.t.ur.fflags ∧
    s'.t.regs.x = s.t.regs.x ∧ s'.t.regs.m = s.t.regs.m ∧ s'.t.regs.j = s.t.regs.j ∧ s'.t.regs.loop = s.t.regs.loop ∧
    (∀ r, dy ≠ some r → s'.t.yval r = s.t.yval r) ∧ (∀ r, dv ≠ some r → s'.t.vval r = s.t.vval r) ∧
    s'.t.regs.qax0 = s.t.regs.qax0.drop (srcs.count 14) ∧ s'.t.regs.qax1 = s.t.regs.qax1.drop (srcs.count 15) ∧
    s'.t.regs.qxa0.take s.t.regs.qxa0.length = s.t.regs.qxa0 ∧ s'.t.regs.qxa1.take s.t.regs.qxa1.length = s.t.regs.qxa1 ∧
    s'.t.regs.qxa0.length = s.t.regs.qxa0.length + dy.toList.count 12 ∧
    s'.t.regs.qxa1.length = s.t.regs.qxa1.length + dy.toList.count 13

/-! ## Engine pushes (R285 to R306) -/

/-- R290 to R296: with room in its FIFO, each matrix push whose check passes enters one command with the registers it takes and
does nothing else but pop its ports (MCFG writes MRING with POS; MZERO sets the mode a reader sees); one whose check fails takes the
trap the check names and pushes nothing.
R170, R297: MCMD outside a task region, for an aligned RAW record whose capability names a tile of the gang, takes the lowest free
journal entry and sends the record read from the scratchpad; no other state but popped ports and the route register changes. R298:
MSTAT answers the oldest completion with bit 32 set, or, with none outstanding, zeros; bits [47:40] are the modes. -/
def Obligations.MatrixPushes : Prop :=
  (∀ (s : State) (acc : AccReg) (y1 y2 : YReg) (int64 : Bool), s.t.mx.fifo.length < Config.fifoDepth → s.t.ReadyY [] [] →
     let a := (s.t.popY y1).1
     let b := ((s.t.popY y1).2.popY y2).1
     let u := ((s.t.popY y1).2.popY y2).2
     let pst := s.t.ur.pstride
     s.MxPush (exec .mrot s) s.t .mrot 0 0 0 [] false ∧
     (∃ m, (∀ k, k < 8 → m.getLsbD k = if k = acc.toNat then int64 else s.t.mx.xmodes.getLsbD k) ∧
       s.MxPush (exec (.mzero acc int64) s) { s.t with mx := { s.t.mx with xmodes := m } } .mzero acc 0 0 [] int64) ∧
     (s.t.ReadyY [y1] [] →
       (s.t.mcfgCheck a = none →
         let v := setField a 7 4 (s.t.lidx % 192 % 2 ^ bitsOf a 2 0)
         s.MxPush (exec (.mcfg y1) s) { (s.t.popY y1).2 with ur := { s.t.ur with mring := v } } .mcfg 0 v 0 [] false) ∧
       ∀ c, s.t.mcfgCheck a = some c → exec (.mcfg y1) s = .next (s.setT (s.t.trap c))) ∧
     (s.t.ReadyY [y1, y2] [] →
       (mmaCheck a b pst = none → s.MxPush (exec (.mma acc y1 y2) s) u .mma acc a b [] false) ∧
       (mldbCheck a b pst = none → s.MxPush (exec (.mldb y1 y2) s) u .mldb 0 b a [] false) ∧
       (s.t.accCheck a b true = none → s.MxPush (exec (.mrdacc acc y1 y2) s) u .mrdacc acc a b [] false) ∧
       (s.t.accCheck a b false = none → s.MxPush (exec (.mwracc acc y1 y2) s) u .mwracc acc a b [] false) ∧
       (∀ ws, s.t.mscaleCheck a b = .ok ws → s.MxPush (exec (.mscale y1 y2) s) u .mscale 0 b a ws false) ∧
       ∀ c, let trap : Out := .next (s.setT (s.t.trap c))
         (mmaCheck a b pst = some c → exec (.mma acc y1 y2) s = trap) ∧ (mldbCheck a b pst = some c → exec (.mldb y1 y2) s = trap) ∧
         (s.t.accCheck a b true = some c → exec (.mrdacc acc y1 y2) s = trap) ∧
         (s.t.accCheck a b false = some c → exec (.mwracc acc y1 y2) s = trap) ∧
         (s.t.mscaleCheck a b = .error c → exec (.mscale y1 y2) s = trap))) ∧
  ((∀ (s : State) (y1 : YReg) (off span n g : Nat), s.t.ReadyY [y1] [] →
     let u := (s.t.popY y1).2
     let w := fun k => BitVec.ofNat 64 (s.t.spadNat span s.t.sr.bhkey (off + 8 * k) 8)
     selfParts (s.t.popY y1).1 = some (off, 0, span, 0) → off % 64 = 0 → s.t.task.region = false → s.t.gang = some g →
     s.hasIndex s.t (bitsOf (w 3) 10 0) = true → s.t.freeEntry = some n →
     ∃ s' c clean, exec (.mcmd y1) s = .next s' ∧ c.op = .remote ∧ c.word = w 0 ∧ c.addr = w 1 ∧ c.sender = some (s.t.lidx, n) ∧
       c.acc = (w 2).setWidth 3 ∧ (clean = true ↔ (w 2).toNat < 8 ∧ w 4 = 0 ∧ w 5 = 0 ∧ w 6 = 0 ∧ w 7 = 0) ∧
       s'.net = s.net ++ [⟨g, s.t.lidx, bitsOf (w 3) 10 0, .mcmd n s.t.ctl.serial (w 3) c clean, 0, false, s.tick, s.t.pair.count + 1⟩] ∧
       s'.t.ni.journal = s.t.ni.journal ++ [⟨n, s.t.ctl.serial, bitsOf (w 3) 10 0, (s.t.popY y1).1⟩] ∧
       s'.t.regs = u.regs ∧ s'.t.mx = s.t.mx ∧ s'.t.ur = s.t.ur ∧ s.SameBytes s') ∧
   ∀ (s : State) (yd : YReg), s.t.ReadyY [] [yd] →
     (∀ e r, s.t.mx.cf = e :: r → exec (.mstat yd) s = .next (s.setT ({ s.t with mx := { s.t.mx with cf := r } }.putY yd
       (BitVec.ofNat 64 (e.toNat + 2 ^ 32 + s.t.mx.xmodes.toNat * 2 ^ 40))))) ∧
     (s.t.mx.cf = [] → s.t.mx.owed = 0 → exec (.mstat yd) s = .next (s.setT (s.t.putY yd (BitVec.ofNat 64 (s.t.mx.xmodes.toNat * 2 ^ 40))))) ∧
     (s.t.mx.cf = [] → s.t.mx.owed ≠ 0 → exec (.mstat yd) s = .next (s.setT s.t.hold)))

/-- R299, R300: with room in its FIFO and its registers ready, each envelope push enters its command with its operands and the ETOL, ELIMIT and
BHKEY it takes. ELD of a count above 256 takes the ILLEGAL trap; then ELD and EST, whose image is not at a 16-byte aligned RAW self-window
address or reaches past the scratchpad (EST: the largest image, 4,112 bytes), take the address fault, and EST into the schedule-table region
that it may not write (R36) the store-permission trap. With its FIFO full, a push holds. (Two clauses are the model's deductions: that
TVAL of EST's store-permission trap is its address, log 29; that a push holds at a full FIFO with its ports unpopped, log 35.) -/
def Obligations.EnvelopePushes : Prop :=
  (∀ (s : State) (ed ea eb : EReg) (y1 y2 yd : YReg), s.t.envq.length < Config.fifoDepth → s.t.ReadyY [] [] →
    let a := (s.t.popY y1).1
    let b := ((s.t.popY y1).2.popY y2).1
    let u1 := (s.t.popY y1).2
    let u := ((s.t.popY y1).2.popY y2).2
    let raw := fun (n : Nat) => ∃ off span, selfParts a = some (off, 0, span, 0) ∧ off % 16 = 0 ∧ off + n ≤ Config.scratchBytes
    exec (.eclr ed) s = .next (s.envPushed s.t (.eclr ed) (.eclr ed)) ∧
    exec (.emax ed ea eb) s = .next (s.envPushed s.t (.emax ed ea eb) (.emax ed ea eb)) ∧
    exec (.eadd ed ea eb) s = .next (s.envPushed s.t (.eadd ed ea eb) (.eadd ed ea eb)) ∧
    exec (.einf ed ea eb) s = .next (s.envPushed s.t (.einf ed ea eb) (.einf ed ea eb)) ∧
    exec (.econj ed ea) s = .next (s.envPushed s.t (.econj ed ea) (.econj ed ea)) ∧
    (s.t.ReadyY [] [yd] → exec (.ecnt yd ea) s = .next (s.envPushed s.t (.ecnt yd ea) (.ecnt yd ea))) ∧
    (s.t.ReadyY [y1] [yd] → exec (.eeval yd ea y1) s = .next (s.envPushed u1 (.eeval yd ea a) (.eeval yd ea y1))) ∧
    (s.t.ReadyY [y1] [] →
      (raw 4112 → s.t.schedHit (bitsOf a 20 0) 4112 = false → exec (.est ea y1) s = .next (s.envPushed u1 (.est ea a) (.est ea y1))) ∧
      (raw 4112 → s.t.schedHit (bitsOf a 20 0) 4112 = true → exec (.est ea y1) s = .next (s.setT (s.t.trap (cStorePerm a)))) ∧
      (¬raw 4112 → exec (.est ea y1) s = .next (s.setT (s.t.trap (cAddress a))))) ∧
    (s.t.ReadyY [y1, y2] [] →
      exec (.eins ed y1 y2) s = .next (s.envPushed u (.eins ed a b) (.eins ed y1 y2)) ∧
      (b.toNat ≤ 256 → raw (16 + 16 * b.toNat) → exec (.eld ed y1 y2) s = .next (s.envPushed u (.eld ed a b.toNat) (.eld ed y1 y2))) ∧
      (b.toNat ≤ 256 → ¬raw (16 + 16 * b.toNat) → exec (.eld ed y1 y2) s = .next (s.setT (s.t.trap (cAddress a)))) ∧
      (256 < b.toNat → exec (.eld ed y1 y2) s = .next (s.setT (s.t.trap (cIllegal 0)))))) ∧
  ∀ (s : State) (ed ea eb : EReg) (y1 y2 yd : YReg), s.t.envq.length = Config.fifoDepth → s.t.ReadyY [] [] →
    let holds := fun (i : Instr) => exec i s = .next (s.setT s.t.hold)
    holds (.eclr ed) ∧ holds (.emax ed ea eb) ∧ holds (.eadd ed ea eb) ∧ holds (.einf ed ea eb) ∧ holds (.econj ed ea) ∧
    (s.t.ReadyY [] [yd] → holds (.ecnt yd ea)) ∧ (s.t.ReadyY [y1] [yd] → holds (.eeval yd ea y1)) ∧
    (s.t.ReadyY [y1] [] → holds (.est ea y1)) ∧ (s.t.ReadyY [y1, y2] [] → holds (.eins ed y1 y2) ∧ holds (.eld ed y1 y2))

/-- R303 to R306: SCFG writes a value it accepts; with room in the FIFO each scan push whose check passes enters its command with the
SCANCFG and BHKEY it takes; SCLOSE is for the tail of a chain after its SPASS; SWAIT in U mode of a chain member, an arrival that ends the TIMED window, waits. -/
def Obligations.ScanPushes : Prop :=
  ∀ (s : State) (y1 y2 : YReg) (vd : VReg),
    let a := (s.t.popY y1).1
    let b := ((s.t.popY y1).2.popY y2).1
    let u1 := (s.t.popY y1).2
    let u := ((s.t.popY y1).2.popY y2).2
    (s.t.ReadyY [y1] [] →
      (scBad a = false → exec (.scfg y1) s = .next (s.setT { u1 with ur := { s.t.ur with scancfg := a } })) ∧
      (scBad a = true → exec (.scfg y1) s = .next (s.setT (s.t.trap (cIllegal 0))))) ∧
    (s.t.scan.fifo.length < Config.fifoDepth →
      (s.t.ReadyY [y1, y2] [] →
        (s.t.scCheck a b false = none → exec (.slocal y1 y2) s = .next (s.setT
          { u with scan := { u.scPushed .slocal a b with lastLocal := some s.t.ur.scancfg } })) ∧
        (s.t.scCheck a b true = none → exec (.sapply y1 y2) s = .next (s.setT { u with scan := u.scPushed .sapply a b }))) ∧
      (s.t.ReadyY [y1] [] → s.t.spassCheck a = none → exec (.spass y1) s = .next (s.setT
        { u1 with scan := { u1.scPushed .spass a 0 with everSpass := true, spassPushed := true } })) ∧
      (s.t.ReadyY [] [] → s.t.task.region = false → s.t.chMemb = true → s.t.chTail = true → s.t.scan.spassPushed = true →
        exec .sclose s = .next (s.setT { s.t with scan := s.t.scPushed .sclose 0 0 }))) ∧
    (s.t.user = true → s.t.task.region = false → s.t.chMemb = true →
      exec (.swait vd) s = .next (s.Waits { s.t with ni := { s.t.ni with timedWin := false } } (.swait vd)))

/-! ## Messages, copies, synchronisation (R309 to R328) -/

/-- R137, R318: SNDH of a well-formed header with payload opens the packet, without payload sends it; SND appends 16 bytes, and the last of them sends the packet under its
sequence number and keeps a replay entry, whose place an open packet already has. R384: a header to a stream queue takes one of its slots, and
waits while there is none, with its ports popped (R336). -/
def Obligations.SendForms : Prop :=
  ∀ (s : State) (rs1 rs2 : XReg), s.t.ReadyX [rs1, rs2] [] →
    let a := (s.t.popX rs1).1
    let b := ((s.t.popX rs1).2.popX rs2).1
    let u := ((s.t.popX rs1).2.popX rs2).2
    let sends := fun (out : Out) (h tag : Word) (data : List Word) (opens : Vector (Option OpenPkt) 3) =>
      ∀ g, s.t.gang = some g →
        let q := if hdrNote h then 4 else hdrQueue h
        let n := smGet 0 (seqKey (hdrDest h) q) s.t.ni.seqs
        ∃ s' due, out = .next s' ∧
          s'.net = s.net ++ [⟨g, s.t.lidx, hdrDest h, .packet ⟨s.t.lidx, q, hdrTimed h && s.t.ni.timedWin, hdrRdir h, n, tag, data⟩, due, false,
            s.tick, s.t.pair.count + 1⟩] ∧
          s'.t.ni.replay = s.t.ni.replay ++ [(hdrDest h, q, n)] ∧
          s'.t.ni.seqs = smPut (seqKey (hdrDest h) q) ((n + 1) % 2 ^ 32) s.t.ni.seqs ∧
          s'.t.ni.opens = opens ∧ s'.t.regs = u.regs ∧ s.SameBytes s'
    let room := s.t.ni.replay.length + (s.t.ni.opens.toList.filter (·.isSome)).length < Config.replayDepth
    (s.t.task.region = false → s.t.opened = none → s.headerFault s.t a = none → hdrLen a = 0 →
      (hdrNote a = true ∨ s.t.stream (hdrDest a) (hdrQueue a) = none) → room →
      sends (exec (.sndh rs1 rs2) s) a b [] s.t.ni.opens) ∧
    (s.t.task.region = false → s.t.opened = none → s.headerFault s.t a = none → hdrLen a ≠ 0 →
      ((hdrNote a = true ∨ s.t.stream (hdrDest a) (hdrQueue a) = none) → room →
        exec (.sndh rs1 rs2) s = .next (s.setT (u.setOpen (some ⟨a, b, []⟩)))) ∧
      (∀ k, hdrNote a = false → s.t.stream (hdrDest a) (hdrQueue a) = some k → k.free ≠ 0 → room →
        exec (.sndh rs1 rs2) s = .next (s.setT ((u.slotAdd (hdrDest a) (hdrQueue a) (· - 1)).setOpen (some ⟨a, b, []⟩)))) ∧
      (∀ k, hdrNote a = false → s.t.stream (hdrDest a) (hdrQueue a) = some k → k.free = 0 →
        exec (.sndh rs1 rs2) s = .next (s.Waits (s.t.stalled [rs1, rs2]) (.stream (hdrDest a) (hdrQueue a))))) ∧
    (∀ o, s.t.opened = some o →
      (o.data.length + 2 ≠ 4 * hdrLen o.hdr →
        exec (.snd rs1 rs2) s = .next (s.setT (u.setOpen (some { o with data := o.data ++ [a, b] })))) ∧
      (o.data.length + 2 = 4 * hdrLen o.hdr →
        sends (exec (.snd rs1 rs2) s) o.hdr o.tag (o.data ++ [a, b]) (s.t.ni.opens.setIfInBounds s.t.mode none))) ∧
    (s.t.opened = none → exec (.snd rs1 rs2) s = .next (s.setT (s.t.trap cPktSeq)))

/-- R40, R140, R142, R319, R321: RCV and RCVN of an enabled queue, outside a task region, deliver the oldest packet's address to rd and free the packet
delivered before, whose slot returns to its sender when the queue is a stream queue; with none RCVN answers all ones and RCV waits. WMSG waits for an entry; MBXPOP takes the oldest
one, or zeros. -/
def Obligations.ReceiveForms : Prop :=
  (∀ (s : State) (rd : XReg) (q : QNum), s.t.ReadyX [] [rd] → s.t.task.region = false → s.t.rqLog q.toNat ≠ 0 →
    let r := s.t.rq q.toNat
    let back : List Flight := if r.stream then (match r.delivered, s.t.gang with
      | some e, some g => [⟨g, s.t.lidx, e.src, .slotBack q.toNat none, 0, false, s.tick, s.t.pair.count + 1⟩]
      | _, _ => []) else []
    let s1 := { s with net := s.net ++ back }
    let freed := s.t.setRq q.toNat { r with delivered := none }
    (∀ e es, r.ents = e :: es → ∀ i, i = .rcv rd q ∨ i = .rcvn rd q →
      exec i s = .next (s1.setT ((s.t.setRq q.toNat { r with ents := es, delivered := some e }).putX rd
        (BitVec.ofNat 64 (Config.selfBase + e.off))))) ∧
    (r.ents = [] → exec (.rcvn rd q) s = .next (s1.setT (freed.putX rd ones64)) ∧
      exec (.rcv rd q) s = .next (s1.Waits freed (.rcv q rd)))) ∧
  ∀ (s : State) (rd rd2 : XReg),
    (s.t.ni.mbox ≠ [] → exec .wmsg s = .next s) ∧ (s.t.ni.mbox = [] → exec .wmsg s = .next (s.Waits s.t .wmsg)) ∧
    (s.t.ReadyX [] [rd, rd2] →
      (s.t.ni.mbox = [] → exec (.mbxpop rd rd2) s = .next (s.setT ((s.t.putX rd 0).putX rd2 0))) ∧
      ∀ e es, s.t.ni.mbox = e :: es →
        exec (.mbxpop rd rd2) s = .next (s.setT (({ s.t with ni := { s.t.ni with mbox := es } }.putX rd e.1).putX rd2 e.2)))

/-- R309 to R311: CPSET writes one copy register; CPLAUNCH of registers that pass the checks answers the next identifier and leaves the copy
waiting with a snapshot of the registers, or complete at once when it is empty, an ORDERED one too (that an empty ordered copy waits for no other is the model's choice: log 77); CPSTAT answers
0 for an identifier of no copy. -/
def Obligations.CopyForms : Prop :=
  (∀ (s : State) (rs1 : XReg), s.t.ReadyX [rs1] [] →
    let v := (s.t.popX rs1).1
    let u := (s.t.popX rs1).2
    let set := fun (c : CpRegs) => Host.Outcome.next (φ := Fault) (ρ := Refusal) (s.setT { u with cp := c })
    exec (.cpset 0 rs1) s = set { s.t.cp with csrc := v } ∧ exec (.cpset 1 rs1) s = set { s.t.cp with cdst := v } ∧
    exec (.cpset 2 rs1) s = set { s.t.cp with clen := v } ∧ exec (.cpset 3 rs1) s = set { s.t.cp with crows := v } ∧
    exec (.cpset 4 rs1) s = set { s.t.cp with csstr := v } ∧ exec (.cpset 5 rs1) s = set { s.t.cp with cdstr := v } ∧
    exec (.cpset 6 rs1) s = set { s.t.cp with cflags := v }) ∧
  (∀ (s : State) (rd : XReg), s.t.ReadyX [] [rd] → s.t.task.region = false → s.copyFault s.t s.t.cp = none →
    s.t.copies.length < Config.copyDepth →
    let u := { s.t with cpNext := nextCopyId s.t.cpNext }.putX rd (BitVec.ofNat 64 s.t.cpNext)
    (s.t.cp.clen ≠ 0 → s.t.cp.crows ≠ 0 → exec (.cplaunch rd) s = .next (s.setT { u with copies := s.t.copies ++
      [⟨s.t.cpNext, s.t.cp, s.t.user, s.t.sr.bhkey, s.t.openTask, s.t.fe.iseq, s.t.pair.count + 1, .waiting, 0, [], 0, 0, s.tick⟩] })) ∧
    ((s.t.cp.clen = 0 ∨ s.t.cp.crows = 0) → s.t.ni.held = [] → s.t.ni.mbox.length < Config.mailboxDepth →
      exec (.cplaunch rd) s = .next (s.setT { u with ni := { s.t.ni with mbox := s.t.ni.mbox ++ [(mboxWord 1 0 0 s.t.cpNext 0, 0)] } }))) ∧
  ∀ (s : State) (rd rs1 : XReg), s.t.ReadyX [rs1] [rd] →
    let id := (s.t.popX rs1).1
    let u := (s.t.popX rs1).2
    (2 ^ 16 ≤ id.toNat → exec (.cpstat rd rs1) s = .next (s.setT (s.t.trap (cIllegal 0)))) ∧
    (id.toNat < 2 ^ 16 → (∀ c ∈ s.t.copies, c.id ≠ id.toNat) → exec (.cpstat rd rs1) s = .next (s.setT (u.putX rd 0))) ∧
    ∀ c, id.toNat < 2 ^ 16 → s.t.copies.find? (fun c => c.id == id.toNat) = some c →
      exec (.cpstat rd rs1) s = .next (s.setT (u.putX rd c.word))

/-- R313: WAIT and WAITV in U mode, with no packet under assembly, no open task, no task region and every X entry issued, record the thread's
arrival in its die's barrier unit (with the low 32 bits of rs1 as its vote), close the TIMED window and wait. R314: one in S mode, with a packet
under assembly, or in an open task at an armed gang boundary takes the trap its check names. -/
def Obligations.WaitForms : Prop :=
  ∀ (s : State) (rd rs1 : XReg) (g : Gang),
    (s.t.user = true → s.t.opened = none → s.t.task.opened = false → s.t.task.region = false → s.t.fe.xq = [] → s.gangOf s.t = some g →
      let at_ := fun (v : Option Word) => s.setGang { g with bmus := g.bmus.modify (s.t.lidx / 192) fun b =>
        { b with arrived := smPut (s.t.lidx % 192) v b.arrived } }
      let shut := fun (u : Tile) => { u with ni := { u.ni with timedWin := false } }
      exec .wait s = .next ((at_ none).Waits (shut s.t) (.barrier none 0)) ∧
      (s.t.ReadyX [rs1] [rd] →
        let v := (s.t.popX rs1).1 &&& 0xFFFF_FFFF
        exec (.waitv rd rs1) s = .next ((at_ (some v)).Waits (shut (s.t.popX rs1).2) (.barrier (some rd) v)))) ∧
    ∀ i, i = .wait ∨ i = .waitv rd rs1 →
      (s.t.user = false → exec i s = .next (s.setT (s.t.trap (cIllegal 0)))) ∧
      (s.t.user = true → s.t.opened ≠ none → exec i s = .next (s.setT (s.t.trap cPktSeq))) ∧
      (s.t.user = true → s.t.opened = none → s.t.task.opened = true → s.atBoundary s.t = true →
        exec i s = .next (s.setT (s.t.trap cTaskOpen)))

/-- R315, R316: FENCE x0 completes when nothing it covers is outstanding and holds while something is; FENCE rd takes the lowest free token slot,
whose generation goes on, and answers it; FWAIT completes at once on a stale value, frees its token when its set is done, and waits else, with its port popped (R336). -/
def Obligations.FenceForms : Prop :=
  (∀ (s : State) (scope : BitVec 4), s.t.ReadyX [] [0] →
    ((∀ c ∈ s.t.covers scope, s.uncovered s.t c = false) → exec (.fence 0 scope) s = .next s) ∧
    ((∃ c ∈ s.t.covers scope, s.uncovered s.t c = true) → exec (.fence 0 scope) s = .next (s.setT s.t.hold))) ∧
  (∀ (s : State) (rd : XReg) (scope : BitVec 4) (n : Fin 8), rd ≠ 0 → s.t.ReadyX [] [rd] → (s.t.tokens[n]).held = false →
    (∀ m : Fin 8, m < n → (s.t.tokens[m]).held = true) →
    let g := nextGen (s.t.tokens[n]).gen
    exec (.fence rd scope) s = .next (s.setT ({ s.t with tokens := s.t.tokens.set n ⟨g, true, scope.getLsbD 3, s.t.covers scope⟩ }.putX rd
      (BitVec.ofNat 64 (g * 8 + n))))) ∧
  ∀ (s : State) (rs1 : XReg), s.t.ReadyX [rs1] [] →
    let v := (s.t.popX rs1).1
    let u := (s.t.popX rs1).2
    (s.t.token v = none → exec (.fwait rs1) s = .next (s.setT u)) ∧
    ∀ n, s.t.token v = some n →
      (s.tokenDone s.t n = true → exec (.fwait rs1) s = .next (s.setT (u.freeToken n))) ∧
      (s.tokenDone s.t n = false → exec (.fwait rs1) s = .next (s.Waits (s.t.stalled [rs1]) (.fwait n)))

/-- R323 to R326: an AMO that passes CheckAtomic sends its request to its slice and is outstanding for rd, sign-extended from its width;
a DAMO of an aligned, translating address with room in the store-buffer area joins the pending DAMOs and sends its request. Each is a
request and steps the route register (R151). No byte changes at the issue. -/
def Obligations.AtomicForms : Prop :=
  ∀ (i : Instr) (s : State) (w : AWidth) (rd rs1 rs2 : XReg) (g pa : Nat),
    let a := (s.t.popX rs1).1
    let b := ((s.t.popX rs1).2.popX rs2).1
    let u := ((s.t.popX rs1).2.popX rs2).2
    let low := fun (v : Word) => BitVec.ofNat 64 (v.toNat % 256 ^ wBytes w)
    s.t.gang = some g →
    (∀ f, amoOf i = some (f, w, rd, rs1, rs2) → s.t.ReadyX (if f = .cas then [rs1, rs2, rd] else [rs1, rs2]) [rd] →
      (s.checkAtomic u f w rd a).1 = .ok pa →
      ∃ s', exec i s = .next s' ∧
        s'.net = s.net ++ [⟨g, s.t.lidx, s.t.lidx, .amo s.t.ctl.serial pa w f (low b) (low (if f = .cas then s.t.xval rd else 0)), 0, false,
          s.tick, s.t.pair.count + 1⟩] ∧
        s'.t.loads = s.t.loads ++ [⟨s.t.ctl.serial, .amo, some rd, wBytes w, true, a, 1, none, s.tick⟩] ∧
        s'.t.sr = { s.t.sr with lfsr := lfsrStep s.t.sr.lfsr } ∧ s'.t.regs = u.regs ∧ s'.t.ur = s.t.ur ∧ s.SameBytes s') ∧
    ∀ f, damoOf i = some (f, w, rd, rs1, rs2) → s.t.ReadyX [rs1, rs2] [rd] → a.toNat < Config.globalTop → a.toNat % wBytes w = 0 →
      (s.translate u a.toNat .write s.t.user).1 = .ok pa → s.areaFits u 16 = true →
      ∃ s', exec i s = .next s' ∧
        s'.net = s.net ++ [⟨g, s.t.lidx, s.t.lidx, .damo s.t.ctl.serial, 0, false, s.tick, s.t.pair.count + 1⟩] ∧
        s'.t.damos = s.t.damos ++ [⟨s.t.ctl.serial, s.t.fe.iseq, pa, w, f, low b, rd, false, 0⟩] ∧
        s'.t.sr = { s.t.sr with lfsr := lfsrStep s.t.sr.lfsr } ∧ s'.t.regs = u.regs ∧ s'.t.ur = s.t.ur ∧ s.SameBytes s'

/-- R37, R38, R327, R328: TDONE ends the open task, which is final with all it holds and so goes to commit at the next gang boundary; the stamp
is the background's again; a task's copies hold TDONE; with no task open it has no effect. NEXT, when what it waits for is done and no task
is open, answers zeros at the end of the table; at an unconditional well-formed entry, in a run that is not serial, it opens the entry's
task: PC in rd, ARG in rd + 1, the cursor behind it, its stamp in TSTAMP. -/
def Obligations.TaskForms : Prop :=
  (∀ s : State, s.t.task.opened = true → s.t.taskCopies = false → ∃ s', exec .tdone s = .next s' ∧
    s'.t.task.opened = false ∧ s'.t.task.region = s.t.task.region ∧ s'.t.ir.tstamp = 0xFFFF_FFFF_FFFF ∧ s'.t.regs = s.t.regs ∧
    s'.t.ur = s.t.ur ∧ s.SameBytes s' ∧ s'.t.task.tasks.length = s.t.task.tasks.length ∧
    (∀ k, s.t.task.tasks.getLast? = some k → s'.t.task.tasks = s.t.task.tasks.dropLast ++ [{ k with final := true }])) ∧
  (∀ s : State, s.t.task.opened = true → s.t.taskCopies = true → exec .tdone s = .next (s.setT s.t.hold)) ∧
  (∀ s : State, s.t.task.opened = false → exec .tdone s = .next (s.setT s.t)) ∧
  ∀ (s : State) (rd : XReg), s.t.ReadyX [] [rd, rd + 1] → s.t.nextReady = true → s.t.task.opened = false →
    (s.t.atEnd = true → ∃ s', exec (.next rd) s = .next s' ∧ s'.t.regs = ((s.t.putX rd 0).putX (rd + 1) 0).regs ∧ s'.t.ur = s.t.ur ∧
      s'.t.task.tasks = s.t.task.tasks ∧ s.SameBytes s') ∧
    (s.t.atEnd = false → (s.t.entry s.t.ur.cursor).bad = false → (s.t.entry s.t.ur.cursor).cond = false →
      s.serialHold s.t (s.t.entry s.t.ur.cursor).ts s.t.ur.cursor = false →
      let e := s.t.entry s.t.ur.cursor
      ∃ s', exec (.next rd) s = .next s' ∧ s'.t.regs = ((s.t.putX rd e.pc).putX (rd + 1) e.arg).regs ∧
        s'.t.ur = { s.t.ur with cursor := s.t.ur.cursor + 1 } ∧ s'.t.ir.tstamp = BitVec.ofNat 64 e.ts ∧ s'.t.task.opened = true ∧
        s'.t.task.region = true ∧ s'.t.task.tasks.length = s.t.task.tasks.length + 1 ∧
        (∀ k, s'.t.task.tasks.getLast? = some k → k.ts = e.ts ∧ k.pos = s.t.ur.cursor ∧ k.final = false ∧ k.gsb = []) ∧ s.SameBytes s')

/-! ## Special registers, traps and privilege (R52, R329 to R335, R351 to R353, R361) -/

/-- R52, R53, R330, R361, R362: every special register has a number, and MFS of it in its slice answers it in rd, the S range outside U mode, the
loop registers as they stood before the word, CAPVAL once its MAC is there; MTS of it writes the bits the register has, or, of a
value outside its range or of a read-only register, takes the ILLEGAL trap: PERMIT in S mode; a loop register at once, or four instructions later
inside the armed body; STATUS without its MODE; RQBASE, RQSIZE, TICKCMP, INTPEND, CAPREQ and MERRLOG by the register events that the later
statements give. (That a written OVFSTAT.OFF loses its low five bits is the model's deduction: log 39.) -/
def Obligations.SpecialRegisters : Prop :=
  (∀ (s : State) (rd : XReg), s.t.ReadyX [] [rd] →
     let reads := fun (l : List (BitVec 12 × Word)) => ∀ e ∈ l, exec (.mfs (.x rd) e.1) s = .next (s.setT (s.t.putX rd e.2))
     let rq := fun (n : QNum) => (s.t.ur.rqbase[n.toNat]'n.isLt).toNat -
       (s.t.ur.rqbase[n.toNat]'n.isLt).toNat % 2 ^ bitsOf (s.t.ur.rqsize[n.toNat]'n.isLt) 4 0
     reads [(0x001, BitVec.ofNat 64 s.tick), (0x002, s.t.ir.tileid), (0x003, s.t.ir.domain), (0x004, s.t.ir.tstamp),
       (0x010, s.t.ur.pstride), (0x011, s.t.ir.permit), (0x018, BitVec.ofNat 64 (rq 0)), (0x019, BitVec.ofNat 64 (rq 1)),
       (0x01A, BitVec.ofNat 64 (rq 2)), (0x01B, BitVec.ofNat 64 (rq 3)), (0x01C, s.t.ur.rqsize[0]), (0x01D, s.t.ur.rqsize[1]),
       (0x01E, s.t.ur.rqsize[2]), (0x01F, s.t.ur.rqsize[3])] ∧
     reads [(0x020, s.t.fe.loops.l0.lc), (0x021, s.t.fe.loops.l0.ls), (0x022, s.t.fe.loops.l0.le), (0x023, s.t.fe.loops.l1.lc),
       (0x024, s.t.fe.loops.l1.ls), (0x025, s.t.fe.loops.l1.le), (0x028, s.t.regs.j[0]), (0x029, s.t.regs.j[1]),
       (0x02A, s.t.regs.j[2]), (0x02B, s.t.regs.j[3]), (0x048, s.t.ir.netstat), (0x049, s.t.ir.relstat), (0x04A, s.clkpat s.cur),
       (0x04B, s.t.ir.wearacc)] ∧
     (s.t.user = false → reads [(0x100, s.t.sr.status), (0x101, s.t.sr.cause), (0x102, s.t.sr.epc), (0x103, s.t.sr.tval),
       (0x104, s.t.sr.tvec), (0x108, s.t.sr.ssave[0]), (0x109, s.t.sr.ssave[1]), (0x10A, s.t.sr.ssave[2]), (0x10B, s.t.sr.ssave[3]),
       (0x110, s.t.sr.inten), (0x111, s.t.pending s.tick), (0x112, s.t.sr.tickcmp)] ∧
       reads [(0x118, s.t.sr.bwlimit), (0x119, s.t.sr.rslimit), (0x11A, (s.die (s.cur / 192)).dltimeout.setWidth 64), (0x120, s.t.sr.bhkey),
         (0x121, s.t.sr.lfsrseed), (0x128, s.t.sr.ovfbase), (0x129, s.t.sr.ovfsize), (0x12A, s.t.sr.ovfstat), (0x130, 0)]) ∧
     (s.t.user = false → s.t.sr.minting = none → reads [(0x131, s.t.sr.capval)]) ∧
     (s.t.user = false → s.t.sr.minting ≠ none → exec (.mfs (.x rd) 0x131) s = .next (s.setT s.t.hold))) ∧
  (∀ (s : State) (rs1 : XReg), s.t.ReadyX [rs1] [] →
     let v := (s.t.popX rs1).1
     let u := (s.t.popX rs1).2
     let ends := fun (n : BitVec 12) (t : Tile) => exec (.mts n (.x rs1)) s = .next (s.setT t)
     let acts := fun (n : BitVec 12) (i : Instr) => ∃ s', exec (.mts n (.x rs1)) s = .next s' ∧ (s.cur < Config.tiles → exec i (s.setT u) = .next s')
     let bad := s.t.trap (cIllegal 0)
     let sr := fun (r : SRegs) => { u with sr := r }
     (ends 0x010 { u with ur := { s.t.ur with pstride := v &&& 0x1F_FFF0 } } ∧
       (∀ n : QNum,
         (s.t.rqOverlap (bitsOf v 20 0) (s.t.rqLog n.toNat) = false → acts (0x018 + n.setWidth 12) (.rqRegionWrite s.cur n false v)) ∧
         (s.t.rqOverlap (bitsOf v 20 0) (s.t.rqLog n.toNat) = true → ends (0x018 + n.setWidth 12) bad) ∧
         let k := bitsOf v 4 0
         let fits := (k = 0 ∨ (10 ≤ k ∧ k ≤ 19)) ∧ s.t.rqOverlap (s.t.ur.rqbase[n.toNat]'n.isLt).toNat k = false
         (fits → acts (0x01C + n.setWidth 12) (.rqRegionWrite s.cur n true v)) ∧ (¬fits → ends (0x01C + n.setWidth 12) bad)) ∧
       (∀ e ∈ [((0x020 : BitVec 12), Level.zero, LoopField.lc, v), (0x021, .zero, .ls, v &&& ~~~3#64), (0x022, .zero, .le, v &&& ~~~3#64),
           (0x023, .one, .lc, v), (0x024, .one, .ls, v &&& ~~~3#64), (0x025, .one, .le, v &&& ~~~3#64)],
         let r := s.t.fe.loops.get e.2.1
         let inside := r.lc ≠ 0 ∧ r.ls.toNat ≤ s.t.fe.ipc.toNat ∧ s.t.fe.ipc.toNat ≤ r.le.toNat
         (¬inside → ends e.1 { u with regs := { u.regs with loop := u.regs.loop.write e.2.1 e.2.2.1 e.2.2.2 } }) ∧
         (inside → ends e.1 { u with regs := { u.regs with loop := { u.regs.loop with
           lw := u.regs.loop.lw ++ [⟨e.2.1, e.2.2.1, e.2.2.2, 4⟩] } } })) ∧
       (∀ r : BitVec 2, ends (0x028 + r.setWidth 12) (u.putJ r v)) ∧
       ∀ n ∈ [(0x001 : BitVec 12), 0x002, 0x003, 0x004, 0x048, 0x049, 0x04A, 0x04B], ends n bad) ∧
     (s.t.user = true → ends 0x011 bad) ∧
     (s.t.user = false →
       let granted := ∀ k, k < 4 → bitsOf v (3 * k + 2) (3 * k) ≤ 4
       (granted → ends 0x011 { u with ir := { s.t.ir with permit := v &&& 0xFFF } }) ∧ (¬granted → ends 0x011 bad) ∧
       (bitsOf v 3 2 < 2 → ∃ w : Word, ends 0x100 (sr { s.t.sr with status := w }) ∧
         ∀ k, k < 64 → w.getLsbD k = if k < 2 then s.t.sr.status.getLsbD k else decide (k < 6) && v.getLsbD k) ∧
       (2 ≤ bitsOf v 3 2 → ends 0x100 bad) ∧
       ends 0x101 (sr { s.t.sr with cause := v &&& 0xFFFF_FFFF_01FF }) ∧
       ends 0x102 (sr { s.t.sr with epc := v &&& ~~~3#64 }) ∧ ends 0x103 (sr { s.t.sr with tval := v }) ∧
       ends 0x104 (sr { s.t.sr with tvec := v &&& ~~~3#64 }) ∧ ends 0x110 (sr { s.t.sr with inten := v &&& 0x1_3FFF }) ∧
       (∀ n : BitVec 2, ends (0x108 + n.setWidth 12) (sr { s.t.sr with ssave := s.t.sr.ssave.set n.toNat v n.isLt }))) ∧
     (s.t.user = false →
       let k := bitsOf v 4 0
       acts 0x111 (.intpendClear s.cur v) ∧ acts 0x112 (.tickcmpWrite s.cur v) ∧
       ends 0x118 (sr { s.t.sr with bwlimit := v &&& 0xFFFF_FFFF }) ∧ ends 0x119 (sr { s.t.sr with rslimit := v &&& 0xFFFF_FFFF }) ∧
       ends 0x11A bad ∧ ends 0x120 (sr { s.t.sr with bhkey := v &&& 0xFFFF_FFFF }) ∧
       (s.det s.t = false → ends 0x121 (sr { s.t.sr with
         lfsrseed := v &&& 0xFFFF, lfsr := if v &&& 0xFFFF = 0 then 0xACE1 else v.setWidth 16 })) ∧
       (s.det s.t = true → ends 0x121 bad) ∧
       ends 0x128 (sr { s.t.sr with ovfbase := v &&& ~~~63#64 }) ∧
       ((k = 0 ∨ (12 ≤ k ∧ k ≤ 24)) → ends 0x129 (sr { s.t.sr with ovfsize := v &&& 0x1F })) ∧
       (¬(k = 0 ∨ (12 ≤ k ∧ k ≤ 24)) → ends 0x129 bad) ∧
       (∃ w : Word, ends 0x12A (sr { s.t.sr with ovfstat := w }) ∧
         (∀ b, b < 5 → w.getLsbD b = (s.t.sr.ovfstat.getLsbD b && !v.getLsbD b)) ∧
         bitsOf w 31 16 = (if bitsOf v 31 16 = 0xFFFF then 0 else bitsOf s.t.sr.ovfstat 31 16) ∧
         bitsOf w 56 32 = bitsOf v 56 32 / 32 * 32 ∧ bitsOf w 15 5 = 0 ∧ bitsOf w 63 57 = 0) ∧
       (s.capBad s.t v = false → acts 0x130 (.capreqWrite s.cur v)) ∧ (s.capBad s.t v = true → ends 0x130 bad) ∧ ends 0x131 bad)) ∧
  ((∀ (s : State) (yd : YReg), s.t.ReadyY [] [yd] →
     ∀ e ∈ [((0x001 : BitVec 12), BitVec.ofNat 64 s.tick), (0x002, s.t.ir.tileid), (0x003, s.t.ir.domain), (0x004, s.t.ir.tstamp),
       (0x008, s.t.ur.fflags), (0x030, s.t.ur.estat), (0x031, s.t.ur.etol), (0x032, s.t.ur.elimit), (0x038, s.t.ir.merrlog),
       (0x039, s.t.ur.mring), (0x040, s.t.ur.scancfg), (0x041, s.t.ir.chainpos), (0x04A, s.clkpat s.cur), (0x04B, s.t.ir.wearacc)],
       exec (.mfs (.y yd) e.1) s = .next (s.setT (s.t.putY yd e.2))) ∧
   ∀ (s : State) (y1 : YReg), s.t.ReadyY [y1] [] →
     let v := (s.t.popY y1).1
     let u := (s.t.popY y1).2
     let ends := fun (n : BitVec 12) (t : Tile) => exec (.mts n (.y y1)) s = .next (s.setT t)
     let bad := s.t.trap (cIllegal 0)
     ends 0x008 { u with ur := { s.t.ur with fflags := v &&& 0x3F } } ∧
     (v.getLsbD 63 = false → ends 0x031 { u with ur := { s.t.ur with etol := v } }) ∧ (v.getLsbD 63 = true → ends 0x031 bad) ∧
     (1 ≤ v.toNat → v.toNat ≤ 256 → ends 0x032 { u with ur := { s.t.ur with elimit := v } }) ∧
     ((v = 0 ∨ 256 < v.toNat) → ends 0x032 bad) ∧
     (∃ s', exec (.mts 0x038 (.y y1)) s = .next s' ∧ (s.cur < Config.tiles → exec (.merrlogClear s.cur v) (s.setT u) = .next s')) ∧
     ends 0x038 { u with ir := { s.t.ir with merrlog := s.t.ir.merrlog &&& ~~~(v &&& 3) } } ∧
     ∀ n ∈ [(0x001 : BitVec 12), 0x002, 0x003, 0x004, 0x030, 0x039, 0x040, 0x041, 0x04A, 0x04B], ends n bad)

/-- R329, R330, R332, R335: what U mode may not do traps: a special register of the S or V range (0x03, TVAL its number), ERET and FRAMEINV (0x02,
TVAL the word); a read-only register refuses MTS in every mode, and a register of the other slice every access (0x01). (That a number of the V range at which no register
stands also answers 0x03 is the model's deduction: log 11.) -/
def Obligations.PrivilegeTraps : Prop :=
  ∀ (s : State) (r : XReg) (n : BitVec 12), s.t.ReadyX [] [r] → s.t.ReadyX [r] [] →
    let traps := fun (i : Instr) (c : Cause) => exec i s = .next (s.setT (s.t.trap c))
    (s.t.user = true →
      (0x100 ≤ n.toNat → ((sprOf n.toNat).isSome = true ∨ 0xF00 ≤ n.toNat) →
        traps (.mfs (.x r) n) ⟨3, false, 0, n.setWidth 64⟩ ∧ traps (.mts n (.x r)) ⟨3, false, 0, n.setWidth 64⟩) ∧
      traps .eret ⟨2, false, 0, 0x301A⟩ ∧
      traps (.frameinv r) ⟨2, false, 0, (encode (.frameinv r)).elim 0 (·.setWidth 64)⟩) ∧
    (∀ k ∈ [(0x001 : BitVec 12), 0x002, 0x003, 0x004, 0x048, 0x049, 0x04A, 0x04B], traps (.mts k (.x r)) ⟨1, false, 0, 0⟩) ∧
    ∀ k ∈ [(0x008 : BitVec 12), 0x030, 0x031, 0x032, 0x038, 0x039, 0x040, 0x041],
      traps (.mfs (.x r) k) ⟨1, false, 0, 0⟩ ∧ traps (.mts k (.x r)) ⟨1, false, 0, 0⟩

/-- R352: taking a precise trap: EPC the word, CAUSE and TVAL as named, STATUS with MODE S, the interrupted mode in MPP, interrupts off and their enable in
its saved bit, fetch from TVEC with every unissued word discarded, the copy registers banked by the interrupted mode, delayed loop writes
landed. What X words behind the word have done is not made: it is undone, the last of them first, each giving back the y, v and m registers, FFLAGS and port
entries that it found; where none has issued nothing else changes. (How X words that ran ahead are undone, and that one of which it is not possible is
not executed again, is the model's own: log 10.) -/
def Obligations.TrapEntry : Prop :=
  (∀ (t : Tile) (c : Cause), c.code < 256 → c.detail < 2 ^ 32 → t.mode < 3 →
    let r := t.rewind t.fe.iseq
    ∃ st cs : Word,
      t.trap c = { r.1 with
        regs := { r.1.regs with loop := t.fe.loops.landAll }
        sr := { t.sr with status := st, cause := cs, epc := t.fe.ipc, tval := c.tval }
        cpBank := if t.mode = 0 then t.cp else t.cpBank
        cpBankS := if t.mode = 0 then t.cpBankS else t.cp
        fe := { r.1.fe with
          pc := t.sr.tvec, flow := .trap, aq := [], xq := [], ahead := []
          skip := t.fe.skip ++ r.2.map fun a => ⟨t.mode, t.fe.ipc, a.pc⟩ } } ∧
      bitsOf st 1 0 = 1 ∧ bitsOf st 3 2 = t.mode ∧ st.getLsbD 4 = false ∧ st.getLsbD 5 = t.sr.status.getLsbD 4 ∧ st.toNat < 64 ∧
      bitsOf cs 7 0 = c.code ∧ cs.getLsbD 8 = c.async ∧ bitsOf cs 47 16 = c.detail ∧ bitsOf cs 15 9 = 0 ∧ bitsOf cs 63 48 = 0 ∧
      t.fe.loops.landAll.lw = []) ∧
  (∀ (t : Tile) (n : Nat), (∀ a ∈ t.fe.ahead, a.seq ≤ n) → t.rewind n = (t, [])) ∧
  (∀ (t : Tile) (n : Nat), let u := (t.rewind n).1
    u = { t with
      regs := { t.regs with y := u.regs.y, v := u.regs.v, m := u.regs.m, qax0 := u.regs.qax0, qax1 := u.regs.qax1, qxa0 := u.regs.qxa0, qxa1 := u.regs.qxa1 }
      ur := { t.ur with fflags := u.ur.fflags }, fe := { t.fe with res := u.fe.res } }) ∧
  ∀ (t : Tile) (n : Nat) (a : Ahead) (b : Before), t.fe.ahead.filter (fun a => decide (n < a.seq)) = [a] → a.before = some b → t.fe.res = [] →
    b.push0 ≤ t.regs.qxa0.length → b.push1 ≤ t.regs.qxa1.length → t.regs.qax0.length + b.pop0.length ≤ 8 → t.regs.qax1.length + b.pop1.length ≤ 8 →
    (t.rewind n).2 = [] ∧
    let u := (t.rewind n).1
    u.regs.y = b.y ∧ u.regs.v = b.v ∧ u.regs.m = b.m ∧ u.ur.fflags = b.fflags ∧ u.regs.qax0 = b.pop0 ++ t.regs.qax0 ∧
    u.regs.qax1 = b.pop1 ++ t.regs.qax1 ∧ u.regs.qxa0 = t.regs.qxa0.take (t.regs.qxa0.length - b.push0) ∧
    u.regs.qxa1 = t.regs.qxa1.take (t.regs.qxa1.length - b.push1)

/-- R331, R332, R333, R351, R353, R394: ECALL and BRK take their traps in U mode; in S mode, with the earlier X instructions done, the monitor returns
behind them, ECALL with all ones in x10 and BRK with an event record; ERET in S mode restores mode and enable from STATUS, leaving PMODE U and SPIE 0, the copy registers from the
bank of that mode, and fetches from EPC; IDLE completes while a source is pending and waits else.
R334, R394: HALT of a thread that has passed its terminating entry, with no open task or packet and nothing outstanding, halts it; when every member
of its gang has halted, and its pairs have agreed, the gang ends, the service reports it, and no tile holds the gang's thread any more; the AMOs that it
issued stay under way. HALT without a terminating entry traps. (That ECALL's result overwrites an outstanding load of x10 is the model's deduction, log
13; that what BRK's event reports is all that it leaves, log 40; when HALT's wait is over, and that its AMOs act, logs 15 and 46; the record of X words
that ran ahead, log 10.) -/
def Obligations.SystemForms : Prop :=
  (∀ s : State,
     (s.t.mode = 0 → exec .ecall s = .next (s.setT (s.t.trap ⟨0x15, false, 0, 0⟩)) ∧
       exec .brk s = .next (s.setT (s.t.trap ⟨0x16, false, 0, 0⟩))) ∧
     (s.t.mode = 1 → s.t.drained s.t.fe.iseq = true →
       let u := { s.t with
         regs := { s.t.regs with loop := s.t.regs.loop.landAll }
         fe := { s.t.fe with pc := s.t.fe.ipc + 4, flow := .jump } }
       exec .ecall s = .next (s.setT ((u.supersede [10]).putX 10 ones64)) ∧ exec .brk s = .next ((s.setT u).threadEvent s.t 7 0)) ∧
     (s.t.mode = 1 ∨ s.t.mode = 2 → ∃ st : Word, ∃ cp : CpRegs,
       exec .eret s = .next (s.setT { s.t with
         sr := { s.t.sr with status := st }, cp := cp, fe := { s.t.fe with
           pc := s.t.sr.epc, flow := .jump
           kept := s.t.fe.kept.filter fun k => k.mode != bitsOf s.t.sr.status 3 2 || k.pc == s.t.sr.epc
           skip := s.t.fe.skip.filter fun k => k.mode != bitsOf s.t.sr.status 3 2 ||
             (decide (k.base.toNat ≤ s.t.sr.epc.toNat) && decide (s.t.sr.epc.toNat ≤ k.pc.toNat)) } }) ∧
       bitsOf st 1 0 = bitsOf s.t.sr.status 3 2 ∧ bitsOf st 3 2 = 0 ∧ st.getLsbD 4 = s.t.sr.status.getLsbD 5 ∧ st.getLsbD 5 = false ∧
       cp = (if bitsOf s.t.sr.status 3 2 = 0 then s.t.cpBank else s.t.cpBankS)) ∧
     (bitsOf (s.t.pending s.tick) 13 0 ≠ 0 → exec .idle s = .next s) ∧
     (bitsOf (s.t.pending s.tick) 13 0 = 0 → exec .idle s = .next (s.Waits s.t .idle)) ∧
     ∀ (rs1 : XReg) (g : Gang), s.t.user = false → s.t.ReadyX [rs1] [] → (s.t.popX rs1).1.toNat < Config.globalTop → s.gangOf s.t = some g →
       exec (.frameinv rs1) s =
         .next ((s.dropTables g.part).Waits (s.t.popX rs1).2 (.inval (s.t.popX rs1).1.toNat (s.ackTiles g.part)))) ∧
  (∀ (s : State) (g : Gang), s.t.mode < 2 →
     (s.t.ctl.passedTerm = false → exec .halt s = .next (s.setT (s.t.trap ⟨0x0B, false, 0, 0⟩))) ∧
     (s.t.ctl.passedTerm = true → s.t.task.opened = false → s.t.opened = none → s.t.haltReady = true → s.gangOf s.t = some g →
       let u := s.setT { s.t with ctl := { s.t.ctl with stat := .halted }, fe := { s.t.fe with flow := .wait } }
       ((u.allHalted g && u.haltAgreed g s.cur) = false → exec .halt s = .next u) ∧
       ((u.allHalted g && u.haltAgreed g s.cur) = true → ∃ s', exec .halt s = .next s' ∧ (∀ h ∈ s'.gangs, h.id = g.id → h.stat = .ended) ∧
         s'.svc.notices = s.svc.notices ++ [.complete g.id] ∧ 
         (∀ f, f ∈ s'.net ↔ f ∈ s.net ∧ (f.g = g.id → ∃ id pa w form b c, f.msg = .amo id pa w form b c)) ∧
         ∀ e ∈ g.l2p, (s'.tile e.2).gang ≠ some g.id)))

/-! ## Events of a tile's registers and waits -/

/-- R53, R55, R258, R357, R359, R361, R362: an event on a register of one of the package's tiles changes that register and nothing else, on another number nothing: ones written to INTPEND
and MERRLOG clear their bits (that OPND, ROW and COL stay is log 83), the restart and clear events clear their fields of OVFSTAT; a CAPREQ that passes its checks starts minting, which
ends with the capability under the partition's key; a queue region write of a value in range (R53) empties the queue, whose packets return their slots when it is a
stream queue; one out of range changes nothing; the delayed loop writes that are due land. -/
def Obligations.RegisterEvents : Prop :=
  (∀ (s : State) (p : Nat) (val : Word) (n : QNum), p < Config.tiles →
     let t := s.tile p
     let ovf := fun (i : Instr) (lo hi : Nat) => ∃ w : Word,
       exec i s = .next (s.setTile p { t with sr := { t.sr with ovfstat := w } }) ∧
       ∀ b, w.getLsbD b = (t.sr.ovfstat.getLsbD b && !(decide (lo ≤ b) && decide (b ≤ hi)))
     exec (.tickcmpWrite p val) s = .next (s.setTile p { t with sr := { t.sr with tickcmp := val } }) ∧
     ovf (.queueRearm p n) n.toNat n.toNat ∧ ovf (.mailboxRearm p) 4 4 ∧ ovf (.overflowAreaRestart p) 32 56 ∧ ovf (.lostClear p) 16 31 ∧
     (∃ w l, exec (.intpendClear p val) s = .next (s.setTile p { t with sr := { t.sr with intpend := w, srcs := l } }) ∧
       (∀ b, w.getLsbD b = (t.sr.intpend.getLsbD b && !(val.getLsbD b && [6, 7, 9, 10, 11, 12, 13, 16].contains b))) ∧
       ∀ e, e ∈ l ↔ e ∈ t.sr.srcs ∧ (val.getLsbD e.1 && [6, 7, 9, 10, 11, 12, 13, 16].contains e.1) = false) ∧
     (∃ w : Word, exec (.merrlogClear p val) s = .next (s.setTile p { t with ir := { t.ir with merrlog := w } }) ∧
       ∀ b, w.getLsbD b = (t.ir.merrlog.getLsbD b && !(val.getLsbD b && decide (b < 2)))) ∧
     (s.capBad t val = false → exec (.capreqWrite p val) s = .next (s.setTile p { t with sr := { t.sr with minting := some val } })) ∧
     (s.capBad t val = true → exec (.capreqWrite p val) s = .next s) ∧
     ∀ g, t.sr.minting = some val → s.gangOf t = some g → ∃ c : Word,
       exec (.capabilityMinted p) s = .next (s.setTile p { t with sr := { t.sr with minting := none, capval := c } }) ∧
       c.extractLsb' 0 24 = val.extractLsb' 0 24 ∧
       c.extractLsb' 24 40 = (sipHash (Config.capKey (s.keyOf g.part)) (leBytes 8 (val.extractLsb' 0 24).toNat)).extractLsb' 0 40) ∧
  (∀ (s : State) (p : Nat) (val : Word) (n : QNum) (size : Bool), Config.tiles ≤ p →
     ∀ i ∈ [.tickcmpWrite p val, .queueRearm p n, .mailboxRearm p, .overflowAreaRestart p, .lostClear p, .intpendClear p val, .merrlogClear p val,
       .capreqWrite p val, .rqRegionWrite p n size val, .delayedLoopWriteLand p], exec i s = .next s) ∧
  ∀ (s : State) (p g : Nat) (val : Word) (n : QNum) (size : Bool), p < Config.tiles → (s.tile p).gang = some g →
    let t := s.tile p
    let q := t.rq n.toNat
    let k := if size then bitsOf val 4 0 else t.rqLog n.toNat
    let b := if size then (t.ur.rqbase[n.toNat]'n.isLt).toNat else bitsOf val 20 0
    let bad := (size = true ∧ ¬(k = 0 ∨ (10 ≤ k ∧ k ≤ 19))) ∨
      (t.user = true ∧ t.task.hasSched = true ∧ k ≠ 0 ∧ Config.schedBase < b - b % 2 ^ k + 2 ^ k)
    (bad → exec (.rqRegionWrite p n size val) s = .next s) ∧
    (¬bad → ∃ s' v, exec (.rqRegionWrite p n size val) s = .next s' ∧
      (∀ b, v.getLsbD b = (val.getLsbD b && decide (b < if size then 5 else 21))) ∧
      s'.tile p = { t.setRq n.toNat { q with wr := 0, ents := [], delivered := none } with ur :=
        if size then { t.ur with rqsize := t.ur.rqsize.set n.toNat v n.isLt } else { t.ur with rqbase := t.ur.rqbase.set n.toNat v n.isLt } } ∧
      s.OtherTiles s' p ∧ s'.mem = s.mem ∧
      s'.net = s.net ++ if q.stream then (q.delivered.toList ++ q.ents).map fun e => ⟨g, t.lidx, e.src, .slotBack n.toNat none, 0, false, s.tick, t.pair.count + 1⟩
        else []) ∧
    ∃ l, exec (.delayedLoopWriteLand p) s = .next (s.setTile p { t with regs := { t.regs with loop := l } }) ∧
      l.lw = t.regs.loop.lw.filter (fun w => w.left != 0) ∧
      ∀ k, (l.get k).lc = t.regs.loop.landed k .lc ∧ (l.get k).ls = t.regs.loop.landed k .ls ∧ (l.get k).le = t.regs.loop.landed k .le

/-- R355, R357: at an enabled slot (R2), with an enabled source pending that the mode lets through, the thread running or in a wait that an interrupt ends,
its earlier X entries done, no result of an A word still to push, and no envelope command to discard, the thread takes the highest such source: EPC is the next A word, CAUSE has bit 8 and 0x40 + n, the
mode is S with the interrupted mode saved and interrupts off, fetch goes on at TVEC. R191: where an envelope command is in progress, with no
instruction after it issued, EPC is its word and it is discarded; but one that is about to fault keeps the source pending (R355).
R133, R316, R319, R321, R333, R335, R373: the ends of waits. Ticks pass to TICKCMP, whose bit is then pending, where nothing falls due before; IDLE runs on once a source is pending, WMSG
once the mailbox holds an entry; FWAIT frees its token once its set is done; RCV delivers the packet that came; the last tile to acknowledge a
FRAMEINV drops the page and lets it run on; a wait past BWLIMIT or RSLIMIT raises its interrupt bit once. (Which envelope command an interrupt discards is the model's reading: log 9.) -/
def Obligations.WaitEvents : Prop :=
  (∀ (s : State) (p n : Nat),
     let t := s.tile p
     t.takeable s.tick = some n → (t.ctl.stat = .running ∨ ∃ w, t.ctl.stat = .waiting w ∧ w.interruptible = true) →
     s.slotOn p = true → t.drained t.nextA = true → t.owing = false → (∀ c ∈ t.envq, c.op.holdsX = false) → t.discards = none → (n = 8 → t.ni.refusals ≠ []) →
     ∃ s', exec (.interruptTake p) s = .next s' ∧
       let u := s'.tile p
       u.sr.epc = (t.fe.aq.map (·.pc)).headD t.fe.pc ∧ bitsOf u.sr.cause 7 0 = 0x40 + n ∧ u.sr.cause.getLsbD 8 = true ∧
       u.mode = 1 ∧ bitsOf u.sr.status 3 2 = t.mode ∧ u.sr.status.getLsbD 4 = false ∧ u.sr.status.getLsbD 5 = t.sr.status.getLsbD 4 ∧
       u.fe.pc = t.sr.tvec ∧ u.fe.aq = [] ∧ u.fe.xq = [] ∧ u.ctl.stat = .running ∧ u.regs.x = t.regs.x ∧ (t.fe.ahead = [] → u.regs.y = t.regs.y) ∧
       s.OtherTiles s' p ∧ s'.mem = s.mem ∧ s'.net = s.net ∧
       n < 14 ∧ (t.pending s.tick).getLsbD n = true ∧ t.sr.inten.getLsbD n = true ∧
       ∀ m, n < m → m < 14 → ((t.pending s.tick).getLsbD m && t.sr.inten.getLsbD m) = false) ∧
  (∀ (s : State) (p n : Nat) (c : EnvCmd) (r : List EnvCmd),
     let t := s.tile p
     t.takeable s.tick = some n → t.ctl.stat = .running → t.envq = c :: r → (c.op.holdsX = true ∨ r = []) → t.fe.xq = [] → t.fe.xl = [] →
     t.fe.ahead = [] → t.nextA = c.seq + 1 → s.slotOn p = true → (n = 8 → t.ni.refusals ≠ []) →
     (t.envFaults c = true → exec (.interruptTake p) s = .next s) ∧
     (t.envFaults c = false → ∃ s', exec (.interruptTake p) s = .next s' ∧
       let u := s'.tile p
       u.sr.epc = c.pc ∧ bitsOf u.sr.cause 7 0 = 0x40 + n ∧ u.sr.cause.getLsbD 8 = true ∧ u.mode = 1 ∧ u.fe.pc = t.sr.tvec ∧
       u.envq = (t.envq.filter fun d => d.seq != c.seq) ∧ u.env = t.env ∧ u.fe.aq = [] ∧ u.fe.xq = [] ∧ s.OtherTiles s' p)) ∧
  ∀ (s : State) (p : Nat),
    let t := s.tile p
    (∃ s', exec (.tickCompare p) s = .next s' ∧ s' = { s with tick := s'.tick } ∧ s.tick ≤ s'.tick ∧
      s'.tick ≤ max s.tick t.sr.tickcmp.toNat ∧ (∀ d ∈ s.dues, s.tick < d → s'.tick ≤ d) ∧
      ((∀ d ∈ s.dues, s.tick < d → t.sr.tickcmp.toNat ≤ d) → s'.tick = max s.tick t.sr.tickcmp.toNat ∧
        (t.pending s'.tick).getLsbD 0 = true)) ∧
    (s.slotOn p = true → t.ctl.stat = .waiting .idle → bitsOf (t.pending s.tick) 13 0 ≠ 0 → exec (.idleWake p) s = .next (s.setTile p t.resume)) ∧
    (s.slotOn p = true → t.ctl.stat = .waiting .wmsg → t.ni.mbox ≠ [] → exec (.wmsgWake p) s = .next (s.setTile p t.resume)) ∧
    (∀ n, s.slotOn p = true → t.ctl.stat = .waiting (.fwait n) → s.tokenDone t n = true →
      exec (.fwaitDone p) s = .next (s.setTile p (t.unkeep.freeToken n).resume)) ∧
    (∀ q rd e es, s.slotOn p = true → t.ctl.stat = .waiting (.rcv q rd) → (t.rq q.toNat).ents = e :: es →
      let u := ((t.supersede [rd]).setRq q.toNat { t.rq q.toNat with ents := es, delivered := some e }).putX rd
        (BitVec.ofNat 64 (Config.selfBase + e.off))
      exec (.rcvWake p) s = .next ((s.setTile p u.resume).markMore p (leBytes 8 (u.xval rd).toNat))) ∧
    (∀ q u va, s.quietAt p = true → s.tiles.filter (fun e => e.2.awaits p) = [(q, u)] → u.ctl.stat = .waiting (.inval va [p]) →
      exec (.invalidationAck p) s = .next ((s.onTile p fun t => t.dropVa va).onTile q Tile.resume)) ∧
    (∀ w, t.ctl.stat = .waiting w → t.ctl.raised = false →
      let raises := fun (i : Instr) (lim : Word) (bit : Nat) => bitsOf lim 31 0 ≠ 0 → t.ctl.since + bitsOf lim 31 0 < s.tick →
        ∃ s', exec i s = .next s' ∧ (s'.tile p).ctl = { t.ctl with raised := true } ∧ (s'.tile p).sr.intpend.getLsbD bit = true ∧
          (s'.tile p).regs = t.regs ∧ (s'.tile p).fe = t.fe ∧ s.OtherTiles s' p ∧ s'.net = s.net
      (((∃ rd v, w = .barrier rd v) ∨ ∃ vd, w = .swait vd) → raises (.barrierStallEvent p) t.sr.bwlimit 6) ∧
      (((∃ q rd, w = .rcv q rd) ∨ ∃ d q, w = .stream d q) → raises (.longReceiveEvent p) t.sr.rslimit 7))

/-! ## Events of the engines -/

/-- R163, R168 to R172, R285: at an enabled slot (R2) a command of either queue of the matrix unit starts, the queues alternating; a scan command starts; a command that has
computed and has room for its completion completes with its element, its flags and what it records in MERRLOG (R54); a send that arrives fills the back half, and the halves swap with
FILLS counted; a credit is held. A remote record is queued under the target's own registers (which MRING: log 27), refused with the number
of the first check that fails, or, with 8 held, sent back to be sent again 64 ticks later. -/
def Obligations.MatrixUnitEvents : Prop :=
  (∀ (s : State) (p : Nat) (c : MxCmd) (r : List MxCmd),
     let t := s.tile p
     s.slotOn p = true →
     (t.mx.run = none → (t.mx.fifo = c :: r ∧ (t.mx.remote = [] ∨ t.mx.lastRemote = true) ∨
         t.mx.remote = c :: r ∧ (t.mx.fifo = [] ∨ t.mx.lastRemote = false)) → (c.rot = true → ringLen c.mring = 1) →
       ∃ s' run, exec (.engineCommandStart p .matrix) s = .next s' ∧ (s'.tile p).mx.run = some run ∧ run.cmd = c ∧
         run.fault = t.mxFaults c ∧ run.computed = false ∧ (s'.tile p).mx.acc = t.mx.acc ∧ (s'.tile p).mx.front = t.mx.front ∧
         (s'.tile p).regs = t.regs ∧ s.OtherTiles s' p ∧ s'.net = s.net ∧ s'.mem = s.mem ∧
         (s'.tile p).mx.fifo.length + (s'.tile p).mx.remote.length + 1 = t.mx.fifo.length + t.mx.remote.length) ∧
     (∀ g, t.mx.run = none → t.mx.fifo = c :: r → t.mx.remote = [] → c.rot = true → 1 < ringLen c.mring → t.mx.credit = true →
       t.gang = some g →
       ∃ s', exec (.engineCommandStart p .matrix) s = .next s' ∧ (s'.tile p).mx.credit = false ∧
         s'.net = s.net ++ [⟨g, t.lidx, t.ringSucc c.mring, .ring t.mx.front (bitsOf c.mring 2 0), s.tick + (t.mx.front.bytes + 255) / 256 + 2,
           false, s.tick, t.pair.count + 1⟩]) ∧
     exec (.engineCommandStart p .envelope) s = .next s) ∧
  (∀ (s : State) (p : Nat) (c : ScCmd) (r : List ScCmd), s.slotOn p = true → (s.tile p).scan.run = none →
     (s.tile p).scan.fifo = c :: r → (c.op = .spass → (s.tile p).scan.spassDone = false) →
     exec (.engineCommandStart p .scan) s =
       .next (s.onTile p fun t => { t with scan := { t.scan with fifo := r, run := some c } })) ∧
  (∀ (s : State) (p : Nat) (r : MxRun),
     let t := s.tile p
     s.slotOn p = true → t.mx.run = some r → r.computed = true → (r.cmd.rot = true → r.swapped = true) → r.cmd.sender = none →
     let w := if r.out = [] then t else t.spadBytes r.out
     (r.cmd.notify = 0 → ∃ last, exec (.matrixCommandComplete p) s = .next (s.setTile p
       (({ w with mx := { t.mx with run := none, lastRemote := last } }.flags r.flags).merr r.errs))) ∧
     (r.cmd.notify = 1 → t.mx.cf.length < 8 → ∃ last, exec (.matrixCommandComplete p) s = .next (s.setTile p
       (({ w with mx := { t.mx with
         run := none, lastRemote := last, cf := t.mx.cf ++ [r.element], owed := t.mx.owed - 1 } }.flags r.flags).merr r.errs)))) ∧
  (∀ (s s1 : State) (p k q logl : Nat) (f : Flight) (h : Half),
     s.ringItem (s.tile p) = some k → s.arrival k = some (f, s1) → f.msg = .ring h logl →
     logl = bitsOf (s.tile p).mx.ring 2 0 → s1.flightTile f f.src = some q →
     ∃ s', exec (.rotationSendArrival p) s = .next s' ∧ (s'.tile p).mx.back = h ∧ (s'.tile p).mx.backIn = true ∧ (s'.tile q).mx.sent = true ∧
       (s'.tile p).mx.front = (s.tile p).mx.front ∧ s'.net = s1.net ∧ s'.mem = s.mem) ∧
  (∀ (s : State) (p : Nat) (r : MxRun),
     let t := s.tile p
     s.slotOn p = true → t.mx.run = some r → r.cmd.rot = true → r.computed = true → r.swapped = false →
     (ringLen r.cmd.mring = 1 ∨ t.mx.sent = true ∧ t.mx.backIn = true) →
     ∃ s', exec (.rotationSwap p) s = .next s' ∧ (s'.tile p).mx.front = t.mx.back ∧ (s'.tile p).mx.back = t.mx.front ∧
       (s'.tile p).mx.fills = (t.mx.fills + 1) % 2 ^ 64 ∧ (s'.tile p).mx.backIn = false ∧ (s'.tile p).mx.acc = t.mx.acc ∧ s'.mem = s.mem) ∧
  (∀ (s s1 : State) (p k ent id fmt pln gid : Nat) (f : Flight) (cap : Word) (c : MxCmd) (clean : Bool) (g : Gang) (fa : LFmt),
     s.arrival k = some (f, s1) → f.msg = .mcmd ent id cap c clean → s1.flightTile f f.dst = some p → (s1.tile p).gang = some gid →
     s1.gang? gid = some g → anyWin c.addr = some (fmt, pln) → mxFmt fmt pln = some fa →
     let t := s1.tile p
     let checks := [mint (s1.keyOf g.part) cap == cap, bitsOf cap 10 0 == t.lidx, decide (bitsOf cap 13 11 ≤ c.acc.toNat ∧ c.acc.toNat ≤ bitsOf cap 16 14),
       cap.getLsbD (17 + fa.group), clean && (mmaCheck c.word c.addr t.ur.pstride).isNone, t.ctl.stat != .halted]
     let sent := fun (l : List (Msg × Nat)) => { s1 with net := s1.net ++ l.map fun m =>
       ⟨gid, t.lidx, f.src, m.1, m.2, false, s1.tick, t.pair.count + 1⟩ }
     (∀ n, checks.findIdx? (fun b => !b) = some n → exec (.mcmdRecordArrival k) s = .next (sent
       [(.mail (mboxWord 4 0 0 0 t.lidx) (BitVec.ofNat 64 (n + 1 + c.acc.toNat * 16)), 0), (.storeAck ent, 0)])) ∧
     ((∀ b ∈ checks, b = true) → 8 ≤ t.mx.remote.length → exec (.mcmdRecordArrival k) s = .next (sent
       [(.retryCmd ent id cap c clean, s1.tick + 64)])) ∧
     ((∀ b ∈ checks, b = true) → t.mx.remote.length < 8 → exec (.mcmdRecordArrival k) s = .next (s1.setTile p { t with
       mx := { t.mx with remote := t.mx.remote ++ [{ c with pstride := t.ur.pstride, mring := t.ur.mring, bhkey := t.sr.bhkey }] } }))) ∧
  ∀ (s s1 : State) (p k : Nat) (f : Flight),
    s.net.findIdx? (fun f => some f.g == (s.tile p).gang && f.dst == (s.tile p).lidx && f.msg == .credit) = some k →
    s.arrival k = some (f, s1) → (s.tile p).mx.sending = false →
    exec (.ringCreditArrival p) s = .next (s1.onTile p fun t => { t with mx := { t.mx with credit := true } })

/-- R74 to R76, R158 to R160, R165: what the matrix commands compute. MZERO: every word of its accumulator is 0 and its mode bit is as asked. A pass of
M x K by K x N: word (i, j) is the sum over K from the word it had (or 0), in the steps of R75, or exact modulo 2^64 in INT64 mode; words outside
M x N keep their value, and so does every other accumulator. MSCALE takes its scales, MCFG empties both halves and FILLS. -/
def Obligations.MatrixEffects : Prop :=
  (∀ (s : State) (p : Nat) (r : MxRun),
     let t := s.tile p
     let c := r.cmd
     s.slotOn p = true → t.mx.run = some r → r.computed = false → r.out = [] → r.fault = false → c.sender = none →
     (c.op = .mzero → ∃ s', exec (.matrixCommandComplete p) s = .next s' ∧ (s'.tile p).mx.run = none ∧
       (∀ a i j, a < 8 → i < 32 → j < 32 → (s'.tile p).mx.word a i j = if a = c.acc.toNat then 0 else t.mx.word a i j) ∧
       (∀ a : AccReg, (s'.tile p).mx.int a = if a = c.acc then c.int64 else t.mx.int a) ∧
       (s'.tile p).spad = t.spad ∧ s.OtherTiles s' p ∧ s'.mem = s.mem ∧ s'.net = s.net) ∧
     (c.op = .mscale → c.notify = 0 → ∃ s', exec (.matrixCommandComplete p) s = .next s' ∧ (s'.tile p).mx.run = none ∧
       (s'.tile p).mx.scales = c.scales ∧ (s'.tile p).mx.nb = bitsOf c.word 5 0 ∧ (s'.tile p).mx.acc = t.mx.acc) ∧
     (c.op = .mcfg → ∃ s', exec (.matrixCommandComplete p) s = .next s' ∧ (s'.tile p).mx.run = none ∧
       (s'.tile p).mx.ring = c.word ∧ (s'.tile p).mx.front = .empty ∧ (s'.tile p).mx.back = .empty ∧ (s'.tile p).mx.fills = 0 ∧
       (s'.tile p).mx.credit = true ∧ (s'.tile p).mx.acc = t.mx.acc)) ∧
  ∀ (s : State) (p off fmt span pln : Nat) (r : MxRun) (fa fb : LFmt),
    let t := s.tile p
    let c := r.cmd
    let m := shM c.word
    let n := shN c.word
    let k := shK c.word
    s.slotOn p = true → t.mx.run = some r → r.computed = false → r.out = [] → r.fault = false → c.sender = none → c.op = .mma →
    c.notify = 0 → shRot c.word = false →
    selfParts c.addr = some (off, fmt, span, pln) → mxFmt fmt pln = some fa → t.mx.front.fmt = some fb →
    0 < m → m ≤ 32 → 0 < n → n ≤ 32 → 0 < k →
    ∃ s', exec (.matrixCommandComplete p) s = .next s' ∧ (s'.tile p).mx.run = none ∧
      (∀ i j, i < m → j < n →
        let as := t.rowA c (t.badOperands r) off fmt span pln i
        let bs := (List.range k).map fun q => (smGet 0 (q * 32 + j) t.mx.front.elems).toNat
        let c0 : Word := if shZero c.word then 0 else t.mx.word c.acc.toNat i j
        (t.mx.int c.acc = true → (s'.tile p).mx.word c.acc.toNat i j =
          c0 + BitVec.ofInt 64 (((as.zip bs).map fun e => fa.int e.1 * fb.int e.2).sum)) ∧
        (t.mx.int c.acc = false → (s'.tile p).mx.word c.acc.toNat i j = BitVec.ofNat 64 (floatWord fa fb
          (fun b => if shSc c.word then some (t.mx.scale i j b) else none) (if shSc c.word then 32 else fa.kstep) c0 as bs).1)) ∧
      (∀ a i j, a < 8 → i < 32 → j < 32 → (a ≠ c.acc.toNat ∨ m ≤ i ∨ n ≤ j) → (s'.tile p).mx.word a i j = t.mx.word a i j) ∧
      (s'.tile p).mx.front = t.mx.front ∧ (s'.tile p).spad = t.spad ∧ s.OtherTiles s' p ∧ s'.mem = s.mem ∧ s'.net = s.net

/-- R178, R182, R185, R187, R188, R189, R301: at an enabled slot the envelope command at the head completes. ECLR writes the empty envelope; a command whose result
fits writes it and reports its line count in ESTAT; one with an improper result writes the improper register; one past its limit or outside its
range writes nothing, reports in ESTAT and takes its fault at its own word, once the words before it are done (R355), and waits for them; ECNT and EEVAL write yd, and an EEVAL outside its range takes the
range fault; EST writes only the scratchpad, in one part or in two (R102; that it is two, and which units come first, is log 76). What ECNT and EEVAL
write joins the touchmark of a pair (R407; log 22). -/
def Obligations.EnvelopeEffects : Prop :=
  ∀ (s : State) (p : Nat) (c : EnvCmd) (r : List EnvCmd),
    let t := s.tile p
    let u := { t with envq := r }
    s.slotOn p = true → t.envq = c :: r → t.switched = false →
    (∀ ed, c.op = .eclr ed → ∃ s', exec (.envelopeCommandComplete p) s = .next s' ∧ (s'.tile p).envGet ed = .empty ∧
      (∀ e, e ≠ ed → (s'.tile p).envGet e = t.envGet e) ∧ (s'.tile p).envq = r ∧ (s'.tile p).regs = t.regs ∧ s.OtherTiles s' p) ∧
    (∀ ed e, t.envResult c = some (ed, .ok e) → ∃ s', exec (.envelopeCommandComplete p) s = .next s' ∧ (s'.tile p).envGet ed = e ∧
      (∀ e', e' ≠ ed → (s'.tile p).envGet e' = t.envGet e') ∧ (s'.tile p).envq = r ∧
      (s'.tile p).ur.estat = BitVec.ofNat 64 (e.lines.length % 1024) ∧ (s'.tile p).regs = t.regs ∧ s.OtherTiles s' p) ∧
    (∀ ed, t.envResult c = some (ed, .improper) → ∃ s', exec (.envelopeCommandComplete p) s = .next s' ∧
      (s'.tile p).envGet ed = ⟨false, 0x8000_0000_0000_0000, 0x7FFF_FFFF_FFFF_FFFF, [], []⟩ ∧
      (∀ e', e' ≠ ed → (s'.tile p).envGet e' = t.envGet e') ∧ (s'.tile p).envq = r ∧ (s'.tile p).ur.estat = BitVec.ofNat 64 3072 ∧
      (s'.tile p).regs = t.regs ∧ s.OtherTiles s' p) ∧
    (t.envFaults c = true → (t.nextA ≤ c.seq ∨ ∃ o ∈ t.fe.xl, o.seq < c.seq) → exec (.envelopeCommandComplete p) s = .next s) ∧
    (∀ ed n, t.envResult c = some (ed, .capacity n) → t.envFirst c = true → ∃ s', exec (.envelopeCommandComplete p) s = .next s' ∧ (s'.tile p).env = t.env ∧
      (s'.tile p).ur.estat = BitVec.ofNat 64 (n % 1024 + 1024) ∧ bitsOf (s'.tile p).sr.cause 8 0 = 0x12 ∧ (s'.tile p).sr.epc = c.pc ∧
      (s'.tile p).fe.pc = t.sr.tvec ∧ (t.fe.ahead = [] → (s'.tile p).regs.y = t.regs.y)) ∧
    (((∃ ed, t.envResult c = some (ed, .range)) ∨ ∃ yd es x, c.op = .eeval yd es x ∧ envEval (t.envGet es) x = none) → t.envFirst c = true →
      ∃ s', exec (.envelopeCommandComplete p) s = .next s' ∧ (s'.tile p).env = t.env ∧
      (s'.tile p).ur.estat = BitVec.ofNat 64 2048 ∧ bitsOf (s'.tile p).sr.cause 8 0 = 0x13 ∧ (s'.tile p).sr.epc = c.pc ∧
      (s'.tile p).fe.pc = t.sr.tvec ∧ (t.fe.ahead = [] → (s'.tile p).regs.y = t.regs.y)) ∧
    (∀ yd es, c.op = .ecnt yd es →
      let n := (t.envGet es).lines.length % 512 + if (t.envGet es).proper then 0 else 2 ^ 16
      let w := (u.dropY [yd]).putY yd (BitVec.ofNat 64 n)
      exec (.envelopeCommandComplete p) s = .next ((s.setTile p w).markMore p (leBytes 8 (w.yval yd).toNat))) ∧
    (∀ yd es x v fl, c.op = .eeval yd es x → envEval (t.envGet es) x = some (v, fl) →
      let w := ((u.dropY [yd]).putY yd v).flags fl
      exec (.envelopeCommandComplete p) s = .next ((s.setTile p w).markMore p (leBytes 8 (w.yval yd).toNat))) ∧
    (∀ es addr, c.op = .est es addr →
      let w := Tile.partWritten t (t.storeEnv c es addr) (t.storePlaces c es addr) s.steps
      (c.out = none → exec (.envelopeCommandComplete p) s = .next (s.setTile p { w.1 with
        envq := if w.2 = [] then r else { c with out := some w.2 } :: r })) ∧
      (∀ bs, c.out = some bs → exec (.envelopeCommandComplete p) s = .next (s.setTile p { t.spadBytes bs with envq := r })) ∧
      (t.storeEnv c es addr).env = t.env ∧ (t.storeEnv c es addr).regs = t.regs ∧ (t.storeEnv c es addr).mx = t.mx)

/-- R195, R197, R305, R306, R307: at an enabled slot a running SLOCAL or SAPPLY computes, writes its result in one part or in two and completes with
its flags (R102: until it has, each byte holds its old or its new value; that it is two parts, and which units come first, is log 76); a carry arrives; SPASS completes with the state that
enters it, applied through its Summary (the identity when there is none), kept as Final at the tail and sent on to the successor elsewhere;
SCLOSE completes behind the round's SPASS; the chain is released when every member waits, each taking Final, 8 ticks after the last of them and of
SCLOSE, 64 where the chain spans dies. -/
def Obligations.ScanEvents : Prop :=
  (∀ (s : State) (p : Nat) (c : ScCmd),
     let t := s.tile p
     s.slotOn p = true → t.scan.run = some c → c.word.getLsbD 17 = false → (c.op = .slocal ∨ c.op = .sapply) →
     let r := if c.op = .slocal then t.scLocal c else t.scApplyAll c
     let w := Tile.partWritten t r.1 (spanPlaces 0 0 (bitsOf c.word 52 32)
       (scExtents c.cfg (bitsOf c.word 16 0) (c.op == .sapply)).2) s.steps
     let ends := fun (u : Tile) (fl : Fl) => { u.flags fl with scan := { u.scan with run := none, ready := false, out := [], fl := 0 } }
     (t.scan.ready = false →
       (w.2 = [] → exec (.scanCommandComplete p) s = .next (s.setTile p (ends w.1 r.2))) ∧
       (w.2 ≠ [] → exec (.scanCommandComplete p) s = .next (s.setTile p
         { w.1 with scan := { w.1.scan with ready := true, out := w.2, fl := r.2 } }))) ∧
     (t.scan.ready = true → exec (.scanCommandComplete p) s = .next (s.setTile p (ends (t.spadBytes t.scan.out) t.scan.fl)))) ∧
  (∀ (t u : Tile) (ps : List (Nat × Byte)) (seed : Nat), Memory.wf t.spad = true → (∀ e ∈ ps, e.2 = 0xFF) →
     let w := Tile.partWritten t u ps seed
     ∀ a, ((∃ e ∈ ps, e.1 = a) → (memRead a w.1.spad = memRead a t.spad ∨ memRead a w.1.spad = memRead a u.spad) ∧
         memRead a (w.1.spadBytes w.2).spad = memRead a u.spad) ∧
       ((∀ e ∈ ps, e.1 ≠ a) → memRead a w.1.spad = memRead a t.spad ∧ memRead a (w.1.spadBytes w.2).spad = memRead a t.spad)) ∧
  (∀ (s s1 : State) (p k : Nat) (f : Flight) (cfg : Word) (lanes : List Word), s.arrival k = some (f, s1) → f.msg = .carry cfg lanes →
     s1.flightTile f f.dst = some p →
     exec (.carryArrival k) s = .next (s1.onTile p fun t => { t with scan := { t.scan with carryIn := some (cfg, lanes) } })) ∧
  (∀ (s : State) (p g : Nat) (gg : Gang) (c : ScCmd) (h : List Nat) (other : Bool),
     let t := s.tile p
     s.slotOn p = true → t.scan.run = some c → c.op = .spass → t.spassIn c = some (h, other) → t.gang = some g → s.gang? g = some gg →
     let ab := if t.scan.sumCfg = none then scIdent c.cfg else (toNats t.scan.sumA, toNats t.scan.sumB)
     let out := toWords (scMap c.cfg ab.1 ab.2 h).1
     let hop := carryTicks p ((gg.phys t.chSucc).getD p)
     ∃ s', exec (.spassComplete p) s = .next s' ∧ (s'.tile p).scan.run = none ∧ (s'.tile p).scan.carry = toWords h ∧
       (s'.tile p).scan.spassDone = true ∧ (s'.tile p).scan.carryIn = none ∧
       (s'.tile p).scan.final = (if t.chTail then out else t.scan.final) ∧ (other = true → (s'.tile p).sr.intpend.getLsbD 10 = true) ∧
       s'.net = s.net ++ (if t.chTail then [] else [⟨g, t.lidx, t.chSucc, .carry c.cfg out, s.tick + hop, false, s.tick, t.pair.count + 1⟩]) ∧
       (s'.tile p).spad = t.spad ∧ s.OtherTiles s' p) ∧
  (∀ (s : State) (p : Nat) (c : ScCmd), s.slotOn p = true → (s.tile p).scan.run = some c → c.op = .sclose → (s.tile p).scan.spassDone = true →
     exec (.scloseComplete p) s =
       .next (s.onTile p fun t => { t with scan := { t.scan with run := none, sclosed := true, closedAt := s.tick } })) ∧
  ∀ (s : State) (g tail q : Nat) (gg : Gang), s.gang? g = some gg → gg.phys tail = some q →
    let ms := s.chainFrom gg 1536 tail
    let u := s.tile q
    u.chTail = true → u.scan.sclosed = true → u.scan.spassDone = true → (∀ p ∈ ms, (s.tile p).atSwait = true) →
    let due := ms.foldl (fun a p => max a (s.tile p).ctl.since) u.scan.closedAt + if ms.all (fun p => p / 192 == q / 192) then 8 else 64
    (s.tick < due → exec (.chainRelease g tail) s = .next s) ∧
    (due ≤ s.tick → ∃ s', exec (.chainRelease g tail) s = .next s' ∧ s'.tick = s.tick ∧
      (∀ p, p ∉ ms → s'.tile p = { s.tile p with pair := (s'.tile p).pair }) ∧ s'.mem = s.mem ∧ s'.net = s.net ∧
      ∀ p ∈ ms, (s'.tile p).ctl.stat = .running ∧ (s'.tile p).scan.spassDone = false ∧ (s'.tile p).scan.spassPushed = false ∧
        ∀ vd, (s.tile p).ctl.stat = .waiting (.swait vd) → (s'.tile p).vval vd = finalVec u.scan.finalCfg u.scan.final ∧
          ∀ v, v ≠ vd → (s'.tile p).vval v = (s.tile p).vval v)

/-! ## Events of barriers and of the gang boundary -/

/-- R121 to R132: a cue entry is fetched into the window with its fields; an entry whose members have all arrived fires with its vote, to be
released 3 ticks later, and a gang boundary begins instead; a cross-die entry is reported to every die it names on that tick, and reports are kept; once every
named die has every report, the entry fires on all of them with one vote over all their members, to be released 48 ticks after the latest report (later
where R31, or the end of a migration, is later), and a gang boundary begins instead; from its
tick on, and not before, a fired entry releases its members, each with WAITV's result (which joins the touchmark of a pair: log 22); a fired PKG entry is reported at its tick, and then falls due at a
tick named 4,096 or more later. A gang boundary's release delivers the old values of the thread's DAMOs first, in program order. (That the end of a migration
counts as a late arrival is the model's reading of R133.) -/
def Obligations.BarrierEvents : Prop :=
  (∀ (s : State) (gid d : Nat) (g : Gang) (b : Bmu), s.gang? gid = some g → g.bmu d = some b →
     (g.sealed = false → b.next < b.count → b.win.length < 32 → ∃ s' g' b', exec (.cueEntryFetch gid d) s = .next s' ∧ s'.gang? gid = some g' ∧
       g'.bmu d = some b' ∧ b'.next = b.next + 1 ∧ b'.win.map (·.idx) = b.win.map (·.idx) ++ [b.next] ∧ b'.arrived = b.arrived ∧
       s'.tiles = s.tiles ∧ ∀ (w : Nat → Nat), (∀ k, k < 4 → ∃ a, s.sysPa g.part (b.base.toNat + 32 * b.next + 8 * k) .read = some a ∧ w k = s.memNat a 8) →
         ∃ e, b'.win.getLast? = some e ∧ e.xtag.toNat = w 0 / 2 ^ 32 % 256 ∧ e.vote.toNat = w 0 / 2 ^ 40 % 256 ∧
           e.s = (w 0).testBit 48 ∧ e.v = (w 0).testBit 49 ∧ e.term = (w 0).testBit 50 ∧ e.timed = (w 0).testBit 51 ∧
           e.pkg = (w 0).testBit 52 ∧ e.dies.toNat = w 0 / 2 ^ 56 % 256 ∧
           ∀ i j, i < 3 → j < 64 → e.member.getLsbD (64 * i + j) = (w (i + 1)).testBit j) ∧
     (∀ k e, b.win[k]? = some e → e.dies = 0 → s.localReady g d b e = true → g.commit = none → g.goes s.tick = true → g.rolling = none →
       s.heldBySends g [(d, e)] = false →
       (g.isBoundary e = false → exec (.barrierFire gid d k) s = .next (s.setGang { g.setBmu d (b.retire e) with
         fired := g.fired ++ [⟨[(d, e.member)], voteResult e.vote (b.votes e), e.timed, e.term, e.pkg && g.top == 5, false, false,
           s.tick + 3⟩] })) ∧
       (g.isBoundary e = true → g.bcause = 0 →
         exec (.barrierFire gid d k) s = .next (s.setGang { g with commit := some ⟨[(d, e.idx)], false⟩ }))) ∧
     (∀ k e, b.win[k]? = some e → e.dies ≠ 0 → e.reported = false → s.localReady g d b e = true → g.goes s.tick = true →
       ∃ s', exec (.readyReport gid d k) s = .next s' ∧ s'.tiles = s.tiles ∧
         s'.net = s.net ++ ((List.range 8).filter fun i => e.dies.getLsbD i).map fun i =>
           ⟨gid, d, i, .ready ⟨d, e, b.votes e, s.tick⟩, s.tick, false, s.tick, 0⟩)) ∧
  (∀ (s : State) (gid d k : Nat) (g : Gang) (b : Bmu) (e : Cue) (es : List (Nat × Cue)), s.gang? gid = some g → g.bmu d = some b →
     b.win[k]? = some e → e.dies ≠ 0 → e.dies.getLsbD d = true → e.ok = true → e.reported = true → g.commit = none → g.goes s.tick = true → g.rolling = none →
     let ds := (List.range 8).filter fun i => e.dies.getLsbD i
     es.map (·.1) = ds →
     (∀ x ∈ es, ∃ b', g.bmu x.1 = some b' ∧ (b'.win.find? fun y => y.ok && y.reported && y.matches e && y.agrees e) = some x.2 ∧
       (∀ i ∈ ds, ∃ r ∈ b'.reports, r.die = i ∧ r.cue.matches e = true) ∧ ∀ j ∈ slotsOf x.2.member, (s.slotTile g x.1 j).migrating = false) →
     s.heldBySends g es = false →
     (g.isBoundary e = true → (∀ x ∈ es, g.isBoundary x.2 = true) → g.bcause = 0 →
       exec (.barrierFire gid d k) s = .next (s.setGang { g with commit := some ⟨es.map fun x => (x.1, x.2.idx), true⟩ })) ∧
     (g.isBoundary e = false → ∃ g' f, exec (.barrierFire gid d k) s = .next (s.setGang g') ∧ g'.fired = g.fired ++ [f] ∧
       f.members = es.map (fun x => (x.1, x.2.member)) ∧ f.result = voteResult e.vote (es.flatMap fun x => ((g.bmu x.1).map fun b => b.votes x.2).getD []) ∧
       f.timed = e.timed ∧ f.term = e.term ∧ f.boundary = false ∧
       (∀ m, (∃ x ∈ es, ∃ b', g.bmu x.1 = some b' ∧ ∃ r ∈ b'.reports, r.cue.matches x.2 = true ∧ r.tick = m) →
         (∀ x ∈ es, ∀ b', g.bmu x.1 = some b' → ∀ r ∈ b'.reports, r.cue.matches x.2 = true → r.tick ≤ m) →
         f.due = max m (if e.s then s.tick else s.lastArrival g es) + 48) ∧
       ∀ x ∈ es, ∃ b', g'.bmu x.1 = some b' ∧ (∀ y ∈ b'.win, y.idx ≠ x.2.idx) ∧ ∀ j ∈ slotsOf x.2.member, smFind j b'.arrived = none)) ∧
  (∀ (s s1 : State) (k : Nat) (f : Flight) (r : Report) (g : Gang) (b : Bmu), s.arrival k = some (f, s1) → f.msg = .ready r →
     s1.gang? f.g = some g → g.bmu f.dst = some b → (∀ e ∈ b.win, e.matches r.cue = false) →
     ∃ s' g' b', exec (.readyReportArrival k) s = .next s' ∧ s'.gang? f.g = some g' ∧ g'.bmu f.dst = some b' ∧
       b'.reports = b.reports ++ [r] ∧ b'.win.map (·.idx) = b.win.map (·.idx) ∧ s'.tiles = s.tiles) ∧
  (∀ (s : State) (gid k : Nat) (g : Gang) (f : Fired), s.gang? gid = some g → g.fired[k]? = some f → f.boundary = false → s.allWait g f = true →
     f.pkg = false → g.goes s.tick = true →
     (s.tick < f.due → exec (.barrierRelease gid k) s = .next s) ∧
     (f.due ≤ s.tick → ∃ s' g', exec (.barrierRelease gid k) s = .next s' ∧ s'.tick = s.tick ∧ s'.gang? gid = some g' ∧
       g'.fired = g.fired.eraseIdx k ∧ (∀ p, p ∉ g.firedTiles f → s'.tile p = { s.tile p with pair := (s'.tile p).pair }) ∧ s'.mem = s.mem ∧ s'.net = s.net ∧
       ∀ p ∈ g.firedTiles f, (s'.tile p).ctl.stat = .running ∧ (s'.tile p).ctl.passedTerm = ((s.tile p).ctl.passedTerm || f.term) ∧
         (s'.tile p).ni.timedWin = f.timed ∧
         (∀ v, (s.tile p).ctl.stat = .waiting (.barrier none v) → ∀ r, (s'.tile p).xval r = (s.tile p).xval r) ∧
         ∀ rd v, (s.tile p).ctl.stat = .waiting (.barrier (some rd) v) → ∀ r, (s'.tile p).xval r = ((s.tile p).putX rd f.result).xval r)) ∧
  (∀ (s : State) (gid k : Nat) (g : Gang) (f : Fired), s.gang? gid = some g → g.fired[k]? = some f → f.boundary = true → s.allWait g f = true →
     f.pkg = false → g.goes s.tick = true → (g.firedTiles f).Nodup →
     (s.tick < f.due → exec (.barrierRelease gid k) s = .next s) ∧
     (f.due ≤ s.tick → ∃ s' g', exec (.barrierRelease gid k) s = .next s' ∧ s'.gang? gid = some g' ∧ g'.fired = g.fired.eraseIdx k ∧
       s'.mem = s.mem ∧ s'.net = s.net ∧ ∀ p ∈ g.firedTiles f, (s'.tile p).ctl.stat = .running ∧ (s'.tile p).damos = [] ∧
         ∀ rd v, (s.tile p).ctl.stat = .waiting (.barrier rd v) → (∀ e ∈ (s.tile p).damos, e.rd ≠ 28 ∧ e.rd ≠ 29) → rd ≠ some 28 → rd ≠ some 29 →
           let u := (s.tile p).damos.foldl (fun u e => u.putX e.rd e.old) (s.tile p)
           let u := match rd with
             | some r => u.putX r f.result
             | none => u
           ∀ r, (s'.tile p).xval r = u.xval r)) ∧
  ∀ (s : State) (gid k : Nat) (g : Gang) (f : Fired), s.gang? gid = some g → g.fired[k]? = some f →
    (g.fired.findIdx? (fun f => f.pkg && f.reportedPkg) = some k → ∀ at_,
      ((at_ < f.due + 4096 ∨ at_ < s.tick) → exec (.pkgRelease gid at_) s = .next s) ∧
      (f.due + 4096 ≤ at_ → s.tick ≤ at_ → exec (.pkgRelease gid at_) s = .next (s.setGang { g with
        fired := g.fired.set k { f with pkg := false, due := at_ } }))) ∧
    (g.fired.findIdx? (fun f => f.pkg && !f.reportedPkg) = some k →
      (s.tick < f.due → exec (.pkgReadyReport gid) s = .next s) ∧
      (f.due ≤ s.tick → exec (.pkgReadyReport gid) s = .next (s.setGang { g with
        fired := g.fired.set k { f with reportedPkg := true, due := s.tick } })))

/-- R128: what a vote answers over the low 32 bits of the members' values as signed numbers, sign-extended: AND, OR, greatest, least, saturating sum. -/
def Obligations.VoteResults : Prop :=
  ∀ (vs : List Word) (v : Word), v ∈ vs →
    (∀ i, i < 64 → (voteResult 1 vs).getLsbD i = vs.all fun w => w.getLsbD (min i 31)) ∧
    (∀ i, i < 64 → (voteResult 2 vs).getLsbD i = vs.any fun w => w.getLsbD (min i 31)) ∧
    ((v.setWidth 32).toInt ≤ (voteResult 3 vs).toInt ∧ ∃ w ∈ vs, (voteResult 3 vs).toInt = (w.setWidth 32).toInt) ∧
    ((voteResult 4 vs).toInt ≤ (v.setWidth 32).toInt ∧ ∃ w ∈ vs, (voteResult 4 vs).toInt = (w.setWidth 32).toInt) ∧
    (voteResult 5 vs).toInt = max (-2 ^ 31) (min (2 ^ 31 - 1) ((vs.map fun w => (w.setWidth 32).toInt).sum))

/-- R108, R110, R112 to R114, R116, R117: the armed gang boundary begins when its conditions hold; the next task's bytes are staged, those of one slice or
of all (which is free; the one staged map of all slices is the model's: log 80), over those before; a task that read them restarts from its checkpoint, or, where
its undo log is not whole, every member takes the abort-unprotected cause at its WAIT; a DAMO request is recorded, and applied with its old value returned. The
publication writes the staged bytes and those of the DAMOs, in logical-index and then program order, and no other byte, snapshots every member, begins a new
stretch and fires the entry, to be released 3 ticks later, 48 where it is cross-die. R402, R403: a member whose MERR was set takes ERROR with LASTERR 3, or 4
after the rollback; under POISON the first such boundary rolls the gang back instead, 512 ticks later; one that a serial run has reached counts in RELSTAT
with LASTERR 5. R118 to R120: the hallmarks of the tasks, by line and in ascending order, their gang sum, and the 32 B entries: RECORD writes one for each task and
the GT entry, VERIFY compares, and at the first mismatch every member takes the mismatch cause and nothing is published. (That a faulting table has the fate of
its last clause is R372 for writes and log 54 for reads.) -/
def Obligations.BoundaryEvents : Prop :=
  (∀ (s : State) (gid d : Nat) (g : Gang) (b : Bmu) (e : Cue), s.gang? gid = some g → g.bmu d = some b →
     (g.bmus.zipIdx.findSome? fun b => (b.1.win.find? fun e => g.isBoundary e).map fun e => (b.2, b.1, e)) = some (d, b, e) →
     e.dies = 0 → s.localReady g d b e = true → g.commit = none → g.goes s.tick = true → g.rolling = none → g.bcause = 0 →
     s.heldBySends g [(d, e)] = false →
     exec (.gangBoundaryCommit gid) s = .next (s.setGang { g with commit := some ⟨[(d, e.idx)], false⟩ })) ∧
  (∀ (s : State) (gid : Nat) (g : Gang) (k : TaskAt), s.gang? gid = some g → g.commit.isSome = true → s.nextMerge g = some k →
     let ns := k.task.nextSlices s.steps
     let bs := k.task.gsb.filter fun b => ns.contains (sliceOf b.1)
     (k.task.gsb.map (·.1)).Nodup →
     (∀ e ∈ g.l2p, (s.tile e.2).firstRead (k.idx.isSome && e.2 == k.p) k.key.2.2 (linesOf (bs.map (·.1))) = none) →
     ∃ s' g', exec (.taskMerge gid) s = .next s' ∧ s'.gang? gid = some g' ∧ s'.mem = s.mem ∧ s.OtherTiles s' k.p ∧
       (s'.tile k.p).regs = (s.tile k.p).regs ∧ (s'.tile k.p).spad = (s.tile k.p).spad ∧
       (∀ i, k.idx = some i → ((s'.tile k.p).task.tasks[i]?).map (·.merged) = ((s.tile k.p).task.tasks[i]?).map fun _ =>
         k.task.gsb.all fun b => (k.task.sliced ++ ns).contains (sliceOf b.1)) ∧
       ∀ pa, smFind pa g'.staged =
         if ns.contains (sliceOf pa) then ((smFind pa k.task.gsb).map (·.2)).or (smFind pa g.staged) else smFind pa g.staged) ∧
  (∀ (t : Tile) (n : Nat) (u : Task) (c : Ckpt), t.task.tasks[n]? = some u → t.task.cks[u.ck]? = some c →
     (t.abort n).regs = c.regs ∧ (t.abort n).fe.pc = c.pc ∧ (t.abort n).fe.aq = [] ∧ (t.abort n).fe.xq = [] ∧ (t.abort n).fe.xl = [] ∧ (t.abort n).spad = c.spad ∧
     (t.abort n).env = c.env ∧ (t.abort n).mx.acc = c.acc ∧ (t.abort n).mx.front = c.front ∧ (t.abort n).mx.back = c.back ∧
     (t.abort n).mx.fills = c.fills ∧ (t.abort n).mx.scales = c.scales ∧ (t.abort n).ur = { c.ur with cursor := u.pos } ∧
     (t.abort n).task.redo = (t.task.tasks.drop n).map (fun k => (k.ts, k.pos)) ++ t.task.redo ∧
     (t.abort n).task.tasks = t.task.tasks.take n ∧ (t.abort n).task.opened = false ∧ (t.abort n).ctl.stat = .running) ∧
  (∀ (s s1 : State) (p k id : Nat) (f : Flight), s.arrival k = some (f, s1) → f.msg = .damo id → s1.flightTile f f.src = some p →
     exec (.damoRequestRecord k) s = .next (s1.onTile p fun t =>
       { t with damos := t.damos.map fun d => if d.id = id then { d with recorded := true } else d })) ∧
  (∀ (mem : Memory) (staged : SMap Byte) (d : Damo),
     let n := wBytes d.w
     let old := leNat ((List.range n).map fun i => (smFind (d.pa + i) staged).getD (memRead (d.pa + i) mem))
     let r := applyDamo mem (staged, []) d
     r.2 = [{ d with old := wSext d.w old }] ∧
     (∀ i, i < n → smFind (d.pa + i) r.1 = some (BitVec.ofNat 8 (d.form.apply d.w old d.b.toNat / 256 ^ i))) ∧
     ∀ a, (∀ i, i < n → a ≠ d.pa + i) → smFind a r.1 = smFind a staged) ∧
  (∀ (s : State) (gid : Nat) (g : Gang) (k : TaskAt), s.gang? gid = some g → g.commit.isSome = true → g.serial = 0 → s.nextMerge g = some k →
     let ns := k.task.nextSlices s.steps
     let bs := k.task.gsb.filter fun b => ns.contains (sliceOf b.1)
     (∃ e ∈ g.l2p, ((s.tile e.2).firstRead (k.idx.isSome && e.2 == k.p) k.key.2.2 (linesOf (bs.map (·.1)))).isSome = true ∧ (s.tile e.2).undo.full = true) →
     ∃ s' g', exec (.taskMerge gid) s = .next s' ∧ s'.gang? gid = some g' ∧ g'.bcause = 0x61 ∧ g'.commit = none ∧ g'.staged = [] ∧ g'.step = g.step ∧
       s.BTrapped s' g 0x61) ∧
  (∀ (s : State) (gid : Nat) (g : Gang) (c : Commit), s.gang? gid = some g → g.commit = some c → s.publishReady g = true →
    let st := s.damoRun g.l2p g.staged
    let key := Config.gangKey g.key
    let ks := s.allTasks g
    let publishes := fun (v : State) (used : Nat) => ∃ s' g', exec (.gangBoundaryPublish gid) s = .next s' ∧ s'.gang? gid = some g' ∧
      g'.step = g.step + 1 ∧ g'.commit = none ∧ g'.staged = [] ∧ g'.serial = 0 ∧ g'.bcause = 0 ∧ g'.poisonRolled = false ∧ g'.hcount = g.hcount + used ∧
      g'.l2p = g.l2p ∧ (∀ pa, memRead pa s'.mem = (smFind pa st.1).getD (memRead pa v.mem)) ∧ (∀ p, (∀ e ∈ g.l2p, e.2 ≠ p) → s'.tile p = s.tile p) ∧
      (g.commitEntries c ≠ [] → ∃ f, g'.fired = g.fired ++ [f] ∧ f.boundary = true ∧ f.due = s.tick + (if c.cross then 48 else 3) ∧
        f.members = (g.commitEntries c).map fun x => (x.1, x.2.member)) ∧
      ∀ i e, g.l2p[i]? = some e → let t := s.tile e.2
        let u := s'.tile e.2
        u.damos = st.2.getD i [] ∧ u.task.tasks = [] ∧ u.task.bg.gsb = [] ∧ u.undo.used = 0 ∧ u.undo.full = false ∧ u.regs = t.regs ∧ u.spad = t.spad ∧
        u.ir.relstat.getLsbD 0 = true ∧ bitsOf u.ir.relstat 6 2 = 0 ∧
        (g.serial = 0 → (if g.poisonRolled then t.ctl.failed else t.ctl.poisoned) = false → u.sr = t.sr) ∧
        ((if g.poisonRolled then t.ctl.failed else t.ctl.poisoned) = true → u.sr.intpend.getLsbD 13 = true ∧
          (g.serial = 0 → bitsOf u.ir.relstat 51 48 = if g.poisonRolled then 4 else 3)) ∧
        (g.serial ≠ 0 → u.sr.intpend.getLsbD 13 = true ∧ bitsOf u.ir.relstat 51 48 = 5 ∧
          bitsOf u.ir.relstat 39 32 = min (bitsOf t.ir.relstat 39 32 + 1) 255) ∧
        ∃ k, u.snap = some k ∧ k.regs = t.delivered.regs ∧ k.spad = t.spad ∧ k.pc = t.fe.pc ∧ k.acc = t.mx.acc ∧ k.env = t.env
    g.endAtBoundary = false → s.svc.moves = [] → (g.l2p.map (·.2)).Nodup → (st.1.map (·.1)).Nodup → Memory.wf s.mem = true →
    ((g.poison = false ∨ g.poisonRolled = true ∨ ∀ e ∈ g.l2p, (s.tile e.2).ctl.poisoned = false) →
      ((g.det = false ∨ g.hsub = 0) → publishes s 0) ∧
      ((∀ e ∈ g.l2p, (s.tile e.2).damos = []) → g.det = true →
        let es := ks.map (fun k => hallEntry k.key.1 k.key.2.1 false (k.task.hallmark key) (g.step + 1)) ++
          [hallEntry 0 0 true (gangHallmark key ks) (g.step + 1)]
        (g.hsub = 1 → ∀ v, s.writeHall g g.hcount es = some v → publishes v es.length) ∧
        (2 ≤ g.hsub → ∀ es, s.hallStretch g (g.step + 1) 6300000 g.hcount = some es → firstMismatch key ks es = none → publishes s (es.length + 1)))) ∧
    (g.poison = true → g.poisonRolled = false → (∃ e ∈ g.l2p, (s.tile e.2).ctl.poisoned = true) → (g.det = false ∨ g.hsub = 0) →
      ∃ s' g' due, exec (.gangBoundaryPublish gid) s = .next s' ∧ s'.gang? gid = some g' ∧ g'.rolling = some (due, 1) ∧ s.tick + 512 ≤ due ∧
        (g.top ≠ 5 → due = s.tick + 512) ∧ g'.poisonRolled = true ∧ g'.commit = none ∧ g'.staged = [] ∧ g'.step = g.step ∧ g'.fired = g.fired ∧
        s'.mem = s.mem ∧ ∀ p, (s'.tile p).regs = (s.tile p).regs ∧ (s'.tile p).snap = (s.tile p).snap) ∧
    ((∀ e ∈ g.l2p, (s.tile e.2).damos = []) → g.det = true →
      (2 ≤ g.hsub → g.serial = 0 → ∀ es k, s.hallStretch g (g.step + 1) 6300000 g.hcount = some es → firstMismatch key ks es = some k →
        ∃ s' g', exec (.gangBoundaryPublish gid) s = .next s' ∧ s'.gang? gid = some g' ∧ g'.bcause = 0x60 ∧ g'.suspect = k.key.2.1 ∧ g'.commit = none ∧
          g'.step = g.step ∧ s.BTrapped s' g 0x60) ∧
      ((g.hsub = 1 → s.writeHall g g.hcount (ks.map (fun k => hallEntry k.key.1 k.key.2.1 false (k.task.hallmark key) (g.step + 1)) ++
          [hallEntry 0 0 true (gangHallmark key ks) (g.step + 1)]) = none) →
        (2 ≤ g.hsub → s.hallStretch g (g.step + 1) 6300000 g.hcount = none) → g.hsub ≠ 0 →
        ∃ s' g', exec (.gangBoundaryPublish gid) s = .next s' ∧ s'.gang? gid = some g' ∧ g'.bcause = 0x61 ∧ g'.commit = none ∧ g'.step = g.step ∧
          s'.mem = s.mem ∧ s.BTrapped s' g 0x60))) ∧
  (∀ (key : BitVec 128) (k : Task), k.hallmark key = sipHash key k.message ∧
    ∃ (ls : List Nat) (bs : List (Nat × Byte)), ls.Pairwise (· < ·) ∧ (∀ n, n ∈ ls ↔ ∃ b ∈ k.gsb, b.2.1 / 64 = n) ∧
      (∀ b ∈ k.gsb, ∃ v, smFind b.2.1 bs = some v) ∧ (∀ e ∈ bs, ∃ b ∈ k.gsb, b.2 = e) ∧
      k.message = (match k.pred with
        | some (a, v) => leBytes 8 (a.toNat % 2 ^ 63 + 2 ^ 63) ++ leBytes 8 0xFF ++ leBytes 8 v.toNat ++ List.replicate 56 0
        | none => []) ++ ls.flatMap (lineRecord bs)) ∧
  (∀ (bs : List (Nat × Byte)) (line : Nat), line < 2 ^ 57 → let r := lineRecord bs line
    r.length = 80 ∧ leNat (r.take 8) = line * 64 ∧
    (∀ i, i < 64 → (leNat ((r.drop 8).take 8)).testBit i = (smFind (line * 64 + i) bs).isSome ∧
      r.getD (16 + i) 0 = (smFind (line * 64 + i) bs).getD 0)) ∧
  (∀ key : BitVec 128, gangHallmark key [] = 0 ∧ ∀ (k : TaskAt) (ks : List TaskAt), gangHallmark key (k :: ks) =
    sipHash key (leBytes 2 k.key.2.1 ++ leBytes 6 k.key.1 ++ leBytes 8 (k.task.hallmark key).toNat) + gangHallmark key ks) ∧
  (∀ (ts l step : Nat) (gt : Bool) (hm : Word), ts < 2 ^ 48 → l < 2 ^ 11 → step < 2 ^ 64 →
    let n := leNat (hallEntry ts l gt hm step)
    (hallEntry ts l gt hm step).length = 32 ∧ n % 2 ^ 48 = ts ∧ n / 2 ^ 48 % 2 ^ 11 = l ∧ n.testBit 63 = gt ∧ n / 2 ^ 59 % 2 ^ 4 = 0 ∧
    n / 2 ^ 64 % 2 ^ 64 = hm.toNat ∧ n / 2 ^ 128 % 2 ^ 64 = step ∧ n / 2 ^ 192 = 0) ∧
  ∀ (key : BitVec 128) (k : TaskAt) (ks : List TaskAt) (es : List (Nat × Word)),
    firstMismatch key [] es = none ∧
    ((∀ e ∈ es, e.1 % 2 ^ 59 ≠ k.key.1 % 2 ^ 48 + k.key.2.1 * 2 ^ 48) → firstMismatch key (k :: ks) es = some k) ∧
    ∀ i w h, es[i]? = some (w, h) → w % 2 ^ 59 = k.key.1 % 2 ^ 48 + k.key.2.1 * 2 ^ 48 →
      (∀ j e, j < i → es[j]? = some e → e.1 % 2 ^ 59 ≠ k.key.1 % 2 ^ 48 + k.key.2.1 * 2 ^ 48) →
      firstMismatch key (k :: ks) es = if h = k.task.hallmark key then firstMismatch key ks (es.eraseIdx i) else some k

/-! ## Events of the network and of memory -/

/-- R138 to R144, R152, R154, R155: a packet in its turn enters its queue and is acknowledged, its SPILLED bit set when it finds no room; one ahead of its
turn waits in the reorder buffer, or is sent back when that is full, to be sent again 64 ticks later, as a matrix command is (R172); acknowledgements free replay entries and
stream slots return, and a SNDH that waits for one of that stream runs on; notes and other entries reach the mailbox, held ones as soon as there is room; an item of any class that may have waited, and the requests and responses of a global load or a copy, once it
has waited longer than DLTIMEOUT, and at least 64 ticks, is parked, counted in NETSTAT, a request at its sender and every one on the die, and taken up again.
(That it then counts as waiting in a shared pool is log 60, the die of its way on which it escapes log 76; a stream queue is written without a check of its
room: log 77.) -/
def Obligations.NetworkEvents : Prop :=
  (∀ (s s1 : State) (p k g : Nat) (f : Flight) (m : Pkt), s.arrival k = some (f, s1) → f.msg = .packet m → s1.flightTile f f.dst = some p →
     (s1.tile p).gang = some g →
     let t := s1.tile p
     let q := t.rq m.queue
     let n := 32 * (1 + m.data.length / 4)
     let acks := fun (s' : State) => s'.net = s1.net ++ [⟨g, t.lidx, m.src, .ack m.queue m.seq, 0, false, s1.tick, t.pair.count + 1⟩] ∧
       smGet 0 m.key (s'.tile p).ni.expect = (m.seq + 1) % 2 ^ 32 ∧ (s'.tile p).regs = t.regs ∧ s1.OtherTiles s' p
     let turn := m.seq = smGet 0 m.key t.ni.expect ∧ t.ni.reorder = []
     (m.queue < 4 → turn → t.ctl.stat ≠ .halted → t.rqLog m.queue ≠ 0 →
       (q.stream = true ∨ t.sr.ovfstat.getLsbD m.queue = false ∧ q.used + n ≤ 2 ^ t.rqLog m.queue) →
       ∃ s', exec (.packetArrival k) s = .next s' ∧ acks s' ∧ s'.mem = s.mem ∧ (s'.tile p).rq m.queue =
         { q with wr := (q.wr + n) % 2 ^ t.rqLog m.queue, ents := q.ents ++ [⟨t.rqBase m.queue + q.wr, n, m.src⟩] }) ∧
     (m.queue < 4 → turn → q.stream = false →
       (t.ctl.stat = .halted ∨ t.rqLog m.queue = 0 ∨ t.sr.ovfstat.getLsbD m.queue = true ∨ 2 ^ t.rqLog m.queue < q.used + n) →
       ∃ s', exec (.packetArrival k) s = .next s' ∧ acks s' ∧ (s'.tile p).rq m.queue = q ∧ (s'.tile p).sr.ovfstat.getLsbD m.queue = true ∧
         bitsOf (s'.tile p).ir.netstat 47 32 = min (bitsOf t.ir.netstat 47 32 + 1) 0xFFFF) ∧
     (m.queue < 4 → m.seq ≠ smGet 0 m.key t.ni.expect →
       (t.ni.reorder.length < Config.reorderDepth →
         exec (.packetArrival k) s = .next (s1.setTile p { t with ni := { t.ni with reorder := t.ni.reorder ++ [m] } })) ∧
       (Config.reorderDepth ≤ t.ni.reorder.length →
         exec (.packetArrival k) s = .next { s1 with net := s1.net ++ [⟨g, t.lidx, f.src, .retry m, s1.tick + 64, false, s1.tick, t.pair.count + 1⟩] })) ∧
     (m.queue = 4 → turn → t.ctl.stat ≠ .halted → t.sr.ovfstat.getLsbD 4 = false → t.ni.mbox.length < Config.mailboxDepth →
       ∃ s', exec (.noteArrival k) s = .next s' ∧ acks s' ∧ s'.mem = s.mem ∧
         (s'.tile p).ni.mbox = t.ni.mbox ++ [(mboxWord 3 0 0 0 m.src, m.tag)])) ∧
  (∀ (s s1 : State) (p k : Nat) (f : Flight), s.arrival k = some (f, s1) → s1.flightTile f f.dst = some p →
     let t := s1.tile p
     (∀ back again, (∃ m, f.msg = .retry m ∧ back = f.msg ∧ again = .packet m) ∨
         (∃ ent id cap c clean, f.msg = .retryCmd ent id cap c clean ∧ back = f.msg ∧ again = .mcmd ent id cap c clean) →
       ∃ s', exec (.retryResend k) s = .next s' ∧
       s'.net = s1.net ++ [⟨f.g, t.lidx, f.src, again, 0, false, s1.tick, 0⟩] ∧ (s'.tile p).regs = t.regs ∧ s1.OtherTiles s' p ∧
       bitsOf (s'.tile p).ir.netstat 31 16 = min (bitsOf t.ir.netstat 31 16 + 1) 0xFFFF) ∧
     (∀ q n, f.msg = .ack q n → exec (.packetAckArrival k) s =
       .next (s1.onTile p fun t => { t with ni := { t.ni with replay := t.ni.replay.erase (f.src, q, n) } })) ∧
     (∀ q, f.msg = .slotBack q none →
       (t.ctl.stat ≠ .waiting (.stream f.src q) → t.ctl.stat ≠ .stopped (some (.stream f.src q)) → t.ctl.stat ≠ .moving (some (.stream f.src q)) →
         exec (.streamSlotReturn k) s = .next (s1.onTile p fun t => t.slotAdd f.src q (· + 1))) ∧
       let goes := fun (st : Stat) => exec (.streamSlotReturn k) s =
           .next (s1.onTile p fun t => { t.slotAdd f.src q (· + 1) with ctl := { t.ctl with stat := st } })
       (t.ctl.stat = .waiting (.stream f.src q) → goes .running) ∧ (t.ctl.stat = .stopped (some (.stream f.src q)) → goes (.stopped none)) ∧
       (t.ctl.stat = .moving (some (.stream f.src q)) → goes (.moving none))) ∧
     (∀ w0 w1, f.msg = .mail w0 w1 → t.ctl.stat ≠ .halted → t.sr.ovfstat.getLsbD 4 = false → t.ni.mbox.length < Config.mailboxDepth →
       exec (.noteArrival k) s = .next (s1.onTile p fun t => { t with ni := { t.ni with mbox := t.ni.mbox ++ [(w0, w1)] } }))) ∧
  ∀ (s : State) (p k : Nat),
    (∀ e r, p < Config.tiles → (s.tile p).ni.held = e :: r → (s.tile p).ni.mbox.length < Config.mailboxDepth →
      ∃ s', exec (.localMailboxDelivery p) s = .next s' ∧ (s'.tile p).ni.held = r ∧ (s'.tile p).ni.mbox = (s.tile p).ni.mbox ++ [e] ∧
        (s'.tile p).regs = (s.tile p).regs ∧ s.OtherTiles s' p ∧ s'.mem = s.mem ∧ s'.net = s.net) ∧
    (let escapes := fun (d p since : Nat) (request : Bool) (u : Tile) (net : List Flight) =>
        let wait := max 64 (s.die d).dltimeout.toNat
        (s.tick ≤ since + wait → exec (.escapeMove k) s = .next s) ∧
        (since + wait < s.tick → ∃ s', exec (.escapeMove k) s = .next s' ∧ s'.net = net ∧ s'.mem = s.mem ∧
          bitsOf (s'.tile p).ir.netstat 15 0 =
            (if request then min (bitsOf u.ir.netstat 15 0 + 1) 0xFFFF else bitsOf u.ir.netstat 15 0) ∧
          (s'.tile p).regs = u.regs ∧ (s'.tile p).loads = u.loads ∧ (s'.tile p).copies = u.copies ∧
          (∀ q, q ≠ p → (s'.tile q).regs = (s.tile q).regs) ∧
          ((s.tiles.map (·.1)).Pairwise (· < ·) → ∀ q, q ≠ p → q ∈ s.tiles.map (·.1) → bitsOf (s'.tile q).ir.netstat 63 48 = (if q / 192 = d
            then min (bitsOf (s.tile q).ir.netstat 63 48 + 1) 0xFFFF else bitsOf (s.tile q).ir.netstat 63 48)));
      (∀ f, s.net[k]? = some f → f.parked = false → s.mayWait f = true → s.flightTile f f.src = some p →
        escapes (s.escapeDie (s.itemFrom f) (s.itemDie f p) f.msg.rdir f.since) p f.since f.msg.isRequest (s.tile p) (s.net.set k { f with parked := true })) ∧
      ∀ w : Under, s.net.length ≤ k → s.farRequests[k - s.net.length]? = some w →
        escapes (s.escapeDie w.a w.b 0 w.since) w.p w.since w.request w.after s.net) ∧
    ∀ f, s.net[k]? = some f → f.parked = true →
      exec (.parkedReinject k) s = .next { s with net := s.net.set k { f with parked := false, since := s.tick } }

/-- R36, R92 to R94, R97, R100, R107, R117, R223, R246, R272, R323, R358: a remote store that PERMIT grants writes its bytes and no other and is acknowledged,
a refused one writes nothing and is refused; one of several 16 B units writes each whole, some at a time; a remote load reads or is refused with zeros, several
units some at a time (how many is free: log 76); journal entries free; a refusal is queued, or lost with
REFLOST; data that returns lands in its register, unless a later word has written that since, and its lines join the read set; an AMO behind no
earlier one of its thread to its slice acts on committed memory at once and answers the old value, and acts also when its gang has ended (R334). (A
superseded load's value is written nowhere: log 13; a swizzled span is placed with the issuer's BHKEY: log 28; what reaches a register joins the touchmark of
a pair: log 22.) -/
def Obligations.RemoteAccessEvents : Prop :=
  (∀ (s s1 : State) (p k g : Nat) (f : Flight), s.arrival k = some (f, s1) → s1.flightTile f f.dst = some p → (s1.tile p).gang = some g →
     s.remoteBehind k f = false →
     let t := s1.tile p
     let sent := fun (ms : List Msg) => s1.net ++ ms.map fun m => ⟨g, t.lidx, f.src, m, 0, false, s1.tick, t.pair.count + 1⟩
     (∀ ent id va key off w v timed begun, f.msg = .store ent id va key (byteWrites off w v) timed begun →
       (begun = true ∨ (t.grants 5 3 f.src = true ∧ t.ctl.stat ≠ .halted ∧ (t.task.hasSched = true → off + w ≤ Config.schedBase)) →
         [1, 2, 4, 8].contains w = true → off % w = 0 → Memory.wf t.spad = true →
         ∃ s', exec (.remoteStoreArrival k) s = .next s' ∧ s'.net = sent [.storeAck ent] ∧ s'.mem = s.mem ∧ s1.OtherTiles s' p ∧
           (s'.tile p).regs = t.regs ∧
           (∀ i, i < w → (s'.tile p).spadRead (spanOf va) key (off + i) = BitVec.ofNat 8 (v / 256 ^ i)) ∧
           ∀ a, (∀ i, i < w → a ≠ placeOf (spanOf va) key (off + i)) → memRead a (s'.tile p).spad = memRead a t.spad) ∧
       (begun = false → (t.grants 5 3 f.src = false ∨ t.ctl.stat = .halted) → exec (.remoteStoreArrival k) s =
         .next { s1 with net := sent [.refusal ⟨va, BitVec.ofNat 5 ent, false, false⟩ (some ent) none] })) ∧
     (∀ ent id va key ws timed begun, f.msg = .store ent id va key ws timed begun →
       (begun = true ∨ (t.grants 5 3 f.src = true ∧ t.ctl.stat ≠ .halted ∧ t.task.hasSched = false)) →
       let unit := fun (w : Piece × Nat) => placeOf (spanOf va) key w.1.off / 16
       ∃ s' now left, exec (.remoteStoreArrival k) s = .next s' ∧ (∀ w, w ∈ ws ↔ w ∈ now ∨ w ∈ left) ∧ (ws ≠ [] → now ≠ []) ∧
         (∀ w ∈ now, ∀ x ∈ left, unit w ≠ unit x) ∧ (s'.tile p).spad = (t.spadPieces (spanOf va) key now).spad ∧ s'.mem = s.mem ∧
         (left = [] → s'.net = sent [.storeAck ent]) ∧
         (left ≠ [] → s'.net = s.net.modify k fun f => { f with msg := .store ent id va key left timed true })) ∧
     ∀ id va key places low got, f.msg = .load id va key places low got →
       let ps := places.flatMap fun l => l.map fun q => placeOf (spanOf va) key q.off
       let left := leftOf ps got
       let answers := exec (.remoteLoadArrival k) s = .next { s1 with
         net := sent [.loadResp id (places.map fun ps => BitVec.ofNat 64 (readPieces (t.spadSeen got (spanOf va) key) ps)) true] }
       (got ≠ [] ∨ (t.grants 2 0 f.src = true ∧ t.ctl.stat ≠ .halted) →
         ((∀ a ∈ left, ∀ b ∈ left, a / 16 = b / 16) → answers) ∧
         (answers ∨ ∃ more, more ≠ [] ∧ (∀ e ∈ more, e.1 ∈ left ∧ e.2 = memRead e.1 t.spad) ∧ exec (.remoteLoadArrival k) s =
           .next { s with net := s.net.modify k fun f => { f with msg := .load id va key places low (got ++ more) } })) ∧
       (got = [] → (t.grants 2 0 f.src = false ∨ t.ctl.stat = .halted) → exec (.remoteLoadArrival k) s =
         .next { s1 with net := sent [.loadResp id (places.map fun _ => 0) false, .refusal ⟨va, low, true, false⟩ none (some id)] })) ∧
  (∀ (s s1 : State) (p k : Nat) (f : Flight), s.arrival k = some (f, s1) → s1.flightTile f f.dst = some p →
     let t := s1.tile p
     let lands := fun (i : Instr) (id : Nat) (data : List Word) => ∀ l rd, t.findLoad id = some l → l.rd = some rd →
       ∃ s', exec i s = .next s' ∧
         (s'.tile p).regs = (if l.dead = none then (t.putX rd (extend l.signed l.size (data.headD 0).toNat)).regs else t.regs) ∧
         (s'.tile p).loads = t.loads.filter (fun m => m.id != l.id) ∧ (s'.tile p).spad = t.spad ∧ (∀ r, r ≠ p → s'.tile r = { s1.tile r with pair := (s'.tile r).pair }) ∧ s'.mem = s.mem
     (∀ ent, f.msg = .storeAck ent → exec (.remoteStoreAck k) s =
       .next (s1.onTile p fun t => { t with ni := { t.ni with journal := t.ni.journal.filter fun e => e.num != ent } })) ∧
     (∀ r ent ld, f.msg = .refusal r ent ld → ∃ s', exec (.refusalArrival k) s = .next s' ∧ s1.OtherTiles s' p ∧ s'.mem = s.mem ∧
       (s'.tile p).ni.journal = (match ent with
         | some n => t.ni.journal.filter fun e => e.num != n
         | none => t.ni.journal) ∧
       (t.ni.refusals.length < Config.refusalDepth → (s'.tile p).ni.refusals = t.ni.refusals ++ [r]) ∧
       (Config.refusalDepth ≤ t.ni.refusals.length → (s'.tile p).ni.refusals = t.ni.refusals ∧ (s'.tile p).sr.intpend.getLsbD 16 = true)) ∧
     (∀ id data ok, f.msg = .loadResp id data ok → lands (.remoteLoadResponse k) id data) ∧
     (∀ id stack old, f.msg = .amoResp id stack old → lands (.amoResponse k) id [old])) ∧
  (∀ (s : State) (p k : Nat) (l : Load) (rd : XReg) (bytes : List (Nat × Option Byte)) (task : Option Nat),
     let t := s.tile p
     t.findLoad k = some l → l.kind = .global bytes task → l.rd = some rd → l.lanes = 1 → s.amoBefore t l.id (bytes.map (·.1)) = false →
     (∀ e ∈ t.fe.late, ∀ task' pas, e.what ≠ .read l.id task' pas) → (∀ g, t.gang = some g → s.ejected g = false) → t.maskAwaited l.id = false →
     let bs := bytes.map fun b => b.2.getD (s.committed (s.gangOf t) b.1)
     ∃ s', exec (.globalLoadResponse p k) s = .next s' ∧
       (s'.tile p).regs = (if l.dead = none then (t.putX rd (extend l.signed l.size (leNat (bs.take l.size) % 2 ^ 64))).regs else t.regs) ∧
       (s'.tile p).loads = t.loads.filter (fun m => m.id != l.id) ∧
       (∀ r, r ≠ p → s'.tile r = { s.tile r with pair := (s'.tile r).pair }) ∧ s'.mem = s.mem ∧ s'.net = s.net ∧
       ∀ i, task = some i → i < t.task.tasks.length → (t.getTask task).bg = false →
         ∀ b ∈ bytes, b.2 = none → b.1 / 64 ∈ ((s'.tile p).getTask task).reads) ∧
  ∀ (s s1 : State) (p k g id pa : Nat) (f : Flight) (w : AWidth) (form : AForm) (b c : Word), s.arrival k = some (f, s1) →
    f.msg = .amo id pa w form b c → s1.flightTile f f.src = some p → s.amoAhead k f pa = false →
    s.svc.moves = [] → Memory.wf s.mem = true →
    let n := wBytes w
    let old := s1.memNat pa n
    let new := form.apply w old b.toNat c.toNat
    let acts := fun (s' : State) => (∀ i, i < n → memRead (pa + i) s'.mem = BitVec.ofNat 8 (new / 256 ^ i)) ∧
      ∀ a, (∀ i, i < n → a ≠ pa + i) → memRead a s'.mem = memRead a s.mem
    ((s1.tile p).gang = some g → f.g = g → (s1.tile p).undo.replay = [] → ∃ s', exec (.amoAction k) s = .next s' ∧ acts s' ∧
      s'.net = s1.net ++ [⟨g, (s1.tile p).lidx, f.src, .amoResp id (pa / 2 ^ 36) (wSext w old), 0, false, s1.tick, (s1.tile p).pair.count + 1⟩] ∧
      (s'.tile p).regs = (s1.tile p).regs ∧ s1.OtherTiles s' p) ∧
    ((s1.tile p).gang ≠ some f.g → ∃ s', exec (.amoAction k) s = .next s' ∧ acts s' ∧ s'.net = s1.net ∧ s'.tiles = s.tiles)

/-- R104, R148, R149, R371, R374: behind the thread's earlier split stores to its own scratchpad, and behind every earlier copy when it is ORDERED, and not
while the context of another tile at one of its ends moves (R419), a copy starts, refused unless both ends grant it; a refused one moves nothing and posts an entry of KIND 1 that says so; a one-row RAW copy within a
scratchpad reads some of its bytes ahead or moves its next bytes and no others (how many is free: log 76), and, with the last of them, posts one entry of
KIND 1 and is over. A miss joins the walk of its frame,
or else queues one at its memory router while that holds fewer than 64; a finished walk leaves the tile with the translation that it found; a
shootdown drops the frame's entries, and only them, from every tile of the partition once all of those are quiet, and its grants from the walkers. -/
def Obligations.CopyAndWalkEvents : Prop :=
  (∀ (s : State) (p id n : Nat) (c : Copy),
     let t := s.tile p
     t.copies.findIdx? (fun c => c.id == id && c.state == .waiting) = some n → t.copies[n]? = some c →
     ((s.slotOn p = false ∨ (∃ g, t.gang = some g ∧ s.ejected g = true) ∨ (c.regs.cflags.getLsbD 0 = true ∧ n ≠ 0) ∨ t.storesBefore c.place = true ∨
         s.copyHeld p c.regs = true) →
       exec (.copyStart p id) s = .next s) ∧
     (s.slotOn p = true → (∀ g, t.gang = some g → s.ejected g = false) → (c.regs.cflags.getLsbD 0 = true → n = 0) → t.storesBefore c.place = false →
         s.copyHeld p c.regs = false → (t.pair.partner = none ∨ c.nth ≤ t.pair.agreed) →
       exec (.copyStart p id) s = .next (s.setTile p { if isSelf c.regs.csrc then t else t.route with copies := t.copies.map fun d => if d.id = id
         then { c with state := .moving, status := if s.copyGranted p c.regs && !s.copyBarred p c.regs then 0 else 1, since := s.tick } else d }))) ∧
  (∀ (s : State) (p id : Nat) (c : Copy),
     let t := s.tile p
     t.copies.find? (fun c => c.id == id && c.state == .moving) = some c → t.mboxRoom = true → s.slotOn p = true →
     (∀ g, t.gang = some g → s.ejected g = false) → t.copyWaits c = false → s.copyHeld p c.regs = false →
     (c.status = 1 → c.moved = 0 → c.flags = 0 → ∃ s', exec (.copyComplete p id) s = .next s' ∧
       (s'.tile p).spad = t.spad ∧ s.OtherTiles s' p ∧ s'.mem = s.mem ∧ (s'.tile p).ni.mbox = t.ni.mbox ++ [(mboxWord 1 1 0 id 0, 0)]) ∧
     ∀ src dst : Nat, c.status = 0 → c.regs.csrc.toNat = Config.selfBase + src → c.regs.cdst.toNat = Config.selfBase + dst → c.regs.crows = 1 →
       c.moved < c.regs.clen.toNat → src + c.regs.clen.toNat ≤ Config.scratchBytes → dst + c.regs.clen.toNat ≤ Config.scratchBytes →
       (src + c.regs.clen.toNat ≤ dst ∨ dst + c.regs.clen.toNat ≤ src) → Memory.wf t.spad = true →
       let m := c.moved + c.chunk
       (c.reads s.steps ≠ [] → ∃ got, exec (.copyComplete p id) s = .next (s.setTile p (t.setCopy { c with got := got })) ∧
         ∀ e v, smFind e got = some v → smFind e c.got = some v ∨ v = (memRead (src + e) t.spad).toNat) ∧
       (c.reads s.steps = [] → c.moved < m ∧ m ≤ c.regs.clen.toNat ∧ ∃ s', exec (.copyComplete p id) s = .next s' ∧
         (∀ i, c.moved ≤ i → i < m → memRead (dst + i) (s'.tile p).spad = (match smFind i c.got with
           | some v => BitVec.ofNat 8 v
           | none => memRead (src + i) t.spad)) ∧
         (∀ a, (a < dst + c.moved ∨ dst + m ≤ a) → memRead a (s'.tile p).spad = memRead a t.spad) ∧
         (m < c.regs.clen.toNat → (s'.tile p).ni.mbox = t.ni.mbox ∧
           ∃ got, (s'.tile p).copies.find? (fun c => c.id == id && c.state == .moving) = some { c with moved := m, got := got }) ∧
         (m = c.regs.clen.toNat → (s'.tile p).ni.mbox = t.ni.mbox ++ [(mboxWord 1 0 c.flags.toNat id 0, c.regs.clen)] ∧
           ∀ d ∈ (s'.tile p).copies, d.id ≠ id) ∧
         s.OtherTiles s' p ∧ s'.mem = s.mem ∧ s'.net = s.net)) ∧
  (∀ (s : State) (p : Nat) (va : Word) (need : Access) (g : Gang),
     let vf := va.toNat / 65536
     let d := s.die (p / 192)
     let same := d.walks.filter fun w => w.vf / 256 % 4 == vf / 256 % 4
     s.gangOf (s.tile p) = some g → va.toNat < Config.globalTop → (∀ e ∈ (s.tile p).tlb, e.hits va.toNat = false) →
     ((∀ w ∈ d.walks, ¬(w.part = g.part ∧ w.vf = vf)) →
       (same.length < 64 → exec (.translationWalk p va need) s =
         .next (s.onDie (p / 192) fun d => { d with walks := d.walks ++ [⟨g.part, vf, [(p, va, need)]⟩] })) ∧
       (64 ≤ same.length → exec (.translationWalk p va need) s = .next s)) ∧
     ∀ n, d.walks.findIdx? (fun w => w.part == g.part && w.vf == vf) = some n →
       exec (.translationWalk p va need) s =
         .next (s.onDie (p / 192) fun d => { d with walks := d.walks.modify n fun w => { w with waiters := w.waiters ++ [(p, va, need)] } })) ∧
  (∀ (s : State) (p d : Nat) (w : Walk) (va : Word) (need : Access), (s.die d).walks = [w] → w.waiters = [(p, va, need)] →
     let v := (s.onDie d fun q => { q with walks := [] }).keepWalk d w.part (w.vf * 65536)
     let r := v.translate (s.tile p) va.toNat need (s.tile p).user
     ∃ s', exec (.walkComplete d 0) s = .next s' ∧ (s'.die d).walks = [] ∧ s.OtherTiles s' p ∧ s'.tile p = { s.tile p with tlb := r.2 } ∧
       ∀ pa, r.1 = .ok pa → ∃ e ∈ (s'.tile p).tlb, e.hits va.toNat = true ∧ e.pa va.toNat = pa) ∧
  ∀ (s : State) (part pfi : Nat),
    ((∃ p ∈ s.ackTiles part, s.quietAt p = false) → exec (.serviceShootdown part pfi) s = .next s) ∧
    ((∀ p ∈ s.ackTiles part, s.quietAt p = true) →
      ∃ s', exec (.serviceShootdown part pfi) s = .next s' ∧ (∀ p, p ∉ s.partTiles part → s'.tile p = s.tile p) ∧ s'.mem = s.mem ∧
        (∀ p ∈ s.partTiles part, ∀ e, e ∈ (s'.tile p).tlb ↔ e ∈ (s.tile p).tlb ∧ ¬(e.pfi ≤ pfi ∧ pfi < e.pfi + e.frames)) ∧
        ∀ d f gr, .grant part f gr ∈ (s'.die d).wcache → f / 256 ≠ pfi / 256)

/-! ## Events of gangs, errors, pairs -/

/-- R43, R380, R387 to R392: a placed gang starts from T0 on with a snapshot of every member; a slice ends in a stop 8,192 ticks ahead; from Ts on every
member stops where it stands, and an envelope command in progress goes back to its queue; 4,096 ticks on the contexts are saved, with the patterns of their
clusters, and the tiles given up; a resumption restores them, followers with their leaders, with the parked items ahead and asks for the patterns, names T1,
in the replies of the requests that wait for it too (R431), once every parked item and load has performed, and then lets every member go on; a slice past its grace is discarded, its saved contexts stand, and the contexts that ran before it
resume. (Whether a package started too late, and which, is free, and R390's "at least 4,096" is taken as 4,096 from there: logs 19 and 20. That the first
snapshot is the state at the start is log 48; that an emergency save of one of its dies puts the start off, log 23.) -/
def Obligations.GangEvents : Prop :=
  ∀ (s : State) (gid : Nat) (g : Gang), s.gang? gid = some g →
    (g.stat = .placed → s.diesReady g.dies = true → g.t0 ≤ s.tick → ∃ s' g', exec (.gangStart gid) s = .next s' ∧ s'.tick = s.tick ∧
      s'.gang? gid = some g' ∧ g'.stat = .running ∧ g'.t1 = s.tick ∧ s'.mem = s.mem ∧ s'.net = s.net ∧
      ∀ e ∈ g.l2p, (s'.tile e.2).ctl.stat = .running ∧ (s'.tile e.2).regs = (s.tile e.2).regs ∧ (s'.tile e.2).fe.pc = (s.tile e.2).fe.pc ∧
        ∃ k, (s'.tile e.2).snap = some k ∧ k.regs = (s.tile e.2).delivered.regs ∧ k.spad = (s.tile e.2).spad) ∧
    (g.stat = .placed → s.tick < g.t0 → exec (.gangStart gid) s = .next s) ∧
    (g.stat = .placed → g.t0 ≤ s.tick → (∀ d ∈ g.dies, (s.die d).powered = true) → (∃ d ∈ g.dies, s.dieSaving d = true) →
      exec (.gangStart gid) s = .next (s.setGang { g with t0 := (s.tick / 16 + 1) * 16 })) ∧
    (g.stat = .running → g.t1 + 3600000 ≤ s.tick → s.contended g = true →
      exec (.timeSliceEnd gid) s = .next (s.setGang { g with stat := .stopping, ts := s.tick + 8192, auto := true })) ∧
    (g.stat = .stopping → g.ts ≤ s.tick → g.rolling = none → (g.commit = none ∨ ∃ e ∈ g.l2p, s.arrivedAt g e.1 e.2 = false) →
      ∃ s' g', exec (.gangSwitchStop gid) s = .next s' ∧
        s'.tick = s.tick ∧ s'.gang? gid = some g' ∧ g'.stat = .stopped ∧ g'.ts = s.tick ∧ s'.mem = s.mem ∧ s'.net = s.net ∧
        (∀ p, (∀ e ∈ g.l2p, e.2 ≠ p) → s'.tile p = s.tile p) ∧
        ∀ e ∈ g.l2p, (s'.tile e.2).regs = (s.tile e.2).regs ∧
          ((∀ b, (s.tile e.2).ctl.stat ≠ .moving b) → (s'.tile e.2).ctl.moveTo = none) ∧
          ((g.l2p.map (·.2)).Nodup → ∀ b, (s.tile e.2).ctl.stat = .moving b → (s'.tile e.2).ctl.moveTo = (s.tile e.2).ctl.moveTo) ∧
          (∀ c, (s.tile e.2).holding = some c → ⟨c.seq, c.pc, c.loops, .word c.word⟩ ∈ (s'.tile e.2).fe.xq) ∧
          (s'.tile e.2).ctl.stat = (match (s.tile e.2).ctl.stat with
            | .running | .launched => .stopped none
            | .waiting w => .stopped (some w)
            | .moving b => .stopped b
            | x => x)) ∧
    (g.stat = .stopped → g.sealed = false → g.ts + 4096 ≤ s.tick → g.rolling = none →
      (∀ e ∈ g.l2p, s.partReady e.2 = false ∧ (s.tile e.2).engDrained = true) →
      ∃ s' g' ctx, exec (.switchPark gid) s = .next s' ∧ s'.tick = s.tick ∧ s'.gang? gid = some g' ∧ g'.sealed = true ∧
        g'.saved = some ctx ∧ g'.stat = (if g.auto then .resuming else .stopped) ∧ g'.t1 = g.resumeAt.getD g.t1 ∧ (∀ f ∈ s'.net, f.g ≠ gid) ∧
        (∀ f, f ∈ ctx.net ↔ f ∈ s.net ∧ f.g = gid ∧ f.msg.savedAsReceived = false) ∧
        ∀ e ∈ g.l2p, (s'.tile e.2).gang = none ∧ (e.1, (s.cluster (e.2 / 192) (e.2 % 192 / 4)).pat) ∈ ctx.pats ∧
          ∃ t, (e.1, t) ∈ ctx.tiles ∧ t.regs = (s.tile e.2).regs ∧ t.spad = (s.tile e.2).spad ∧
            t.fe = { (s.tile e.2).fe with jat := .replicate 4 none } ∧ t.mx.acc = (s.tile e.2).mx.acc) ∧
    (∀ ctx ds l2p, g.stat = .resuming → g.sealed = true → g.saved = some ctx → s.replace g = some (ds, l2p) → s.diesReady ds = true →
      (∀ d ∈ ds, s.gangsPresent d < 8) → (l2p.map (·.2)).Nodup → (∀ e ∈ ctx.tiles, e.2.gang = some gid) → ∀ u, s.putBack g ctx l2p = some u →
      ∃ s' g', exec (.gangResume gid) s = .next s' ∧ s'.gang? gid = some g' ∧ g'.sealed = false ∧ g'.l2p = l2p ∧
        s'.net = ctx.net.map (fun f => { f with parked := false }) ++ s.net ∧ s'.mem = s.mem ∧
        (∀ e ∈ l2p, e.2 < 1536 → ∃ r ∈ (s'.die (e.2 / 192)).reqs, r.cluster = e.2 % 192 / 4 ∧
          (g.det = false → (∀ h ∈ s.gangs, h.det = false) → r.pat = s'.capPat (e.2 / 192) (e.2 % 192 / 4) (ctx.patOf l2p (e.2 / 192, e.2 % 192 / 4)))) ∧
        (∀ e ∈ l2p, (s'.tile e.2).regs = (u.tile e.2).regs ∧ (s'.tile e.2).spad = (u.tile e.2).spad ∧ (s'.tile e.2).fe = (u.tile e.2).fe ∧
          (s'.tile e.2).pair.partner = (u.tile e.2).pair.partner) ∧
        ((∀ e ∈ l2p, ∃ t, smFind e.1 ctx.tiles = some t ∧ t.pair.partner = none) →
          ∀ e ∈ l2p, ∀ t, smFind e.1 ctx.tiles = some t → (u.tile e.2).regs = t.regs ∧ (u.tile e.2).spad = t.spad ∧ (u.tile e.2).fe = t.fe)) ∧
    (g.stat = .resuming → g.sealed = false → g.wake = none → (∀ f ∈ s.net, f.g ≠ gid) → (∀ e ∈ g.l2p, (s.tile e.2).loadParked = false) →
      s.patPending g = false →
      let t1 := max g.t1 (s.tick + 4096)
      ∃ s', exec (.gangResume gid) s = .next s' ∧ s'.gang? gid = some { g with wake := some t1, asked := [] } ∧ s'.tiles = s.tiles ∧ s'.mem = s.mem ∧
        s'.net = s.net ∧ s'.svc.replies = s.svc.replies ++ g.asked.map (fun rq => replyTo rq 0 0 [BitVec.ofNat 64 t1]) ∧
        ∀ rq c, g.asked = [rq] → s.session? rq.session = some c → c.last = some rq.seq → s'.Answered rq 0 0 [BitVec.ofNat 64 t1]) ∧
    (g.stat = .resuming → g.sealed = false → g.wake = none → (∃ e ∈ g.l2p, (s.tile e.2).loadParked = true) →
      exec (.gangResume gid) s = .next s) ∧
    (∀ t1, g.stat = .resuming → g.sealed = false → g.wake = some t1 → t1 ≤ s.tick → ∃ s' g', exec (.gangResume gid) s = .next s' ∧
      s'.gang? gid = some g' ∧ g'.stat = .running ∧ g'.t1 = s.tick ∧ s'.tick = s.tick ∧ s'.mem = s.mem ∧
      ∀ e ∈ g.l2p, (s'.tile e.2).regs = (s.tile e.2).regs ∧ ((s.tile e.2).ctl.stat = .stopped none → (s'.tile e.2).ctl.stat = .running) ∧
        ∀ w, (s.tile e.2).ctl.stat = .stopped (some w) → (s'.tile e.2).ctl.stat = .waiting w) ∧
    ∀ ctx, g.saved = some ctx → g.top = 5 → g.t1 + 7200000 ≤ s.tick →
      (g.stat = .running ∧ g.slice = true ∨ g.stat = .resuming ∧ g.sealed = false) →
      ∃ s1 g' late n, (g.stat = .resuming → late = g.pkg) ∧ s1.gang? gid = some g' ∧ g'.sealed = true ∧ g'.stat = .resuming ∧
        g'.saved = some ctx ∧ g'.step = ctx.step ∧ g'.bcause = ctx.bcause ∧ g'.serial = ctx.serial ∧ g'.consumed = ctx.consumed ∧ s1.svc.notices = s.svc.notices ++ [.aborted gid late n] ∧ s1.mem = s.mem ∧
        (∀ f ∈ s1.net, f.g ≠ gid) ∧ (∀ e ∈ g.l2p, (s1.tile e.2).gang = none) ∧
        exec (.sliceAbort gid) s = .next (if g.stat = .running ∧ Config.lateStart g.t1 ≤ 7200000 then s else
          g.prior.foldl (fun s h => match s.gang? h with
            | some h => if h.sealed && h.auto then s.restoreGang h else s
            | none => s) s1)

/-- R174, R396, R398, R399, R403, R406 to R410: a consumption in a protected superstep names a rollback 512 ticks ahead, the consuming thread stands and
its AMO does not act, also while a gang switch stands before its contexts are saved, a fifth or an unprotected one ends the gang, as does one in an undo record that a rollback reads; one before Tr is absorbed; from Ts
on every member is its snapshot again, latches and received carries included, while committed memory keeps what it has; 48 ticks on the members issue
again with ERROR; a hallmark mismatch that every member has arrived at again rolls the gang back to run serially, and a third one ends it; a pair's
touchmarks are exchanged, a disagreement rolls the gang back, what it covers never leaving the pair, and at the rollback after a second one the thread goes
to a spare and both tiles are drained. (A gang of TOP 5 rolls back at the coordinator's tick, whose delay is free: log 20. What a rollback empties and
restores beyond the rules' words: logs 51 and 52; which errors R174 takes: log 53; what a consumption stops: log 78.) -/
def Obligations.RollbackEvents : Prop :=
  let ahead := fun (s : State) (g : Gang) => s.tick + 512 + if g.top = 5 then Config.coordDelay s.steps else 0
  (∀ (s : State) (p : Nat) (addr : Word) (kind : UcUnit) (g : Gang), s.gangAt p = some g → p < 1536 →
     let others := fun (s' : State) => ∀ f, f ∈ s'.net ↔ f ∈ s.net ∧ ¬(f.g = g.id ∧ f.src = (s.tile p).lidx ∧ (s.tile p).gang ≠ none ∧
       match f.msg with
       | .amo _ pa .. => pa / 64 = addr.toNat / 64
       | _ => False)
     let fails := ∃ s' g', exec (.uncorrectableConsumption p addr kind) s = .next s' ∧
       s'.gang? g.id = some g' ∧ g'.stat = .failed ∧ s'.svc.notices = s.svc.notices ++ [.failed g.id p addr] ∧ s'.mem = s.mem
     (∀ t, g.present = true ∨ g.stat = .rolling → (s.tile p).operandError addr.toNat kind = some t →
       exec (.uncorrectableConsumption p addr kind) s = .next ((s.setTile p t).logTile 4 p kind addr)) ∧
     (g.present = true → (s.tile p).operandError addr.toNat kind = none → g.rolling = none →
       (s.protected g = true → g.consumed < 4 → ∃ s' g', exec (.uncorrectableConsumption p addr kind) s = .next s' ∧ s'.gang? g.id = some g' ∧
         g'.rolling = some (ahead s g, 1) ∧ g'.consumed = g.consumed + 1 ∧ g'.ate = some (p, kind, addr) ∧ g'.commit = none ∧ s'.mem = s.mem ∧
         (s'.tile p).regs = (s.tile p).regs ∧
         ((s.tile p).gang ≠ none → (s.tile p).ctl.stat = .running → (s'.tile p).ctl.stat = .stopped none) ∧
         others s' ∧
         (s'.die (p / 192)).errlog.getLast? = some ⟨1, p, kind, min 4 (bitsOf (s.tile p).ir.relstat 6 4 + 1), addr, s.tick⟩) ∧
       ((s.protected g = false ∨ 4 ≤ g.consumed) → fails)) ∧
     (g.present = true → (s.tile p).operandError addr.toNat kind = none → g.rolling ≠ none →
       ∃ s', exec (.uncorrectableConsumption p addr kind) s = .next s' ∧ s'.gangs = s.gangs ∧ others s' ∧ s'.mem = s.mem ∧
         (s'.tile p).regs = (s.tile p).regs) ∧
     (g.stat = .rolling → kind = .memory → (s.tile p).inUndo addr = true → fails)) ∧
  (∀ (s : State) (gid ts why : Nat) (g : Gang), s.gang? gid = some g → g.rolling = some (ts, why) → ts ≤ s.tick →
     let fails := fun (p : Nat) (addr : Word) => ∃ s' g', exec (.rollbackStop gid) s = .next s' ∧ s'.gang? gid = some g' ∧ g'.stat = .failed ∧
       s'.svc.notices = s.svc.notices ++ [.failed gid p addr] ∧ s'.mem = s.mem
     (∀ p kind addr, g.present = true → s.protected g = false → g.ate = some (p, kind, addr) → fails p addr) ∧
     (∀ p addr, g.present = true → s.protected g = true → s.undoBad g = some (p, addr) → fails p addr) ∧
     (g.present = true → s.protected g = true → s.undoBad g = none →
       (∀ e ∈ g.l2p, ∀ f ∈ g.l2p, (s.tile e.2).pair.partner ≠ some f.2) →
       ∃ s' g', exec (.rollbackStop gid) s = .next ((g.l2p.filter fun e => (s.tile e.2).pair.leader && decide (2 ≤ (s.tile e.2).pair.bad)).foldl
         (fun s e => s.breakPair gid e.2) s') ∧ s'.gang? gid = some g' ∧ g'.stat = .rolling ∧
         g'.rolling = some (s.tick + 48, why) ∧ g'.bmus = g.bmuSnap ∧ g'.staged = [] ∧ g'.step = g.step ∧ s'.mem = s.mem ∧
         (∀ f ∈ s'.net, f ∈ s.net ∧ (f.g ≠ gid ∨ s.beforeSnap f = true)) ∧
         (∀ p, (∀ e ∈ g.l2p, e.2 ≠ p ∧ (s.tile e.2).pair.partner ≠ some p) → s'.tile p = s.tile p) ∧
         (∀ e ∈ g.l2p, ∀ q, (s.tile e.2).pair.partner = some q → (s'.tile q).pair.mark = 0) ∧
         ∀ e ∈ g.l2p, ∀ k, (s.tile e.2).snap = some k →
           let u := s'.tile e.2
           u.regs = k.regs ∧ u.ur = k.ur ∧ u.fe.pc = k.pc ∧ (k.owed = [] → u.fe.aq = []) ∧ u.fe.xq = [] ∧ u.fe.xl = k.xl ∧ u.fe.res = [] ∧ u.sr.status = k.status ∧ u.spad = k.spad ∧ u.env = k.env ∧
           u.mx.acc = k.acc ∧
           u.mx.front = k.front ∧ u.mx.back = k.back ∧ u.mx.fills = k.fills ∧ u.mx.scales = k.scales ∧ u.scan.carryIn = k.scan.carryIn ∧
           u.mx.fifo = [] ∧ u.ni.journal = [] ∧ u.copies = [] ∧ u.damos = [] ∧ u.task.tasks = [] ∧
           u.ctl.stat = (if e.2 ∈ g.heldAtBoundary then (s.tile e.2).ctl.stat else .stopped none)) ∧
     (g.stat = .rolling → ∃ s' g', exec (.rollbackResume gid) s = .next s' ∧ s'.tick = s.tick ∧ s'.gang? gid = some g' ∧
       g'.rolling = none ∧ g'.stat = (if g.t1 < g.ts then .stopping else .running) ∧ s'.mem = s.mem ∧
       ∀ e ∈ g.l2p, (s'.tile e.2).sr.intpend.getLsbD 13 = true ∧ bitsOf (s'.tile e.2).ir.relstat 51 48 = why % 16 ∧
         (s'.tile e.2).regs = (s.tile e.2).regs ∧ ((s.tile e.2).ctl.stat = .stopped none → (s'.tile e.2).ctl.stat = .running))) ∧
  (∀ (s : State) (gid : Nat) (g : Gang), s.gang? gid = some g → g.bcause = 0x60 → g.rolling = none →
     (∀ e ∈ g.l2p, s.arrivedAt g e.1 e.2 = true) →
     (g.serial = 0 → exec (.serialReexecution gid) s =
       .next (s.setGang { g with serial := 1, rolling := some (ahead s g, 1), commit := none, staged := [] })) ∧
     (2 ≤ g.serial → ∃ s' g', exec (.serialReexecution gid) s = .next s' ∧ s'.gang? gid = some g' ∧ g'.stat = .failed ∧ s'.mem = s.mem)) ∧
  (∀ (s : State) (gid p q : Nat) (g : Gang), p ≠ q → s.gang? gid = some g → (s.tile p).pair.partner = some q →
     let t := s.tile p
     let s' := s.breakPair gid p
     (s'.tile q).pair.partner = none ∧ (s'.tile p).assay.takes = false ∧ (s'.tile q).assay.takes = false ∧
       (s.spareFor g p [q] = none → (s'.tile p).pair.partner = none ∧ (s'.tile p).regs = t.regs ∧ (s'.tile p).gang = t.gang) ∧
       ∀ r, s.spareFor g p [q] = some r → (s'.gang? gid).map (·.l2p) = some (g.l2p.map fun e => if e.2 = p then (e.1, r) else e) ∧
         (s'.tile r).regs = t.regs ∧ (s'.tile r).spad = t.spad ∧ (s'.tile r).pair.partner = none ∧ (s'.tile p).gang = none) ∧
  ∀ (s : State) (p q : Nat), p ≠ q → (s.tile p).pair.partner = some q →
    let t := s.tile p
    let u := s.tile q
    (t.pair.leader = true → t.pair.inbox = none → t.pair.split = false → s.exchangeDue t = true → ∃ s', exec (.touchmarkExchange p) s = .next s' ∧
      (s'.tile p).pair.inbox = some u.pair.mark ∧ (s'.tile q).pair.inbox = some t.pair.mark ∧ (s'.tile p).pair.sent = t.pair.mark ∧
      (s'.tile p).pair.mark = 0 ∧ (s'.tile q).pair.mark = 0 ∧ (s'.tile p).pair.due = s.tick + (if p / 4 = q / 4 then 8 else 24) ∧
      (s'.tile p).pair.upTo = t.pair.count ∧ (s'.tile p).regs = t.regs ∧ ∀ r, r ≠ p → r ≠ q → s'.tile r = s.tile r) ∧
    ∀ m g, t.pair.inbox = some m → s.gangOf t = some g → t.pair.due ≤ s.tick →
      (m = t.pair.sent → s.allHalted g = false → ∃ s', exec (.touchmarkArrival p) s = .next s' ∧ s'.tick = s.tick ∧
        (s'.tile p).pair.inbox = none ∧ (s'.tile p).pair.agreed = t.pair.upTo ∧ (s'.tile p).regs = t.regs ∧ s'.gangs = s.gangs) ∧
      (m = t.pair.sent → s.allHalted g = true → t.pair.upTo = t.pair.count → (∀ e ∈ g.l2p, e.2 ≠ q ∧ (e.2 = p ∨ (s.tile e.2).agreed = true)) →
        ∃ s' g', exec (.touchmarkArrival p) s = .next s' ∧ s'.gang? g.id = some g' ∧ g'.stat = .ended ∧ s'.mem = s.mem) ∧
      (m ≠ t.pair.sent → ∃ s' g', exec (.touchmarkArrival p) s = .next s' ∧ s'.gang? g.id = some g' ∧
        g'.rolling = (if g.rolling = none then some (ahead s g, 2) else g.rolling) ∧ s'.mem = s.mem ∧ s'.net = s.net ∧
        (s'.tile p).pair.bad = t.pair.bad + 1 ∧ (s'.tile p).pair.split = true ∧ (s'.tile p).pair.inbox = none ∧
        (s'.tile p).pair.agreed = t.pair.agreed ∧ (s'.tile p).pair.partner = some q ∧ (s'.tile p).regs = t.regs ∧
        (p < 1536 → (s'.die (p / 192)).errlog.getLast? = some ⟨3, p, .other, min 4 (bitsOf t.ir.relstat 6 4 + 1), 0, s.tick⟩))

/-! ## Events of clocks, wear and frames -/

/-- R2, R16, R19, R42, R375 to R377, R410 to R427, R434: while the clocks run a pattern applies at a frame boundary once the voltage suffices, a gang's to all its
clusters and to those locked together with them at once; voltage moves 10 mV a step, and a ramp that ends leads to one to the greatest need that waits; a hot die saves its gangs, a hotter one loses power, and a cool one starts again;
a hot thread's slots halve when no spare is ready, else it moves to the spare; wear and drift only grow, and a third failed read in a row or a reading out of
range retires the tile; a located failure takes a free frame out of
use, starts to move a granted one, and lets one that is being left be scrapped; lines are copied, bad ones as bad, and after the shootdown and a boundary the old frame is scrapped, or zeroed and free where LOAD moved it (log 18); a scrub error of a place of the package is
only logged and stays where it was found. (Which slots a halving keeps, the exact 8,640 ticks of a migration and that queued X words move with the thread:
log 23. Which way a charge rounds and which readings lie in a monitor's calibrated range are free: log 8.) -/
def Obligations.MachineEvents : Prop :=
  (∀ (s : State) (d c : Nat) (r : PatReq), (s.die d).reqs.find? (fun r => r.cluster == c) = some r → c < 48 → s.tick % 16 = 0 →
     s.clocked = true →
     let same := fun (s' : State) => ∀ p, (s'.tile p).regs = (s.tile p).regs ∧ (s'.tile p).spad = (s.tile p).spad ∧
       ((s.tile p).fe.res = [] → (s.tile p).fe.fAt ≤ s.tick → s'.tile p = s.tile p)
     (r.gang = none → (s.die d).ready r = true → ∃ s', exec (.patternApply d c) s = .next s' ∧
       (s'.cluster d c).pat = s.capPat d c r.pat ∧ s'.tick = s.tick ∧ same s' ∧ s'.mem = s.mem ∧
       (s'.cluster d c).trace.getLast? = some ⟨s.tick, s.capPat d c r.pat, r.why⟩) ∧
     ∀ gid g, r.gang = some gid → s.gang? gid = some g → (∀ e ∈ s.gangReqs gid, (s.die e.1).ready e.2 = true) →
       ∃ s' pat, exec (.patternApply d c) s = .next s' ∧ s'.tick = s.tick ∧ same s' ∧ s'.mem = s.mem ∧
         ((∀ k j, s.capped k j = false) → pat = r.pat) ∧
         (∀ k ∈ s.lockedWith g, k.1 < 8 → k.2 < 48 → (s'.cluster k.1 k.2).pat = pat) ∧
         ∀ e ∈ g.l2p, e.2 < 1536 → (s'.cluster (e.2 / 192) (e.2 % 192 / 4)).pat = pat) ∧
  (∀ (s : State) (g h : Gang), g.locks = true → h ∈ s.gangs → h.locks = true → (∃ c ∈ s.gangClusters g, c ∈ s.gangClusters h) →
     ∀ c, c ∈ s.gangClusters g ∨ c ∈ s.gangClusters h → c ∈ s.lockedWith g) ∧
  (∀ (s : State) (d v : Nat), (s.die d).ramp = some v →
     (s.clocked = false → exec (.rampStep d) s = .next s ∧ exec (.rampEnd d) s = .next s) ∧ (s.clocked = true →
     ((s.die d).rampAt + 3600 ≤ s.tick → ∃ s', exec (.rampStep d) s = .next s' ∧ s'.tick = s.tick ∧ s'.tiles = s.tiles ∧
       (s'.die d).mv = (if (s.die d).mv < v then min v ((s.die d).mv + 10) else max v ((s.die d).mv - 10)) ∧
       (s'.die d).rampAt = (s.die d).rampAt + 3600) ∧
     ((s.die d).mv = v →
       (∀ r ∈ (s.die d).reqs, patNeed r.pat ≤ v) → v ≤ (s.die d).need →
         ∃ s', exec (.rampEnd d) s = .next s' ∧ (s'.die d).ramp = none ∧ (s'.die d).mv = v ∧ s'.tiles = s.tiles ∧
           ∀ r ∈ (s'.die d).reqs, r.atOnce = true) ∧
     ((s.die d).mv = v → (∃ r ∈ (s.die d).reqs, v < patNeed r.pat) →
       ∃ s' w, exec (.rampEnd d) s = .next s' ∧ (s'.die d).ramp = some w ∧ (s'.die d).rampAt = s.tick ∧ (s'.die d).mv = v ∧ s'.tiles = s.tiles ∧
         (∀ r ∈ (s.die d).reqs, patNeed r.pat ≤ w) ∧ ∃ r ∈ (s.die d).reqs, patNeed r.pat = w))) ∧
  (∀ (s : State) (p temp : Nat), p < 1536 →
     let d := p / 192
     (temp ≤ 118 → exec (.temperatureRead p temp) s = .next (s.onTile p fun t => { t with assay := t.assay.read temp })) ∧
     (118 < temp → temp < 125 → (s.die d).powered = true → ∃ s', exec (.temperatureRead p temp) s = .next s' ∧ s'.mem = s.mem ∧
       ∀ gid g, s.gang? gid = some g → g ∈ s.gangsOn d →
         (g.stat = .running → ∃ g', s'.gang? gid = some g' ∧ g'.stat = .stopping ∧ g'.ts = s.tick + 512) ∧
         (g.stat = .placed → ∃ g', s'.gang? gid = some g' ∧ g'.stat = .stopping ∧ g'.ts = s.tick + 512) ∧
         (g.stat = .stopping → ∃ g', s'.gang? gid = some g' ∧ g'.stat = .stopping ∧ g'.ts = min g.ts (s.tick + 512))) ∧
     (125 ≤ temp → (s.die d).powered = true → ∃ s', exec (.temperatureRead p temp) s = .next s' ∧ (s'.die d).powered = false ∧
       s'.mem = s.mem ∧ .trip d ∈ s'.svc.notices)) ∧
  (∀ (s : State) (d : Nat), (s.die d).powered = false → (∀ e ∈ s.tiles, e.1 / 192 = d → e.2.assay.temp < 85) →
     ∃ s', exec (.dieRestart d) s = .next s' ∧ (s'.die d).powered = true ∧ (s'.die d).errlog = (s.die d).errlog ∧ s'.tiles = s.tiles ∧
       ∀ c, c < 48 → (s'.cluster d c).pat = s.capPat d c 0xFFFF) ∧
  (∀ (s : State) (p : Nat) (g : Gang),
     let t := s.tile p
     let d := p / 192
     let c := p % 192 / 4
     s.gangOf t = some g →
     (105 < t.assay.temp → s.throttling d c = false → 1 < slotCount (s.cluster d c).pat → t.ctl.moveTo = none →
       (g.det = false → s.spareFor g p = none →
         exec (.thermalThrottleStep p) s = .next (s.clusterRequest d c (halfPat (s.cluster d c).pat) 4)) ∧
       (g.det = true → (s.spareFor g p = none ∨ g.atS t = false) →
         exec (.thermalThrottleStep p) s = .next (s.gangRequest g (halfPat (s.cluster d c).pat) 4))) ∧
     (∀ q, g.stat = .running → t.migrates = true → (g.det = false ∨ g.atS t = true) → s.spareFor g p = some q →
       t.ctl.stat.move ≠ t.ctl.stat → ∃ u, exec (.migrationStart p) s = .next (s.setTile p u) ∧ u.ctl.stat = t.ctl.stat.move ∧
         u.ctl.moveTo = some q ∧ u.regs = t.regs ∧ u.spad = t.spad) ∧
     ∀ q b, t.ctl.stat = .moving b → t.ctl.moveTo = some q → s.spareStands q = true → s.lockMissing g p q = false →
       (t.ctl.moveEnd = none → s.moveReady p = true →
         exec (.migrationResume p) s = .next (s.setTile p (t.depart (s.tick + 8640))) ∧ (t.depart (s.tick + 8640)).spad = t.spad ∧
           (t.depart (s.tick + 8640)).regs = t.regs ∧ (t.depart (s.tick + 8640)).ctl.moveEnd = some (s.tick + 8640) ∧
           (t.discards = none → t.depart (s.tick + 8640) = { t with ctl := { t.ctl with moveEnd := some (s.tick + 8640) } }) ∧
           ∀ c, t.discards = some c → ⟨c.seq, c.pc, c.loops, .word c.word⟩ ∈ (t.depart (s.tick + 8640)).fe.xq ∧
             ∀ k ∈ (t.depart (s.tick + 8640)).envq, k ∈ t.envq ∧ k.seq ≠ c.seq) ∧
       ∀ e, t.ctl.moveEnd = some e → e ≤ s.tick →
         ∃ s' g', exec (.migrationResume p) s = .next s' ∧ s'.gang? g.id = some g' ∧
           g'.l2p = g.l2p.map (fun e => if e.2 = p then (e.1, q) else e) ∧ (s'.tile q).regs = t.regs ∧ (s'.tile q).spad = t.spad ∧
           (s'.tile q).fe = { t.fe with jat := .replicate 4 none } ∧ (s'.tile q).assay = (s.tile q).assay ∧ (s'.tile q).lidx = t.lidx ∧ (s'.tile p).gang = none ∧
           s'.mem = s.mem ∧ s'.tick = s.tick ∧
           (s'.tile q).ctl.stat = (match b with
             | none => .running
             | some w => .waiting w)) ∧
  (∀ (s : State) (p tj mv bti em : Nat), p < 1536 →
     let t := s.tile p
     let slots := if t.free then none else some (slotCount (s.cluster (p / 192) (p % 192 / 4)).pat)
     (∃ s' w, exec (.wearCharge p tj mv) s = .next s' ∧ w = wearOf slots tj mv ∧
       (s'.tile p).assay.w = min (t.assay.w + w) (2 ^ 48 - 1) ∧ t.assay.state.rank ≤ (s'.tile p).assay.state.rank ∧ s'.mem = s.mem ∧
       (t.gang.isSome = true → (s'.tile p).ir.wearacc = BitVec.ofNat 64 (min (t.ir.wearacc.toNat + w) (2 ^ 48 - 1))) ∧
       (t.gang = none → ∀ q, t.pair.partner = some q →
         (s'.tile q).ir.wearacc = BitVec.ofNat 64 (min ((s.tile q).ir.wearacc.toNat + w) (2 ^ 48 - 1)))) ∧
     (let k := (wearFloor slots tj mv).1
      let n := match slots with
        | some n => 40960 * n
        | none => 65536
      (wearOf slots tj mv = k ∨ wearOf slots tj mv = k + 1) ∧
      (1000 * k) ^ 50 * 2 ^ (1275 - (5 * tj + mv)) ≤ n ^ 50 * 2 ^ (5 * tj + mv - 1275) ∧
      (k + 1 < 2 ^ 48 → n ^ 50 * 2 ^ (5 * tj + mv - 1275) < (1000 * (k + 1)) ^ 50 * 2 ^ (1275 - (5 * tj + mv)))) ∧
     (Config.calibrated bti em = true → ∃ s', exec (.monitorRead p bti em false) s = .next s' ∧
       (s'.tile p).assay.bti = max t.assay.bti (min bti 65535) ∧ (s'.tile p).assay.em = max t.assay.em (min em 65535) ∧
       (s'.tile p).assay.misses = 0 ∧ t.assay.state.rank ≤ (s'.tile p).assay.state.rank ∧ s'.mem = s.mem) ∧
     (t.assay.misses < 2 → exec (.monitorRead p bti em true) s =
       .next (s.onTile p fun t => { t with assay := { t.assay with misses := t.assay.misses + 1 } })) ∧
     (∀ fails, t.assay.state ≠ .retired → (if fails then 2 ≤ t.assay.misses else Config.calibrated bti em = false) →
       ∃ s', exec (.monitorRead p bti em fails) s = .next s' ∧ (s'.tile p).assay.state = .retired ∧ (s'.tile p).assay.mflt = true ∧
         (s'.tile p).regs = t.regs)) ∧
  (∀ (s : State) (pfn : Nat), pfn < 2 ^ 23 → (∀ m ∈ s.svc.moves, m.old ≠ pfn ∧ m.new ≠ pfn) →
     (s.holderOf pfn = none → s.svc.scrap.contains pfn = false → s.svc.retired.contains pfn = false →
       (s.svc.scrap.filter fun f => f / 2 ^ 20 == pfn / 2 ^ 20).length < 4096 →
       ∃ s', exec (.frameRetire pfn true) s = .next s' ∧ s'.svc.scrap = s.svc.scrap ++ [pfn] ∧ s'.mem = s.mem ∧ s'.tiles = s.tiles ∧
         (s'.die (pfn / 2 ^ 20)).errlog.getLast? = some ⟨8, 0x7FF, .memory, 0, BitVec.ofNat 64 pfn, s.tick⟩) ∧
     ∀ q pfi f, s.holderOf pfn = some (q, pfi) → s.freeFrame (pfn / 2 ^ 20) = some f →
       ∃ s' q', exec (.frameRetire pfn true) s = .next s' ∧ s'.svc.moves = s.svc.moves ++ [⟨q.id, pfi, pfn, f, [], false, false, [], true⟩] ∧
         s'.mem = s.mem ∧ s'.part? q.id = some q' ∧ (q'.grant pfi).mir = true ∧ (q'.grant pfi).mpfn = f) ∧
  (∀ (s : State) (pfn : Nat), pfn < 2 ^ 23 → (∀ m ∈ s.svc.moves, m.new ≠ pfn) → (∃ m ∈ s.svc.moves, m.old = pfn) →
     ∃ s', exec (.frameRetire pfn true) s = .next s' ∧ s'.mem = s.mem ∧ s'.tiles = s.tiles ∧
       s'.svc.moves = s.svc.moves.map fun m => if m.old = pfn then { m with scrap := true } else m) ∧
  (∀ (s : State) (part pfi line : Nat) (m : FrameMove),
     (s.svc.moves.find? (fun m => m.part == part && m.pfi == pfi && !m.switched) = some m → line < 1024 → m.old ≠ m.new → Memory.wf s.mem = true →
       ∃ s', exec (.frameLineCopy part pfi line) s = .next s' ∧
         (∀ i, i < 64 → memRead (m.new * 65536 + line * 64 + i) s'.mem = memRead (m.old * 65536 + line * 64 + i) s.mem) ∧
         (∀ a, (∀ i, i < 64 → a ≠ m.new * 65536 + line * 64 + i) → memRead a s'.mem = memRead a s.mem) ∧ s'.tiles = s.tiles ∧
         s'.svc.bad.contains (m.new * 1024 + line) = s.svc.bad.contains (m.old * 1024 + line) ∧
         ((m.lines.contains line = false ∧ m.lines.length = 1023) → ∀ q, s.part? part = some q →
           ∃ q', s'.part? part = some q' ∧ (q'.grant pfi).pfn = m.new)) ∧
     (s.svc.moves.find? (fun m => m.part == part && m.pfi == pfi && m.shot) = some m →
       (∀ k ∈ m.steps, ∀ g, s.gang? k.1 = some g → g.stat = .ended ∨ g.stat = .failed ∨ k.2 < g.step) →
       ∃ s', exec (.mirrorClear part pfi) s = .next s' ∧ s'.svc.moves = s.svc.moves.filter (fun n => n != m) ∧
         (m.scrap = true → (m.old ∈ s'.svc.scrap ∨ m.old ∈ s'.svc.retired) ∧ s'.mem = s.mem) ∧
         (m.scrap = false → s'.svc.scrap = s.svc.scrap ∧
           ∀ a, memRead a s'.mem = if a / 65536 = m.old then unlistedByte else memRead a s.mem) ∧ s'.tiles = s.tiles)) ∧
  ∀ (s : State) (d pidx : Nat) (kind : UcUnit) (addr : Word),
    let place := d < 8 ∧ (pidx < 1536 ∨ pidx = 0x7FF) ∧ (kind = .scratchpad → pidx < 1536 ∧ addr.toNat < 2 ^ 21) ∧
      (kind = .memory → addr.toNat < 8 * 2 ^ 36)
    (¬place → exec (.memoryScrubError d pidx kind addr) s = .next s) ∧
    (place → (s.die d).errlog.length < 256 → ∃ s', exec (.memoryScrubError d pidx kind addr) s = .next s' ∧
      (s'.die d).errlog = (s.die d).errlog ++
        [⟨7, pidx, kind, if pidx = 0x7FF then 0 else bitsOf (s.tile pidx).ir.relstat 6 4, addr, s.tick⟩] ∧
      s'.gangs = s.gangs ∧ s'.mem = s.mem ∧ (∀ p, (s'.tile p).regs = (s.tile p).regs ∧ (s'.tile p).spad = (s.tile p).spad) ∧
      (kind = .scratchpad → addr.toNat ∈ (s'.tile pidx).latent) ∧ (kind = .memory → addr.toNat / 64 ∈ s'.svc.bad))

/-! ## The service -/

/-- R363, R366, R378 to R386, R387, R390, R410, R413, R416, R425, R429 to R441, R444: an authentic request in its session, with a SEQ past the last, is answered once under its
own SEQ, with the effect of its kind, a repeated one with its stored reply, an older one as stale, one that does not fit its code, version and length as
malformed, and in a frozen package only RESYNC, QUERY and SHUTDOWN act (in which order these are tested: log 74): partitions are created, reshaped (those
with saved gangs too), given up, rooted; patterns asked for; bytes loaded; a launch that fails a condition is refused with its number and one that passes
places its gang; gangs are stopped and resumed; the records are read out; the package is frozen and shut down. Boot, failover, the clock's trim and the
read-out need no session. (Where the service's own frames lie, and how far T0 lies ahead beyond 4,096 ticks, are the model's choices: logs 18, 19; the
bodies, identifiers and halt codes: log 25; the root and the image as they stand: logs 65 and 69; which REASON a launch gives: log 70; which values an
attestation signs are free: log 7.) -/
def Obligations.ServiceRequests : Prop :=
  (∀ (s : State) (rq : Request) (c : Session) (shape : Shape) (w : Word) (g tick : Nat),
     let kinds : List (Instr × Nat × Nat) := [(.partitionCreate rq shape, 2, 1), (.partitionResize rq shape, 2, 2), (.partitionDelete rq, 2, 3),
       (.partitionRoot rq w, 2, 4), (.partitionPattern rq g 0 true 0xFFFF, 2, 5), (.load rq w 0xFF [], 3, 0), (.launch rq w 0 16 false 0 1, 4, 0),
       (.preemptStop rq g tick, 5, 1), (.preemptResume rq g tick, 5, 2), (.queryTrace rq, 6, 1), (.queryAssay rq, 6, 2), (.queryErrorLog rq, 6, 3),
       (.queryEventCounts rq, 6, 4), (.resync rq, 7, 0), (.freeze rq tick, 8, 0)]
     ∀ k ∈ kinds, s.serving = true → s.session? rq.session = some c →
       (rq.authentic = false → exec k.1 s = .next (s.addReply (replyTo rq 2))) ∧
       (rq.authentic = true → ∀ n, c.last = some n →
         (rq.seq < n → exec k.1 s = .next (s.addReply (replyTo rq 3))) ∧
         (rq.seq = n → ∀ r, c.reply = some r → exec k.1 s = .next (s.addReply r))) ∧
       (s.Accepts rq c → (s.svc.frozen = none ∨ rq.op = 6 ∨ rq.op = 7 ∨ rq.op = 9) → requestFits rq k.2.1 k.2.2 = false →
         exec k.1 s = .next (s.conclude rq (replyTo rq 1))) ∧
       (s.Accepts rq c → s.svc.frozen ≠ none → rq.op ≠ 6 → rq.op ≠ 7 → rq.op ≠ 9 → exec k.1 s = .next (s.conclude rq (replyTo rq 6)))) ∧
  (∀ (s : State) (rq : Request) (c : Session), s.Accepts rq c →
     let ok := fun (sel op : Nat) (i : Instr) (body : List Word) => requestFits rq op sel = true → ∃ s', exec i s = .next s' ∧ s'.Answered rq 0 0 body ∧
       s'.mem = s.mem ∧ s'.tiles = s.tiles ∧ s'.gangs = s.gangs ∧ s'.parts = s.parts ∧ s'.net = s.net
     (c.anyone rq = true → ok 1 6 (.queryTrace rq) s.traceWords ∧ ok 2 6 (.queryAssay rq) s.assayWords ∧ ok 3 6 (.queryErrorLog rq) s.errorWords ∧
       ok 4 6 (.queryEventCounts rq) s.eventWords ∧ ok 0 7 (.resync rq) s.summary) ∧
     (c.operator = true → s.svc.frozen = none →
       (∀ shape ggs, requestFits rq 2 1 = true → shapeOk shape = true → s.takeGroups 0xFFFF [] shape = some ggs → (∃ n, n < 97 ∧ s.part? n = none) →
         ∃ s' id q, exec (.partitionCreate rq shape) s = .next s' ∧ s'.Answered rq 0 0 [BitVec.ofNat 64 id] ∧ s'.mem = s.mem ∧
           s'.parts = s.parts ++ [q] ∧ q.id = id ∧ q.shape = shape ∧ q.groups = ggs ∧ q.root = 0 ∧ q.key = s.svc.draws ∧ s.part? id = none ∧
           (∀ n, n < id → (s.part? n).isSome = true) ∧
           (s.svc.scrap = [] → s.svc.retired = [] → s.svc.moves = [] → (∀ r ∈ s.parts, r.grants = []) → q.grants = [])) ∧
       (∀ shape ggs q, requestFits rq 2 2 = true → shapeOk shape = true → s.part? rq.part = some q → s.partBusy q.id = false →
         s.takeGroups q.id q.groups shape = some ggs →
         ∃ s' q', exec (.partitionResize rq shape) s = .next s' ∧
           ((s'.Answered rq 0 0 [BitVec.ofNat 64 q.id] ∧ s'.part? rq.part = some q' ∧ q'.shape = shape ∧ q'.groups = ggs) ∨
            (s.partSaved q.id = true ∧ s'.Answered rq 5 0 [] ∧ s'.parts = s.parts ∧ s'.mem = s.mem ∧ s'.tiles = s.tiles))) ∧
       (∀ q, requestFits rq 2 3 = true → s.part? rq.part = some q → s.partBusy q.id = false →
         ∃ s', exec (.partitionDelete rq) s = .next s' ∧ s'.Answered rq 0 0 [BitVec.ofNat 64 q.id] ∧ s'.part? rq.part = none) ∧
       (∀ tick, requestFits rq 8 0 = true →
         (s.tick < tick → ∃ s', exec (.freeze rq tick) s = .next s' ∧ s'.Answered rq 0 0 [BitVec.ofNat 64 tick] ∧
           s'.svc.frozen = some tick ∧ s'.tiles = s.tiles ∧ s'.mem = s.mem) ∧
         (tick ≤ s.tick → ∃ s', exec (.freeze rq tick) s = .next s' ∧ s'.Answered rq 0 0 [BitVec.ofNat 64 s.tick] ∧
           s'.svc.frozen = some s.tick ∧ s'.svc.image = some s.tiles ∧ s'.live = [] ∧ s'.mem = s.mem))) ∧
     (c.operator = true → requestFits rq 9 0 = true → ∃ s', exec (.shutdownImmediate rq) s = .next s' ∧ s'.svc.shutdown = true ∧ s'.svc.down = true ∧
       s'.parts = [] ∧ ∀ d, d < 8 → (s'.die d).powered = false) ∧
     (c.operator = true → requestFits rq 9 1 = true → ∃ s', exec (.shutdownAtBoundary rq) s = .next s' ∧ s'.svc.shutdown = true ∧
       (∀ g ∈ s'.gangs, g.endAtBoundary = true) ∧ (s'.live = [] → s'.svc.down = true) ∧
       ∀ g ∈ s.gangs, g.sealed = true → g.stat = .stopped → ∃ h ∈ s'.gangs, h.id = g.id ∧ h.stat = .resuming)) ∧
  (∀ (s : State) (rq : Request) (c : Session) (image : Word) (len undo : Nat) (pair : Bool) (pkg npkg : Nat), s.Accepts rq c → c.operator = false →
     c.part = some rq.part → s.svc.frozen = none → s.part? rq.part = none → requestFits rq 4 0 = true →
     exec (.launch rq image len undo pair pkg npkg) s = .next (s.conclude rq (replyTo rq 4 4))) ∧
  (∀ (s : State) (rq : Request) (c : Session) (q : Partition), s.Accepts rq c → c.operator = false → c.part = some rq.part →
     s.svc.frozen = none → s.part? rq.part = some q →
     (∀ root, requestFits rq 2 4 = true → ∃ s', exec (.partitionRoot rq root) s = .next s' ∧ s'.Answered rq 0 0 [BitVec.ofNat 64 q.id] ∧
       s'.part? rq.part = some { q with root := root } ∧ s'.mem = s.mem ∧ s'.tiles = s.tiles) ∧
     (∀ g cl pat h d k, requestFits rq 2 5 = true → pat ≠ 0 → s.gang? g = some h → h.part = rq.part → h.sealed = false → h.stat = .running →
       h.det = false → h.physCluster cl = some (d, k) → d < 8 → s.detOn d k = none → ∃ s', exec (.partitionPattern rq g cl false pat) s = .next s' ∧
         s'.Answered rq 0 0 [BitVec.ofNat 64 h.part] ∧
         ∃ r ∈ (s'.die d).reqs, r.cluster = k ∧ r.pat = s.capPat d k pat ∧ r.gang = none ∧
           ((∀ x ∈ (s.die d).reqs, x.cluster = k → x.why ≠ 0) → r.why = 1)) ∧
     (∀ (pa : Word) (b : Byte), requestFits rq 3 0 = true → rq.len = 65 → (q.grant (pa.toNat / 65536)).gv = true → s.svc.moves = [] →
       Memory.wf s.mem = true →
       ∃ s', exec (.load rq pa 0xFF [b]) s = .next s' ∧ s'.Answered rq 0 0 [] ∧
         memRead ((q.grant (pa.toNat / 65536)).pfn * 65536 + pa.toNat % 65536) s'.mem = b ∧ s'.tiles = s.tiles ∧
         ∀ a, a ≠ (q.grant (pa.toNat / 65536)).pfn * 65536 + pa.toNat % 65536 → memRead a s'.mem = memRead a s.mem) ∧
     (∀ (image : Word) (len undo : Nat) (pair : Bool) (pkg npkg : Nat), requestFits rq 4 0 = true → 16 ≤ undo → undo ≤ 19 → pkg ≤ 255 → npkg ≤ 255 →
       let bs := s.partBytes q image.toNat len
       let m := imageOf bs
       let place := s.placeGang q (m.wanted bs) m.groups
       let at_ := place.getD (List.range m.ndie, [])
       let g := m.gang bs s q.id (2 ^ undo) pkg npkg at_.1 at_.2
       let refused := fun (r : Nat) => exec (.launch rq image len undo pair pkg npkg) s = .next (s.conclude rq (replyTo rq 4 r))
       (∀ r, s.launchReason m bs g place pkg npkg = some r → refused r) ∧
       (s.launchReason m bs g place pkg npkg = none →
         ((∃ d ∈ g.dies, (s.die d).powered = false) ∨ s.launchWrite m bs g pair = none) → refused 4) ∧
       ∀ u h, s.launchReason m bs g place pkg npkg = none → (∀ d ∈ g.dies, (s.die d).powered = true) → s.launchWrite m bs g pair = some (u, h) →
         ∃ s', exec (.launch rq image len undo pair pkg npkg) s = .next s' ∧
           s'.Answered rq 0 0 [BitVec.ofNat 64 h.id, BitVec.ofNat 64 h.t0, h.evring] ∧ s'.gangs = u.gangs ∧ s'.tiles = u.tiles ∧ s'.mem = u.mem ∧
           h ∈ s'.gangs ∧ h.stat = .placed ∧ s.tick + 4096 ≤ h.t0 ∧ h.t0 % 16 = 0) ∧
     (∀ g h tick, s.gang? g = some h → h.part = rq.part → s.tick + 8192 ≤ tick →
       (requestFits rq 5 1 = true → h.stat = .running → ∃ s' h', exec (.preemptStop rq g tick) s = .next s' ∧ s'.Answered rq 0 0 [BitVec.ofNat 64 tick] ∧
         s'.gang? g = some h' ∧ h'.stat = .stopping ∧ h'.ts = tick ∧ s'.tiles = s.tiles) ∧
       let waits := fun (s' : State) (h' : Gang) => s'.svc.replies = s.svc.replies ∧ h'.asked = h.asked ++ [rq] ∧ s'.gang? g = some h' ∧
         s'.tiles = s.tiles ∧ ∃ c, s'.session? rq.session = some c ∧ c.last = some rq.seq
       (requestFits rq 5 2 = true → h.stat = .stopped → h.sealed = true → ∃ s' h', exec (.preemptResume rq g tick) s = .next s' ∧ waits s' h' ∧
         h'.stat = .resuming ∧ h'.t1 = tick) ∧
       (requestFits rq 5 2 = true → h.stat = .stopping → h.sealed = false → ∃ s' h', exec (.preemptResume rq g tick) s = .next s' ∧ waits s' h' ∧
         h'.stat = .stopping ∧ h'.auto = true ∧ h'.resumeAt = some tick))) ∧
  (∀ (s : State) (rq : Request) (nonce : BitVec 256) (key : BitVec 776), s.serving = true → s.svc.frozen = none → s.svc.attests < 2 ^ 20 →
     rq.part = 0xFFFF → rq.session = 0 → requestFits rq 1 0 = true →
     (∀ c, s.session? 0 = some c → ∀ n, c.last = some n → n < rq.seq) → s.session? (BitVec.ofNat 64 (s.svc.attests + 1)) = none →
     let n := s.svc.attests
     let id := BitVec.ofNat 64 (n + 1)
     ∃ s' c, exec (.attest rq nonce key) s = .next s' ∧
       s'.Answered rq 0 0 (signed n ((List.range 4).map (fun i => (nonce >>> (64 * i)).setWidth 64) ++
         ((List.range 9).flatMap fun i => wordsOf (Config.measurement i)) ++ Config.identity ++ [0] ++ wordsOf (Config.deviceKey n) ++ [id])) ∧
       s'.session? id = some c ∧ (c.operator = true ↔ key = Config.operatorKey) ∧ c.last = none ∧ c.nonce = nonce ∧ c.pub = key ∧
       s'.mem = s.mem ∧ s'.tiles = s.tiles) ∧
  ∀ (s : State),
    (∀ dead d, d < 8 → d ∉ dead → (s.die d).powered = true → (∀ e, e < d → e ∈ dead ∨ (s.die e).powered = false) →
      exec (.coordinatorFailover dead) s = .next { s with svc := { s.svc with coord := d } }) ∧
    (s.svc.boot = .cold → ∀ version,
      let halts := fun (i : Instr) (n : Nat) => exec i s = .next { s with svc := { s.svc with boot := .halted n } }
      (s.svc.version ≤ version → exec (.boot (some true) true true version) s =
        .next { s with svc := { s.svc with version := version, boot := .up } }) ∧
      (∀ lms oth, halts (.boot none lms oth version) 1) ∧
      (∀ sig lms oth, (sig && lms) = false → halts (.boot (some sig) lms oth version) 2) ∧
      (∀ oth, version < s.svc.version → halts (.boot (some true) true oth version) 3) ∧
      (s.svc.version ≤ version → exec (.boot (some true) true false version) s =
        .next { s with svc := { s.svc with version := version, boot := .halted 4 } })) ∧
    (∀ (ppm : Int) (n : Nat), exec (.ieee1588Sync ⟨ppm, n⟩) s = .next { s with
      tick := if s.svc.launches = 0 then s.tick + n else s.tick, svc := { s.svc with ppm := max (-100) (min 100 ppm) } }) ∧
    (∀ d, 8 ≤ d → exec (.tapReadout d) s = .next s) ∧
    ∀ d, d < 8 → ∃ r, exec (.tapReadout d) s = .next { s with svc := { s.svc with
        tap := (match s.svc.boot with
          | .halted n => BitVec.ofNat 64 n
          | _ => 0) :: Config.identity
        readout := r } } ∧
      (s.svc.image = none → r = []) ∧
      ∀ m, s.svc.image = some m → r.length = 192 ∧ ∀ i, i < 192 → ∃ x t, r[i]? = some x ∧ x.clearTile = (if s.tenantOf (192 * d + i) t = none then some t else none) ∧
        (∀ n pub, s.tenantOf (192 * d + i) t = some n → s.attestKey n = some pub → x.openTile pub = some t ∧ ∀ pub', pub' ≠ pub → x.openTile pub' = none) ∧
        (∀ v, smFind (192 * d + i) m = some v → t = v) ∧ (smFind (192 * d + i) m = none → t = .reset)

/-! ## Step, decoding, invariants, reset -/

/-- A step of a thread whose queues are empty, with no result in flight, whose slices and fetch may issue in this tick, whose slot is enabled, with no interrupt
to take, no move due, no known error and no walk under way, runs the word its fetch point holds: exec of the decoded instruction at the state where it is the
executing word, whose results are then in flight for the latency of its class; then the next word in sequence, or what the instruction redirected; a word that
stalls stays at the fetch point, one that waits has been passed when it is an X word. (A vector access runs so where nothing else could see it between its
16 B units: log 76.) The pair's mark, what the walkers keep and the settling of what has fallen due follow (R22, R45, R223, R256, R258, R355, R371, R407,
R411). -/
def Obligations.StepRunsDecoded : Prop :=
  ∀ (s s2 : State) (p : Nat) (g : Gang) (r : List Turn) (w : IWord) (i : Instr) (tlb : List TlbEnt),
    let s1 : State := { s with steps := s.steps + 1, turns := r, cur := p }
    let t := s.tile p
    let done := fun (u : Tile) => Host.Outcome.next ((((s2.setT u).markTurn s1 (some i)).walked s1).settle)
    let one := fun (u : Tile) => ({ u with fe := { u.fe with seq := u.fe.seq + 1 } } : Tile)
    let b := ({ t with regs := { t.regs with loop := t.regs.loop.landDue }, tlb := tlb } : Tile)
    let v := if w.getLsbD 6 then s2.afterX b i t.fe.seq t.fe.pc else s2.afterIssue s2.t b i false
    s.turns = .thread p :: r → s.dead = false → ({ s with steps := s.steps + 1 } : State).urgentMove.isNone = true →
    s1.gangAt p = some g → s1.spots g = [] → s1.barred t = false → s1.slotOn p = true → t.ctl.stat = .running → t.takeable s.tick = none →
    t.fe.aq = [] → t.fe.xq = [] → t.fe.xl = [] → t.fe.skip = [] → t.fe.res = [] → t.envq = [] → t.fe.aAt ≤ s.tick → t.fe.xAt ≤ s.tick → t.fe.fAt ≤ s.tick →
    (s1.die (p / 192)).walks = [] →
    s1.fetchWord t t.fe.pc = (some w, tlb) → decode w = .ok i → (vecMem i = true → (s1.setT (t.here tlb)).alone = true) →
    exec i (s1.setT (t.here tlb)) = .next s2 →
    (s2.t.fe.flow = .seq → step s = done ((one v).pass s2.t.fe.ipc)) ∧
    (s2.t.fe.flow = .jump → step s = done { one v with regs := { v.regs with loop := v.regs.loop.count } }) ∧
    (s2.t.fe.flow = .trap → step s = done (one s2.t)) ∧
    (s2.t.fe.flow = .stall → step s = done (s2.t.flow .seq)) ∧
    (s2.t.fe.flow = .wait → step s = done (if w.getLsbD 6 then (one (s2.t.vOver i)).pass s2.t.fe.ipc else one s2.t))

/-- R200, R201: each well-formed instruction's word decodes to it, with every operand. -/
def Obligations.DecodeOfEncode : Prop :=
  ∀ (i : Instr) (w : IWord), i.wf = true → encode i = some w → decode w = .ok i

/-- R200, R220: a word that decodes gives a well-formed instruction, and that instruction's word is this one: no two words mean one instruction, no
bit of a word is ignored. -/
def Obligations.EncodeOfDecode : Prop :=
  ∀ (w : IWord) (i : Instr), decode w = .ok i → i.wf = true ∧ encode i = some w

/-- Words written out field by field from the encoding tables (R200 to R219) decode to the instructions they stand for, with every
operand, or are refused where the operands break R203 or R211 to R219; MAJ values without a group are refused (R220). -/
def Obligations.SampleWords : Prop :=
  let reads := fun (w : IWord) (i : Instr) => decode w = if i.wf then .ok i else .error .form
  (∀ rd rs1 rs2 : BitVec 5, reads (0b0000000#7 ++ rs2 ++ rs1 ++ 0b000#3 ++ rd ++ 0#1 ++ 0x04#6) (.add rd rs1 rs2)) ∧
  (∀ (imm : BitVec 12) (rs1 rd : BitVec 5), reads (imm ++ rs1 ++ 0b010#3 ++ rd ++ 0#1 ++ 0x01#6) (.lw rd rs1 imm)) ∧
  (∀ (hi : BitVec 7) (lo rs1 rs2 : BitVec 5), reads (hi ++ rs2 ++ rs1 ++ 0b011#3 ++ lo ++ 0#1 ++ 0x02#6) (.sd rs2 rs1 (hi ++ lo))) ∧
  (∀ (hi : BitVec 7) (lo rs1 rs2 : BitVec 5), reads (hi ++ rs2 ++ rs1 ++ 0b001#3 ++ lo ++ 0#1 ++ 0x07#6) (.bne rs1 rs2 (hi ++ lo))) ∧
  (∀ (imm : BitVec 20) (rd : BitVec 5), reads (imm ++ rd ++ 0#1 ++ 0x08#6) (.jal rd imm)) ∧
  (∀ (vm : BitVec 3) (vd vs1 vs2 : BitVec 5), reads (0b0000#4 ++ vm ++ vs2 ++ vs1 ++ 0b010#3 ++ vd ++ 1#1 ++ 0x0D#6)
    (.vadd .i32 vm vd vs1 vs2)) ∧
  (∀ w : IWord, w.extractLsb' 0 6 = 0x00#6 ∨ 0x1B ≤ (w.extractLsb' 0 6).toNat → decode w = .error .major)

/-- Every step keeps the package sound: memory and every scratchpad in canonical form, the kept copies among them, an open task among
its tile's tasks. -/
def Obligations.StepKeepsSound : Prop := ∀ s s' : State, s.Sound → step s = .next s' → s'.Sound

/-- Reset leaves a sound package: TICK 0, no thread, every register of every tile at the value R47, R52 and R361 give it, every envelope register empty, every
accumulator zero in mode binary64, every port empty and every mask but m0 zero; the route LFSR stands at the value of a zero seed (R151). (Where the spec
gives no reset value, the value is the model's: TILEID, DOMAIN, CHAINPOS and the pc of an idle tile 0, log 3; the voltage of a die 850 mV, log 6.) -/
def Obligations.ResetState : Prop :=
  State.reset.Sound ∧ State.reset.tick = 0 ∧ State.reset.gangs = [] ∧ State.reset.net = [] ∧ State.reset.mem = [] ∧ State.reset.svc.boot = .cold ∧
  (∀ p, let t := State.reset.tile p
    (∀ r, t.xval r = 0) ∧ (∀ r, t.yval r = 0) ∧ (∀ r, t.vval r = 0) ∧ (∀ r, t.mval r = if r = 0 then ones64 else 0) ∧ (∀ r, t.jval r = 0) ∧
    (∀ n, t.regs.loop.get n = ⟨0, 0, 0⟩) ∧ (∀ e, t.envGet e = .empty) ∧ (∀ a i j, t.mx.word a i j = 0) ∧ (∀ a, t.mx.int a = false) ∧
    t.regs.qax0 = [] ∧ t.regs.qax1 = [] ∧ t.regs.qxa0 = [] ∧ t.regs.qxa1 = [] ∧
    t.ur.fflags = 0 ∧ t.ur.pstride = 0 ∧ (∀ n, n < 4 → t.ur.rqbase.toList[n]? = some 0 ∧ t.ur.rqsize.toList[n]? = some 0) ∧ t.ur.estat = 0 ∧
    t.ur.etol = 0 ∧ t.ur.elimit = 256 ∧ t.ur.mring = 0 ∧ t.mx.ring = 0 ∧ t.ur.scancfg = 0 ∧ t.ir.tileid = 0 ∧ t.ir.domain = 0 ∧
    t.ir.tstamp = 0xFFFF_FFFF_FFFF ∧ t.ir.permit = 0 ∧ t.ir.merrlog = 0 ∧ t.ir.chainpos = 0 ∧ t.ir.netstat = 0 ∧ t.ir.relstat = 1 ∧ t.ir.wearacc = 0 ∧
    t.sr.status = 0 ∧ t.sr.cause = 0 ∧ t.sr.epc = 0 ∧ t.sr.tval = 0 ∧ t.sr.tvec = 0 ∧ (∀ n, n < 4 → t.sr.ssave.toList[n]? = some 0) ∧ t.sr.inten = 0 ∧
    t.sr.intpend = 0 ∧ t.sr.tickcmp = ones64 ∧ t.sr.bwlimit = 0 ∧ t.sr.rslimit = 0 ∧ t.sr.bhkey = 0 ∧ t.sr.lfsrseed = 0 ∧ t.sr.lfsr = 0xACE1 ∧
    t.sr.ovfbase = 0 ∧ t.sr.ovfsize = 0 ∧ t.sr.ovfstat = 0 ∧ t.sr.capval = 0 ∧ t.sr.minting = none ∧
    t.spad = [] ∧ t.fe.pc = 0 ∧ t.gang = none ∧ t.ctl.stat = .idle) ∧
  ∀ d c, (State.reset.die d).dltimeout = 1024 ∧ (State.reset.die d).mv = 850 ∧ (State.reset.cluster d c).pat = 0xFFFF
end

