-- ==== Sys2Proof/Laws/Gate.lean ====
section
/-! SUPPORT. Laws/Gate: what the issue gates answer (R24, R223, R326). -/

namespace Sys2Proof.Machine

theorem Tile.gateX_of_sources {t : Tile} {srcs dsts : List XReg} (h : t.SourcesReady srcs dsts) : t.gateX srcs dsts = .go := by
  obtain ⟨hk, hd, hb, hp, h0, h1, h2, h3⟩ := h
  have hf : (if t.user = true then (srcs ++ dsts).find? t.damoPending else none) = none := by
    split
    · rename_i hu
      rw [List.find?_eq_none]
      intro r hr
      simp [hd hu r hr]
    · rfl
  have hs : srcs.any t.busy = false := by
    rw [List.any_eq_false]
    intro r hr
    simp [hb r hr]
  have hq : dsts.any (fun r => (r == 28 || r == 29) && t.busy r) = false := by
    rw [List.any_eq_false]
    intro r hr
    simpa using hp r hr
  have a0 : decide (t.regs.qxa0.length < srcs.count 30) = false := by simpa using h0
  have a1 : decide (t.regs.qxa1.length < srcs.count 31) = false := by simpa using h1
  unfold Tile.gateX
  rw [hf]
  simp only [hs, hq, a0, a1, Bool.false_or, Bool.and_false, Bool.or_eq_true, decide_eq_true_eq, Bool.or_self]
  rw [if_neg (by omega)]

theorem Tile.sources_of_ready {t : Tile} {srcs dsts : List XReg} (h : t.ReadyX srcs dsts) : t.SourcesReady srcs dsts :=
  ⟨h.1, h.2.1, fun r hr => h.2.2.1 r (List.mem_append_left _ hr), fun r hr _ => h.2.2.1 r (List.mem_append_right _ hr), h.2.2.2⟩

theorem Tile.gateX_of_ready {t : Tile} {srcs dsts : List XReg} (h : t.ReadyX srcs dsts) : t.gateX srcs dsts = .go :=
  Tile.gateX_of_sources (Tile.sources_of_ready h)

/-- A word whose destinations have no outstanding load leaves the loads as they are. -/
theorem Tile.supersede_of_ready {t : Tile} {srcs dsts : List XReg} (h : t.ReadyX srcs dsts) : t.supersede dsts = t := by
  have hq : dsts.any t.busy = false := by
    rw [List.any_eq_false]
    intro r hr
    simp [h.2.2.1 r (List.mem_append_right _ hr)]
  simp [Tile.supersede, hq]

/-- A y register that nothing outstanding writes awaits neither an envelope result nor a split load. -/
theorem Tile.not_awaits {t : Tile} {r : YReg} (h : t.busyY r = false) : t.awaitsEnv r = false ∧ t.awaitsY r = false := by
  simpa [Tile.busyY] using h

theorem Tile.gateY_of_ready {t : Tile} {srcs dsts : List YReg} (h : t.ReadyY srcs dsts) : t.gateY srcs dsts = .go := by
  obtain ⟨hk, hb, h0, h1, h2, h3⟩ := h
  have hs : srcs.any t.busyY = false := by
    rw [List.any_eq_false]
    intro r hr
    simp [hb r (List.mem_append_left _ hr)]
  have hq : dsts.any (fun r => t.awaitsEnv r || ((r == 12 || r == 13) && t.awaitsY r)) = false := by
    rw [List.any_eq_false]
    intro r hr
    simp [Tile.not_awaits (hb r (List.mem_append_right _ hr))]
  have a0 : decide (t.regs.qax0.length < srcs.count 14) = false := by simpa using h0
  have a1 : decide (t.regs.qax1.length < srcs.count 15) = false := by simpa using h1
  unfold Tile.gateY
  simp only [hs, hq, a0, a1, Bool.and_false, Bool.false_and, Bool.false_or, Bool.or_eq_true, decide_eq_true_eq, Bool.false_eq_true, if_false]
  rw [if_neg (by omega)]

theorem Tile.no_busy {t : Tile} {srcs dsts : List XReg} (h : t.ReadyX srcs dsts) : dsts.any t.busy = false := by
  rw [List.any_eq_false]
  intro r hr
  simp [h.2.2.1 r (List.mem_append_right _ hr)]

theorem Tile.no_awaits {t : Tile} {srcs dsts : List YReg} (h : t.ReadyY srcs dsts) : dsts.any t.awaitsY = false := by
  rw [List.any_eq_false]
  intro r hr
  simp [Tile.not_awaits (h.2.1 r (List.mem_append_right _ hr))]

/-- An A-slice word whose registers are ready has its effect. -/
theorem Tile.aWord_of_ready {t : Tile} {srcs dsts : List XReg} (h : t.ReadyX srcs dsts) (go : Tile → Tile) :
    t.aWord srcs dsts go = go t := by
  simp [Tile.aWord, Tile.gateX_of_ready h, Tile.no_busy h]

/-- An X-slice word whose registers are ready has its effect. -/
theorem Tile.xWord_of_ready {t : Tile} {srcs dsts : List YReg} (h : t.ReadyY srcs dsts) (go : Tile → Tile) :
    t.xWord srcs dsts go = go t := by
  simp [Tile.xWord, Tile.gateY_of_ready h, Tile.no_awaits h]

theorem State.aWord_of_ready {s : State} {srcs dsts : List XReg} (h : s.t.ReadyX srcs dsts) (go : State → State) :
    s.aWord srcs dsts go = go s := by
  simp [State.aWord, Tile.gateX_of_ready h, Tile.no_busy h]

theorem State.aWordLate_of_ready {s : State} {srcs dsts : List XReg} (h : s.t.ReadyX srcs dsts) (go : State → State) :
    s.aWordLate srcs dsts go = go s := by
  simp [State.aWordLate, Tile.gateX_of_ready h]

theorem State.xWord_of_ready {s : State} {srcs dsts : List YReg} (h : s.t.ReadyY srcs dsts) (go : State → State) :
    s.xWord srcs dsts go = go s := by
  simp [State.xWord, Tile.gateY_of_ready h, Tile.no_awaits h]

theorem State.xWordLate_of_ready {s : State} {srcs dsts : List YReg} (h : s.t.ReadyY srcs dsts) (go : State → State) :
    s.xWordLate srcs dsts go = go s := by
  simp [State.xWordLate, Tile.gateY_of_ready h]

end Sys2Proof.Machine
end

