-- ==== Sys2Proof/Laws/State.lean ====
section
/-! SUPPORT. Laws/State: what each update leaves, field by field, and the tile a thread reads after it is written. -/

namespace Sys2Proof.Machine

/-! ## Sparse maps -/

theorem smGet_smPut_same {α : Type} (d : α) (k : Nat) (v : α) : (m : SMap α) → smGet d k (smPut k v m) = v
  | [] => by simp [smPut, smGet]
  | (k', v') :: r => by
    unfold smPut
    split
    · simp [smGet]
    · split
      · simp [smGet]
      · rename_i h
        simp [smGet, Ne.symm h, smGet_smPut_same d k v r]

theorem smGet_smPut_ne {α : Type} (d : α) {k j : Nat} (v : α) (h : k ≠ j) : (m : SMap α) → smGet d j (smPut k v m) = smGet d j m
  | [] => by simp [smPut, smGet, h]
  | (k', v') :: r => by
    unfold smPut
    split
    · simp [smGet, h]
    · split
      · rename_i h1 h2
        subst h2
        simp [smGet, h]
      · simp [smGet, smGet_smPut_ne d v h r]

theorem smPut_smPut {α : Type} (k : Nat) (v w : α) : (m : SMap α) → smPut k w (smPut k v m) = smPut k w m
  | [] => by simp [smPut]
  | (k', v') :: r => by
    by_cases h : k < k'
    · simp [smPut, h]
    · by_cases h2 : k = k'
      · subst h2
        simp [smPut]
      · simp [smPut, h, h2, smPut_smPut k v w r]

/-! ## The package -/

@[simp] theorem State.tile_setTile (s : State) (p : Nat) (t : Tile) : (s.setTile p t).tile p = t := smGet_smPut_same _ _ _ _
theorem State.tile_setTile_ne (s : State) {p q : Nat} (t : Tile) (h : p ≠ q) : (s.setTile p t).tile q = s.tile q :=
  smGet_smPut_ne _ _ h _
@[simp] theorem State.t_setT (s : State) (t : Tile) : (s.setT t).t = t := smGet_smPut_same _ _ _ _
theorem State.tile_setT_ne (s : State) {q : Nat} (t : Tile) (h : s.cur ≠ q) : (s.setT t).tile q = s.tile q :=
  smGet_smPut_ne _ _ h _
@[simp] theorem State.setTile_setTile (s : State) (p : Nat) (t u : Tile) : (s.setTile p t).setTile p u = s.setTile p u := by
  simp [State.setTile, smPut_smPut]
@[simp] theorem State.setT_setT (s : State) (t u : Tile) : (s.setT t).setT u = s.setT u := by
  simp [State.setT, State.setTile, smPut_smPut]

@[simp] theorem State.setTile_turns (s : State) (p : Nat) (t : Tile) : (s.setTile p t).turns = s.turns := rfl
@[simp] theorem State.setT_turns (s : State) (t : Tile) : (s.setT t).turns = s.turns := rfl
@[simp] theorem State.onTile_turns (s : State) (p : Nat) (f : Tile → Tile) : (s.onTile p f).turns = s.turns := rfl
@[simp] theorem State.setTile_cur (s : State) (p : Nat) (t : Tile) : (s.setTile p t).cur = s.cur := rfl
@[simp] theorem State.setT_cur (s : State) (t : Tile) : (s.setT t).cur = s.cur := rfl
@[simp] theorem State.onTile_cur (s : State) (p : Nat) (f : Tile → Tile) : (s.onTile p f).cur = s.cur := rfl
@[simp] theorem State.setTile_pos (s : State) (p : Nat) (t : Tile) : (s.setTile p t).pos = s.pos := rfl
@[simp] theorem State.setT_pos (s : State) (t : Tile) : (s.setT t).pos = s.pos := rfl
@[simp] theorem State.onTile_pos (s : State) (p : Nat) (f : Tile → Tile) : (s.onTile p f).pos = s.pos := rfl
@[simp] theorem State.setTile_steps (s : State) (p : Nat) (t : Tile) : (s.setTile p t).steps = s.steps := rfl
@[simp] theorem State.setT_steps (s : State) (t : Tile) : (s.setT t).steps = s.steps := rfl
@[simp] theorem State.onTile_steps (s : State) (p : Nat) (f : Tile → Tile) : (s.onTile p f).steps = s.steps := rfl
@[simp] theorem State.setTile_tick (s : State) (p : Nat) (t : Tile) : (s.setTile p t).tick = s.tick := rfl
@[simp] theorem State.setT_tick (s : State) (t : Tile) : (s.setT t).tick = s.tick := rfl
@[simp] theorem State.onTile_tick (s : State) (p : Nat) (f : Tile → Tile) : (s.onTile p f).tick = s.tick := rfl
@[simp] theorem State.setTile_dies (s : State) (p : Nat) (t : Tile) : (s.setTile p t).dies = s.dies := rfl
@[simp] theorem State.setT_dies (s : State) (t : Tile) : (s.setT t).dies = s.dies := rfl
@[simp] theorem State.onTile_dies (s : State) (p : Nat) (f : Tile → Tile) : (s.onTile p f).dies = s.dies := rfl
@[simp] theorem State.setTile_parts (s : State) (p : Nat) (t : Tile) : (s.setTile p t).parts = s.parts := rfl
@[simp] theorem State.setT_parts (s : State) (t : Tile) : (s.setT t).parts = s.parts := rfl
@[simp] theorem State.onTile_parts (s : State) (p : Nat) (f : Tile → Tile) : (s.onTile p f).parts = s.parts := rfl
@[simp] theorem State.setTile_gangs (s : State) (p : Nat) (t : Tile) : (s.setTile p t).gangs = s.gangs := rfl
@[simp] theorem State.setT_gangs (s : State) (t : Tile) : (s.setT t).gangs = s.gangs := rfl
@[simp] theorem State.onTile_gangs (s : State) (p : Nat) (f : Tile → Tile) : (s.onTile p f).gangs = s.gangs := rfl
@[simp] theorem State.setTile_mem (s : State) (p : Nat) (t : Tile) : (s.setTile p t).mem = s.mem := rfl
@[simp] theorem State.setT_mem (s : State) (t : Tile) : (s.setT t).mem = s.mem := rfl
@[simp] theorem State.onTile_mem (s : State) (p : Nat) (f : Tile → Tile) : (s.onTile p f).mem = s.mem := rfl
@[simp] theorem State.setTile_net (s : State) (p : Nat) (t : Tile) : (s.setTile p t).net = s.net := rfl
@[simp] theorem State.setT_net (s : State) (t : Tile) : (s.setT t).net = s.net := rfl
@[simp] theorem State.onTile_net (s : State) (p : Nat) (f : Tile → Tile) : (s.onTile p f).net = s.net := rfl
@[simp] theorem State.setTile_svc (s : State) (p : Nat) (t : Tile) : (s.setTile p t).svc = s.svc := rfl
@[simp] theorem State.setT_svc (s : State) (t : Tile) : (s.setT t).svc = s.svc := rfl
@[simp] theorem State.onTile_svc (s : State) (p : Nat) (f : Tile → Tile) : (s.onTile p f).svc = s.svc := rfl

/-! ## A tile -/

@[simp] theorem Tile.putX_gang (t : Tile) (r : XReg) (v : Word) : (t.putX r v).gang = t.gang := by
  unfold Tile.putX
  repeat' split
  all_goals rfl
@[simp] theorem Tile.putX_lidx (t : Tile) (r : XReg) (v : Word) : (t.putX r v).lidx = t.lidx := by
  unfold Tile.putX
  repeat' split
  all_goals rfl
@[simp] theorem Tile.putX_ctl (t : Tile) (r : XReg) (v : Word) : (t.putX r v).ctl = t.ctl := by
  unfold Tile.putX
  repeat' split
  all_goals rfl
@[simp] theorem Tile.putX_ur (t : Tile) (r : XReg) (v : Word) : (t.putX r v).ur = t.ur := by
  unfold Tile.putX
  repeat' split
  all_goals rfl
@[simp] theorem Tile.putX_ir (t : Tile) (r : XReg) (v : Word) : (t.putX r v).ir = t.ir := by
  unfold Tile.putX
  repeat' split
  all_goals rfl
@[simp] theorem Tile.putX_sr (t : Tile) (r : XReg) (v : Word) : (t.putX r v).sr = t.sr := by
  unfold Tile.putX
  repeat' split
  all_goals rfl
@[simp] theorem Tile.putX_fe (t : Tile) (r : XReg) (v : Word) : (t.putX r v).fe = t.fe := by
  unfold Tile.putX
  repeat' split
  all_goals rfl
@[simp] theorem Tile.putX_spad (t : Tile) (r : XReg) (v : Word) : (t.putX r v).spad = t.spad := by
  unfold Tile.putX
  repeat' split
  all_goals rfl
@[simp] theorem Tile.putX_latent (t : Tile) (r : XReg) (v : Word) : (t.putX r v).latent = t.latent := by
  unfold Tile.putX
  repeat' split
  all_goals rfl
@[simp] theorem Tile.putX_env (t : Tile) (r : XReg) (v : Word) : (t.putX r v).env = t.env := by
  unfold Tile.putX
  repeat' split
  all_goals rfl
@[simp] theorem Tile.putX_envq (t : Tile) (r : XReg) (v : Word) : (t.putX r v).envq = t.envq := by
  unfold Tile.putX
  repeat' split
  all_goals rfl
@[simp] theorem Tile.putX_mx (t : Tile) (r : XReg) (v : Word) : (t.putX r v).mx = t.mx := by
  unfold Tile.putX
  repeat' split
  all_goals rfl
@[simp] theorem Tile.putX_scan (t : Tile) (r : XReg) (v : Word) : (t.putX r v).scan = t.scan := by
  unfold Tile.putX
  repeat' split
  all_goals rfl
@[simp] theorem Tile.putX_cp (t : Tile) (r : XReg) (v : Word) : (t.putX r v).cp = t.cp := by
  unfold Tile.putX
  repeat' split
  all_goals rfl
@[simp] theorem Tile.putX_cpBank (t : Tile) (r : XReg) (v : Word) : (t.putX r v).cpBank = t.cpBank := by
  unfold Tile.putX
  repeat' split
  all_goals rfl
@[simp] theorem Tile.putX_cpBankS (t : Tile) (r : XReg) (v : Word) : (t.putX r v).cpBankS = t.cpBankS := by
  unfold Tile.putX
  repeat' split
  all_goals rfl
@[simp] theorem Tile.putX_copies (t : Tile) (r : XReg) (v : Word) : (t.putX r v).copies = t.copies := by
  unfold Tile.putX
  repeat' split
  all_goals rfl
@[simp] theorem Tile.putX_cpNext (t : Tile) (r : XReg) (v : Word) : (t.putX r v).cpNext = t.cpNext := by
  unfold Tile.putX
  repeat' split
  all_goals rfl
@[simp] theorem Tile.putX_ni (t : Tile) (r : XReg) (v : Word) : (t.putX r v).ni = t.ni := by
  unfold Tile.putX
  repeat' split
  all_goals rfl
@[simp] theorem Tile.putX_tokens (t : Tile) (r : XReg) (v : Word) : (t.putX r v).tokens = t.tokens := by
  unfold Tile.putX
  repeat' split
  all_goals rfl
@[simp] theorem Tile.putX_loads (t : Tile) (r : XReg) (v : Word) : (t.putX r v).loads = t.loads := by
  unfold Tile.putX
  repeat' split
  all_goals rfl
@[simp] theorem Tile.putX_damos (t : Tile) (r : XReg) (v : Word) : (t.putX r v).damos = t.damos := by
  unfold Tile.putX
  repeat' split
  all_goals rfl
@[simp] theorem Tile.putX_task (t : Tile) (r : XReg) (v : Word) : (t.putX r v).task = t.task := by
  unfold Tile.putX
  repeat' split
  all_goals rfl
@[simp] theorem Tile.putX_undo (t : Tile) (r : XReg) (v : Word) : (t.putX r v).undo = t.undo := by
  unfold Tile.putX
  repeat' split
  all_goals rfl
@[simp] theorem Tile.putX_snap (t : Tile) (r : XReg) (v : Word) : (t.putX r v).snap = t.snap := by
  unfold Tile.putX
  repeat' split
  all_goals rfl
@[simp] theorem Tile.putX_tlb (t : Tile) (r : XReg) (v : Word) : (t.putX r v).tlb = t.tlb := by
  unfold Tile.putX
  repeat' split
  all_goals rfl
@[simp] theorem Tile.putX_pair (t : Tile) (r : XReg) (v : Word) : (t.putX r v).pair = t.pair := by
  unfold Tile.putX
  repeat' split
  all_goals rfl
@[simp] theorem Tile.putX_assay (t : Tile) (r : XReg) (v : Word) : (t.putX r v).assay = t.assay := by
  unfold Tile.putX
  repeat' split
  all_goals rfl

@[simp] theorem Tile.putY_gang (t : Tile) (r : YReg) (v : Word) : (t.putY r v).gang = t.gang := by
  unfold Tile.putY
  repeat' split
  all_goals rfl
@[simp] theorem Tile.putY_lidx (t : Tile) (r : YReg) (v : Word) : (t.putY r v).lidx = t.lidx := by
  unfold Tile.putY
  repeat' split
  all_goals rfl
@[simp] theorem Tile.putY_ctl (t : Tile) (r : YReg) (v : Word) : (t.putY r v).ctl = t.ctl := by
  unfold Tile.putY
  repeat' split
  all_goals rfl
@[simp] theorem Tile.putY_ur (t : Tile) (r : YReg) (v : Word) : (t.putY r v).ur = t.ur := by
  unfold Tile.putY
  repeat' split
  all_goals rfl
@[simp] theorem Tile.putY_ir (t : Tile) (r : YReg) (v : Word) : (t.putY r v).ir = t.ir := by
  unfold Tile.putY
  repeat' split
  all_goals rfl
@[simp] theorem Tile.putY_sr (t : Tile) (r : YReg) (v : Word) : (t.putY r v).sr = t.sr := by
  unfold Tile.putY
  repeat' split
  all_goals rfl
@[simp] theorem Tile.putY_fe (t : Tile) (r : YReg) (v : Word) : (t.putY r v).fe = t.fe := by
  unfold Tile.putY
  repeat' split
  all_goals rfl
@[simp] theorem Tile.putY_spad (t : Tile) (r : YReg) (v : Word) : (t.putY r v).spad = t.spad := by
  unfold Tile.putY
  repeat' split
  all_goals rfl
@[simp] theorem Tile.putY_latent (t : Tile) (r : YReg) (v : Word) : (t.putY r v).latent = t.latent := by
  unfold Tile.putY
  repeat' split
  all_goals rfl
@[simp] theorem Tile.putY_env (t : Tile) (r : YReg) (v : Word) : (t.putY r v).env = t.env := by
  unfold Tile.putY
  repeat' split
  all_goals rfl
@[simp] theorem Tile.putY_envq (t : Tile) (r : YReg) (v : Word) : (t.putY r v).envq = t.envq := by
  unfold Tile.putY
  repeat' split
  all_goals rfl
@[simp] theorem Tile.putY_mx (t : Tile) (r : YReg) (v : Word) : (t.putY r v).mx = t.mx := by
  unfold Tile.putY
  repeat' split
  all_goals rfl
@[simp] theorem Tile.putY_scan (t : Tile) (r : YReg) (v : Word) : (t.putY r v).scan = t.scan := by
  unfold Tile.putY
  repeat' split
  all_goals rfl
@[simp] theorem Tile.putY_cp (t : Tile) (r : YReg) (v : Word) : (t.putY r v).cp = t.cp := by
  unfold Tile.putY
  repeat' split
  all_goals rfl
@[simp] theorem Tile.putY_cpBank (t : Tile) (r : YReg) (v : Word) : (t.putY r v).cpBank = t.cpBank := by
  unfold Tile.putY
  repeat' split
  all_goals rfl
@[simp] theorem Tile.putY_cpBankS (t : Tile) (r : YReg) (v : Word) : (t.putY r v).cpBankS = t.cpBankS := by
  unfold Tile.putY
  repeat' split
  all_goals rfl
@[simp] theorem Tile.putY_copies (t : Tile) (r : YReg) (v : Word) : (t.putY r v).copies = t.copies := by
  unfold Tile.putY
  repeat' split
  all_goals rfl
@[simp] theorem Tile.putY_cpNext (t : Tile) (r : YReg) (v : Word) : (t.putY r v).cpNext = t.cpNext := by
  unfold Tile.putY
  repeat' split
  all_goals rfl
@[simp] theorem Tile.putY_ni (t : Tile) (r : YReg) (v : Word) : (t.putY r v).ni = t.ni := by
  unfold Tile.putY
  repeat' split
  all_goals rfl
@[simp] theorem Tile.putY_tokens (t : Tile) (r : YReg) (v : Word) : (t.putY r v).tokens = t.tokens := by
  unfold Tile.putY
  repeat' split
  all_goals rfl
@[simp] theorem Tile.putY_loads (t : Tile) (r : YReg) (v : Word) : (t.putY r v).loads = t.loads := by
  unfold Tile.putY
  repeat' split
  all_goals rfl
@[simp] theorem Tile.putY_damos (t : Tile) (r : YReg) (v : Word) : (t.putY r v).damos = t.damos := by
  unfold Tile.putY
  repeat' split
  all_goals rfl
@[simp] theorem Tile.putY_task (t : Tile) (r : YReg) (v : Word) : (t.putY r v).task = t.task := by
  unfold Tile.putY
  repeat' split
  all_goals rfl
@[simp] theorem Tile.putY_undo (t : Tile) (r : YReg) (v : Word) : (t.putY r v).undo = t.undo := by
  unfold Tile.putY
  repeat' split
  all_goals rfl
@[simp] theorem Tile.putY_snap (t : Tile) (r : YReg) (v : Word) : (t.putY r v).snap = t.snap := by
  unfold Tile.putY
  repeat' split
  all_goals rfl
@[simp] theorem Tile.putY_tlb (t : Tile) (r : YReg) (v : Word) : (t.putY r v).tlb = t.tlb := by
  unfold Tile.putY
  repeat' split
  all_goals rfl
@[simp] theorem Tile.putY_pair (t : Tile) (r : YReg) (v : Word) : (t.putY r v).pair = t.pair := by
  unfold Tile.putY
  repeat' split
  all_goals rfl
@[simp] theorem Tile.putY_assay (t : Tile) (r : YReg) (v : Word) : (t.putY r v).assay = t.assay := by
  unfold Tile.putY
  repeat' split
  all_goals rfl

@[simp] theorem Tile.putV_gang (t : Tile) (r : VReg) (v : Vec) : (t.putV r v).gang = t.gang := rfl
@[simp] theorem Tile.putV_lidx (t : Tile) (r : VReg) (v : Vec) : (t.putV r v).lidx = t.lidx := rfl
@[simp] theorem Tile.putV_ctl (t : Tile) (r : VReg) (v : Vec) : (t.putV r v).ctl = t.ctl := rfl
@[simp] theorem Tile.putV_ur (t : Tile) (r : VReg) (v : Vec) : (t.putV r v).ur = t.ur := rfl
@[simp] theorem Tile.putV_ir (t : Tile) (r : VReg) (v : Vec) : (t.putV r v).ir = t.ir := rfl
@[simp] theorem Tile.putV_sr (t : Tile) (r : VReg) (v : Vec) : (t.putV r v).sr = t.sr := rfl
@[simp] theorem Tile.putV_fe (t : Tile) (r : VReg) (v : Vec) : (t.putV r v).fe = t.fe := rfl
@[simp] theorem Tile.putV_spad (t : Tile) (r : VReg) (v : Vec) : (t.putV r v).spad = t.spad := rfl
@[simp] theorem Tile.putV_latent (t : Tile) (r : VReg) (v : Vec) : (t.putV r v).latent = t.latent := rfl
@[simp] theorem Tile.putV_env (t : Tile) (r : VReg) (v : Vec) : (t.putV r v).env = t.env := rfl
@[simp] theorem Tile.putV_envq (t : Tile) (r : VReg) (v : Vec) : (t.putV r v).envq = t.envq := rfl
@[simp] theorem Tile.putV_mx (t : Tile) (r : VReg) (v : Vec) : (t.putV r v).mx = t.mx := rfl
@[simp] theorem Tile.putV_scan (t : Tile) (r : VReg) (v : Vec) : (t.putV r v).scan = t.scan := rfl
@[simp] theorem Tile.putV_cp (t : Tile) (r : VReg) (v : Vec) : (t.putV r v).cp = t.cp := rfl
@[simp] theorem Tile.putV_cpBank (t : Tile) (r : VReg) (v : Vec) : (t.putV r v).cpBank = t.cpBank := rfl
@[simp] theorem Tile.putV_cpBankS (t : Tile) (r : VReg) (v : Vec) : (t.putV r v).cpBankS = t.cpBankS := rfl
@[simp] theorem Tile.putV_copies (t : Tile) (r : VReg) (v : Vec) : (t.putV r v).copies = t.copies := rfl
@[simp] theorem Tile.putV_cpNext (t : Tile) (r : VReg) (v : Vec) : (t.putV r v).cpNext = t.cpNext := rfl
@[simp] theorem Tile.putV_ni (t : Tile) (r : VReg) (v : Vec) : (t.putV r v).ni = t.ni := rfl
@[simp] theorem Tile.putV_tokens (t : Tile) (r : VReg) (v : Vec) : (t.putV r v).tokens = t.tokens := rfl
@[simp] theorem Tile.putV_loads (t : Tile) (r : VReg) (v : Vec) : (t.putV r v).loads = t.loads := rfl
@[simp] theorem Tile.putV_damos (t : Tile) (r : VReg) (v : Vec) : (t.putV r v).damos = t.damos := rfl
@[simp] theorem Tile.putV_task (t : Tile) (r : VReg) (v : Vec) : (t.putV r v).task = t.task := rfl
@[simp] theorem Tile.putV_undo (t : Tile) (r : VReg) (v : Vec) : (t.putV r v).undo = t.undo := rfl
@[simp] theorem Tile.putV_snap (t : Tile) (r : VReg) (v : Vec) : (t.putV r v).snap = t.snap := rfl
@[simp] theorem Tile.putV_tlb (t : Tile) (r : VReg) (v : Vec) : (t.putV r v).tlb = t.tlb := rfl
@[simp] theorem Tile.putV_pair (t : Tile) (r : VReg) (v : Vec) : (t.putV r v).pair = t.pair := rfl
@[simp] theorem Tile.putV_assay (t : Tile) (r : VReg) (v : Vec) : (t.putV r v).assay = t.assay := rfl

@[simp] theorem Tile.putM_gang (t : Tile) (r : MReg) (v : Word) : (t.putM r v).gang = t.gang := by
  unfold Tile.putM
  repeat' split
  all_goals rfl
@[simp] theorem Tile.putM_lidx (t : Tile) (r : MReg) (v : Word) : (t.putM r v).lidx = t.lidx := by
  unfold Tile.putM
  repeat' split
  all_goals rfl
@[simp] theorem Tile.putM_ctl (t : Tile) (r : MReg) (v : Word) : (t.putM r v).ctl = t.ctl := by
  unfold Tile.putM
  repeat' split
  all_goals rfl
@[simp] theorem Tile.putM_ur (t : Tile) (r : MReg) (v : Word) : (t.putM r v).ur = t.ur := by
  unfold Tile.putM
  repeat' split
  all_goals rfl
@[simp] theorem Tile.putM_ir (t : Tile) (r : MReg) (v : Word) : (t.putM r v).ir = t.ir := by
  unfold Tile.putM
  repeat' split
  all_goals rfl
@[simp] theorem Tile.putM_sr (t : Tile) (r : MReg) (v : Word) : (t.putM r v).sr = t.sr := by
  unfold Tile.putM
  repeat' split
  all_goals rfl
@[simp] theorem Tile.putM_fe (t : Tile) (r : MReg) (v : Word) : (t.putM r v).fe = t.fe := by
  unfold Tile.putM
  repeat' split
  all_goals rfl
@[simp] theorem Tile.putM_spad (t : Tile) (r : MReg) (v : Word) : (t.putM r v).spad = t.spad := by
  unfold Tile.putM
  repeat' split
  all_goals rfl
@[simp] theorem Tile.putM_latent (t : Tile) (r : MReg) (v : Word) : (t.putM r v).latent = t.latent := by
  unfold Tile.putM
  repeat' split
  all_goals rfl
@[simp] theorem Tile.putM_env (t : Tile) (r : MReg) (v : Word) : (t.putM r v).env = t.env := by
  unfold Tile.putM
  repeat' split
  all_goals rfl
@[simp] theorem Tile.putM_envq (t : Tile) (r : MReg) (v : Word) : (t.putM r v).envq = t.envq := by
  unfold Tile.putM
  repeat' split
  all_goals rfl
@[simp] theorem Tile.putM_mx (t : Tile) (r : MReg) (v : Word) : (t.putM r v).mx = t.mx := by
  unfold Tile.putM
  repeat' split
  all_goals rfl
@[simp] theorem Tile.putM_scan (t : Tile) (r : MReg) (v : Word) : (t.putM r v).scan = t.scan := by
  unfold Tile.putM
  repeat' split
  all_goals rfl
@[simp] theorem Tile.putM_cp (t : Tile) (r : MReg) (v : Word) : (t.putM r v).cp = t.cp := by
  unfold Tile.putM
  repeat' split
  all_goals rfl
@[simp] theorem Tile.putM_cpBank (t : Tile) (r : MReg) (v : Word) : (t.putM r v).cpBank = t.cpBank := by
  unfold Tile.putM
  repeat' split
  all_goals rfl
@[simp] theorem Tile.putM_cpBankS (t : Tile) (r : MReg) (v : Word) : (t.putM r v).cpBankS = t.cpBankS := by
  unfold Tile.putM
  repeat' split
  all_goals rfl
@[simp] theorem Tile.putM_copies (t : Tile) (r : MReg) (v : Word) : (t.putM r v).copies = t.copies := by
  unfold Tile.putM
  repeat' split
  all_goals rfl
@[simp] theorem Tile.putM_cpNext (t : Tile) (r : MReg) (v : Word) : (t.putM r v).cpNext = t.cpNext := by
  unfold Tile.putM
  repeat' split
  all_goals rfl
@[simp] theorem Tile.putM_ni (t : Tile) (r : MReg) (v : Word) : (t.putM r v).ni = t.ni := by
  unfold Tile.putM
  repeat' split
  all_goals rfl
@[simp] theorem Tile.putM_tokens (t : Tile) (r : MReg) (v : Word) : (t.putM r v).tokens = t.tokens := by
  unfold Tile.putM
  repeat' split
  all_goals rfl
@[simp] theorem Tile.putM_loads (t : Tile) (r : MReg) (v : Word) : (t.putM r v).loads = t.loads := by
  unfold Tile.putM
  repeat' split
  all_goals rfl
@[simp] theorem Tile.putM_damos (t : Tile) (r : MReg) (v : Word) : (t.putM r v).damos = t.damos := by
  unfold Tile.putM
  repeat' split
  all_goals rfl
@[simp] theorem Tile.putM_task (t : Tile) (r : MReg) (v : Word) : (t.putM r v).task = t.task := by
  unfold Tile.putM
  repeat' split
  all_goals rfl
@[simp] theorem Tile.putM_undo (t : Tile) (r : MReg) (v : Word) : (t.putM r v).undo = t.undo := by
  unfold Tile.putM
  repeat' split
  all_goals rfl
@[simp] theorem Tile.putM_snap (t : Tile) (r : MReg) (v : Word) : (t.putM r v).snap = t.snap := by
  unfold Tile.putM
  repeat' split
  all_goals rfl
@[simp] theorem Tile.putM_tlb (t : Tile) (r : MReg) (v : Word) : (t.putM r v).tlb = t.tlb := by
  unfold Tile.putM
  repeat' split
  all_goals rfl
@[simp] theorem Tile.putM_pair (t : Tile) (r : MReg) (v : Word) : (t.putM r v).pair = t.pair := by
  unfold Tile.putM
  repeat' split
  all_goals rfl
@[simp] theorem Tile.putM_assay (t : Tile) (r : MReg) (v : Word) : (t.putM r v).assay = t.assay := by
  unfold Tile.putM
  repeat' split
  all_goals rfl

@[simp] theorem Tile.putJ_gang (t : Tile) (r : JReg) (v : Word) : (t.putJ r v).gang = t.gang := rfl
@[simp] theorem Tile.putJ_lidx (t : Tile) (r : JReg) (v : Word) : (t.putJ r v).lidx = t.lidx := rfl
@[simp] theorem Tile.putJ_ctl (t : Tile) (r : JReg) (v : Word) : (t.putJ r v).ctl = t.ctl := rfl
@[simp] theorem Tile.putJ_ur (t : Tile) (r : JReg) (v : Word) : (t.putJ r v).ur = t.ur := rfl
@[simp] theorem Tile.putJ_ir (t : Tile) (r : JReg) (v : Word) : (t.putJ r v).ir = t.ir := rfl
@[simp] theorem Tile.putJ_sr (t : Tile) (r : JReg) (v : Word) : (t.putJ r v).sr = t.sr := rfl
@[simp] theorem Tile.putJ_fe (t : Tile) (r : JReg) (v : Word) : (t.putJ r v).fe = t.fe := rfl
@[simp] theorem Tile.putJ_spad (t : Tile) (r : JReg) (v : Word) : (t.putJ r v).spad = t.spad := rfl
@[simp] theorem Tile.putJ_latent (t : Tile) (r : JReg) (v : Word) : (t.putJ r v).latent = t.latent := rfl
@[simp] theorem Tile.putJ_env (t : Tile) (r : JReg) (v : Word) : (t.putJ r v).env = t.env := rfl
@[simp] theorem Tile.putJ_envq (t : Tile) (r : JReg) (v : Word) : (t.putJ r v).envq = t.envq := rfl
@[simp] theorem Tile.putJ_mx (t : Tile) (r : JReg) (v : Word) : (t.putJ r v).mx = t.mx := rfl
@[simp] theorem Tile.putJ_scan (t : Tile) (r : JReg) (v : Word) : (t.putJ r v).scan = t.scan := rfl
@[simp] theorem Tile.putJ_cp (t : Tile) (r : JReg) (v : Word) : (t.putJ r v).cp = t.cp := rfl
@[simp] theorem Tile.putJ_cpBank (t : Tile) (r : JReg) (v : Word) : (t.putJ r v).cpBank = t.cpBank := rfl
@[simp] theorem Tile.putJ_cpBankS (t : Tile) (r : JReg) (v : Word) : (t.putJ r v).cpBankS = t.cpBankS := rfl
@[simp] theorem Tile.putJ_copies (t : Tile) (r : JReg) (v : Word) : (t.putJ r v).copies = t.copies := rfl
@[simp] theorem Tile.putJ_cpNext (t : Tile) (r : JReg) (v : Word) : (t.putJ r v).cpNext = t.cpNext := rfl
@[simp] theorem Tile.putJ_ni (t : Tile) (r : JReg) (v : Word) : (t.putJ r v).ni = t.ni := rfl
@[simp] theorem Tile.putJ_tokens (t : Tile) (r : JReg) (v : Word) : (t.putJ r v).tokens = t.tokens := rfl
@[simp] theorem Tile.putJ_loads (t : Tile) (r : JReg) (v : Word) : (t.putJ r v).loads = t.loads := rfl
@[simp] theorem Tile.putJ_damos (t : Tile) (r : JReg) (v : Word) : (t.putJ r v).damos = t.damos := rfl
@[simp] theorem Tile.putJ_task (t : Tile) (r : JReg) (v : Word) : (t.putJ r v).task = t.task := rfl
@[simp] theorem Tile.putJ_undo (t : Tile) (r : JReg) (v : Word) : (t.putJ r v).undo = t.undo := rfl
@[simp] theorem Tile.putJ_snap (t : Tile) (r : JReg) (v : Word) : (t.putJ r v).snap = t.snap := rfl
@[simp] theorem Tile.putJ_tlb (t : Tile) (r : JReg) (v : Word) : (t.putJ r v).tlb = t.tlb := rfl
@[simp] theorem Tile.putJ_pair (t : Tile) (r : JReg) (v : Word) : (t.putJ r v).pair = t.pair := rfl
@[simp] theorem Tile.putJ_assay (t : Tile) (r : JReg) (v : Word) : (t.putJ r v).assay = t.assay := rfl

@[simp] theorem Tile.popX_gang (t : Tile) (r : XReg) : (t.popX r).2.gang = t.gang := by
  unfold Tile.popX
  repeat' split
  all_goals rfl
@[simp] theorem Tile.popX_lidx (t : Tile) (r : XReg) : (t.popX r).2.lidx = t.lidx := by
  unfold Tile.popX
  repeat' split
  all_goals rfl
@[simp] theorem Tile.popX_ctl (t : Tile) (r : XReg) : (t.popX r).2.ctl = t.ctl := by
  unfold Tile.popX
  repeat' split
  all_goals rfl
@[simp] theorem Tile.popX_ur (t : Tile) (r : XReg) : (t.popX r).2.ur = t.ur := by
  unfold Tile.popX
  repeat' split
  all_goals rfl
@[simp] theorem Tile.popX_ir (t : Tile) (r : XReg) : (t.popX r).2.ir = t.ir := by
  unfold Tile.popX
  repeat' split
  all_goals rfl
@[simp] theorem Tile.popX_sr (t : Tile) (r : XReg) : (t.popX r).2.sr = t.sr := by
  unfold Tile.popX
  repeat' split
  all_goals rfl
@[simp] theorem Tile.popX_fe_pc (t : Tile) (r : XReg) : (t.popX r).2.fe.pc = t.fe.pc := by
  unfold Tile.popX
  repeat' split
  all_goals rfl
@[simp] theorem Tile.popX_fe_ipc (t : Tile) (r : XReg) : (t.popX r).2.fe.ipc = t.fe.ipc := by
  unfold Tile.popX
  repeat' split
  all_goals rfl
@[simp] theorem Tile.popX_fe_seq (t : Tile) (r : XReg) : (t.popX r).2.fe.seq = t.fe.seq := by
  unfold Tile.popX
  repeat' split
  all_goals rfl
@[simp] theorem Tile.popX_fe_iseq (t : Tile) (r : XReg) : (t.popX r).2.fe.iseq = t.fe.iseq := by
  unfold Tile.popX
  repeat' split
  all_goals rfl
@[simp] theorem Tile.popX_fe_flow (t : Tile) (r : XReg) : (t.popX r).2.fe.flow = t.fe.flow := by
  unfold Tile.popX
  repeat' split
  all_goals rfl
@[simp] theorem Tile.popX_fe_loops (t : Tile) (r : XReg) : (t.popX r).2.fe.loops = t.fe.loops := by
  unfold Tile.popX
  repeat' split
  all_goals rfl
@[simp] theorem Tile.popX_fe_aq (t : Tile) (r : XReg) : (t.popX r).2.fe.aq = t.fe.aq := by
  unfold Tile.popX
  repeat' split
  all_goals rfl
@[simp] theorem Tile.popX_fe_xq (t : Tile) (r : XReg) : (t.popX r).2.fe.xq = t.fe.xq := by
  unfold Tile.popX
  repeat' split
  all_goals rfl
@[simp] theorem Tile.popX_fe_late (t : Tile) (r : XReg) : (t.popX r).2.fe.late = t.fe.late := by
  unfold Tile.popX
  repeat' split
  all_goals rfl
theorem Tile.popX_fe (t : Tile) (r : XReg) (h : t.keptVals = []) : (t.popX r).2.fe = t.fe := by
  unfold Tile.popX
  rw [h]
  simp only []
  repeat' split
  all_goals rfl
@[simp] theorem Tile.popX_spad (t : Tile) (r : XReg) : (t.popX r).2.spad = t.spad := by
  unfold Tile.popX
  repeat' split
  all_goals rfl
@[simp] theorem Tile.popX_latent (t : Tile) (r : XReg) : (t.popX r).2.latent = t.latent := by
  unfold Tile.popX
  repeat' split
  all_goals rfl
@[simp] theorem Tile.popX_env (t : Tile) (r : XReg) : (t.popX r).2.env = t.env := by
  unfold Tile.popX
  repeat' split
  all_goals rfl
@[simp] theorem Tile.popX_envq (t : Tile) (r : XReg) : (t.popX r).2.envq = t.envq := by
  unfold Tile.popX
  repeat' split
  all_goals rfl
@[simp] theorem Tile.popX_mx (t : Tile) (r : XReg) : (t.popX r).2.mx = t.mx := by
  unfold Tile.popX
  repeat' split
  all_goals rfl
@[simp] theorem Tile.popX_scan (t : Tile) (r : XReg) : (t.popX r).2.scan = t.scan := by
  unfold Tile.popX
  repeat' split
  all_goals rfl
@[simp] theorem Tile.popX_cp (t : Tile) (r : XReg) : (t.popX r).2.cp = t.cp := by
  unfold Tile.popX
  repeat' split
  all_goals rfl
@[simp] theorem Tile.popX_cpBank (t : Tile) (r : XReg) : (t.popX r).2.cpBank = t.cpBank := by
  unfold Tile.popX
  repeat' split
  all_goals rfl
@[simp] theorem Tile.popX_cpBankS (t : Tile) (r : XReg) : (t.popX r).2.cpBankS = t.cpBankS := by
  unfold Tile.popX
  repeat' split
  all_goals rfl
@[simp] theorem Tile.popX_copies (t : Tile) (r : XReg) : (t.popX r).2.copies = t.copies := by
  unfold Tile.popX
  repeat' split
  all_goals rfl
@[simp] theorem Tile.popX_cpNext (t : Tile) (r : XReg) : (t.popX r).2.cpNext = t.cpNext := by
  unfold Tile.popX
  repeat' split
  all_goals rfl
@[simp] theorem Tile.popX_ni (t : Tile) (r : XReg) : (t.popX r).2.ni = t.ni := by
  unfold Tile.popX
  repeat' split
  all_goals rfl
@[simp] theorem Tile.popX_tokens (t : Tile) (r : XReg) : (t.popX r).2.tokens = t.tokens := by
  unfold Tile.popX
  repeat' split
  all_goals rfl
@[simp] theorem Tile.popX_loads (t : Tile) (r : XReg) : (t.popX r).2.loads = t.loads := by
  unfold Tile.popX
  repeat' split
  all_goals rfl
@[simp] theorem Tile.popX_damos (t : Tile) (r : XReg) : (t.popX r).2.damos = t.damos := by
  unfold Tile.popX
  repeat' split
  all_goals rfl
@[simp] theorem Tile.popX_task (t : Tile) (r : XReg) : (t.popX r).2.task = t.task := by
  unfold Tile.popX
  repeat' split
  all_goals rfl
@[simp] theorem Tile.popX_undo (t : Tile) (r : XReg) : (t.popX r).2.undo = t.undo := by
  unfold Tile.popX
  repeat' split
  all_goals rfl
@[simp] theorem Tile.popX_snap (t : Tile) (r : XReg) : (t.popX r).2.snap = t.snap := by
  unfold Tile.popX
  repeat' split
  all_goals rfl
@[simp] theorem Tile.popX_tlb (t : Tile) (r : XReg) : (t.popX r).2.tlb = t.tlb := by
  unfold Tile.popX
  repeat' split
  all_goals rfl
@[simp] theorem Tile.popX_pair (t : Tile) (r : XReg) : (t.popX r).2.pair = t.pair := by
  unfold Tile.popX
  repeat' split
  all_goals rfl
@[simp] theorem Tile.popX_assay (t : Tile) (r : XReg) : (t.popX r).2.assay = t.assay := by
  unfold Tile.popX
  repeat' split
  all_goals rfl

@[simp] theorem Tile.popY_gang (t : Tile) (r : YReg) : (t.popY r).2.gang = t.gang := by
  unfold Tile.popY
  repeat' split
  all_goals rfl
@[simp] theorem Tile.popY_lidx (t : Tile) (r : YReg) : (t.popY r).2.lidx = t.lidx := by
  unfold Tile.popY
  repeat' split
  all_goals rfl
@[simp] theorem Tile.popY_ctl (t : Tile) (r : YReg) : (t.popY r).2.ctl = t.ctl := by
  unfold Tile.popY
  repeat' split
  all_goals rfl
@[simp] theorem Tile.popY_ur (t : Tile) (r : YReg) : (t.popY r).2.ur = t.ur := by
  unfold Tile.popY
  repeat' split
  all_goals rfl
@[simp] theorem Tile.popY_ir (t : Tile) (r : YReg) : (t.popY r).2.ir = t.ir := by
  unfold Tile.popY
  repeat' split
  all_goals rfl
@[simp] theorem Tile.popY_sr (t : Tile) (r : YReg) : (t.popY r).2.sr = t.sr := by
  unfold Tile.popY
  repeat' split
  all_goals rfl
@[simp] theorem Tile.popY_fe_pc (t : Tile) (r : YReg) : (t.popY r).2.fe.pc = t.fe.pc := by
  unfold Tile.popY
  repeat' split
  all_goals rfl
@[simp] theorem Tile.popY_fe_ipc (t : Tile) (r : YReg) : (t.popY r).2.fe.ipc = t.fe.ipc := by
  unfold Tile.popY
  repeat' split
  all_goals rfl
@[simp] theorem Tile.popY_fe_seq (t : Tile) (r : YReg) : (t.popY r).2.fe.seq = t.fe.seq := by
  unfold Tile.popY
  repeat' split
  all_goals rfl
@[simp] theorem Tile.popY_fe_iseq (t : Tile) (r : YReg) : (t.popY r).2.fe.iseq = t.fe.iseq := by
  unfold Tile.popY
  repeat' split
  all_goals rfl
@[simp] theorem Tile.popY_fe_flow (t : Tile) (r : YReg) : (t.popY r).2.fe.flow = t.fe.flow := by
  unfold Tile.popY
  repeat' split
  all_goals rfl
@[simp] theorem Tile.popY_fe_loops (t : Tile) (r : YReg) : (t.popY r).2.fe.loops = t.fe.loops := by
  unfold Tile.popY
  repeat' split
  all_goals rfl
@[simp] theorem Tile.popY_fe_aq (t : Tile) (r : YReg) : (t.popY r).2.fe.aq = t.fe.aq := by
  unfold Tile.popY
  repeat' split
  all_goals rfl
@[simp] theorem Tile.popY_fe_xq (t : Tile) (r : YReg) : (t.popY r).2.fe.xq = t.fe.xq := by
  unfold Tile.popY
  repeat' split
  all_goals rfl
@[simp] theorem Tile.popY_fe_late (t : Tile) (r : YReg) : (t.popY r).2.fe.late = t.fe.late := by
  unfold Tile.popY
  repeat' split
  all_goals rfl
theorem Tile.popY_fe (t : Tile) (r : YReg) (h : t.keptVals = []) : (t.popY r).2.fe = t.fe := by
  unfold Tile.popY
  rw [h]
  simp only []
  repeat' split
  all_goals rfl
@[simp] theorem Tile.popY_spad (t : Tile) (r : YReg) : (t.popY r).2.spad = t.spad := by
  unfold Tile.popY
  repeat' split
  all_goals rfl
@[simp] theorem Tile.popY_latent (t : Tile) (r : YReg) : (t.popY r).2.latent = t.latent := by
  unfold Tile.popY
  repeat' split
  all_goals rfl
@[simp] theorem Tile.popY_env (t : Tile) (r : YReg) : (t.popY r).2.env = t.env := by
  unfold Tile.popY
  repeat' split
  all_goals rfl
@[simp] theorem Tile.popY_envq (t : Tile) (r : YReg) : (t.popY r).2.envq = t.envq := by
  unfold Tile.popY
  repeat' split
  all_goals rfl
@[simp] theorem Tile.popY_mx (t : Tile) (r : YReg) : (t.popY r).2.mx = t.mx := by
  unfold Tile.popY
  repeat' split
  all_goals rfl
@[simp] theorem Tile.popY_scan (t : Tile) (r : YReg) : (t.popY r).2.scan = t.scan := by
  unfold Tile.popY
  repeat' split
  all_goals rfl
@[simp] theorem Tile.popY_cp (t : Tile) (r : YReg) : (t.popY r).2.cp = t.cp := by
  unfold Tile.popY
  repeat' split
  all_goals rfl
@[simp] theorem Tile.popY_cpBank (t : Tile) (r : YReg) : (t.popY r).2.cpBank = t.cpBank := by
  unfold Tile.popY
  repeat' split
  all_goals rfl
@[simp] theorem Tile.popY_cpBankS (t : Tile) (r : YReg) : (t.popY r).2.cpBankS = t.cpBankS := by
  unfold Tile.popY
  repeat' split
  all_goals rfl
@[simp] theorem Tile.popY_copies (t : Tile) (r : YReg) : (t.popY r).2.copies = t.copies := by
  unfold Tile.popY
  repeat' split
  all_goals rfl
@[simp] theorem Tile.popY_cpNext (t : Tile) (r : YReg) : (t.popY r).2.cpNext = t.cpNext := by
  unfold Tile.popY
  repeat' split
  all_goals rfl
@[simp] theorem Tile.popY_ni (t : Tile) (r : YReg) : (t.popY r).2.ni = t.ni := by
  unfold Tile.popY
  repeat' split
  all_goals rfl
@[simp] theorem Tile.popY_tokens (t : Tile) (r : YReg) : (t.popY r).2.tokens = t.tokens := by
  unfold Tile.popY
  repeat' split
  all_goals rfl
@[simp] theorem Tile.popY_loads (t : Tile) (r : YReg) : (t.popY r).2.loads = t.loads := by
  unfold Tile.popY
  repeat' split
  all_goals rfl
@[simp] theorem Tile.popY_damos (t : Tile) (r : YReg) : (t.popY r).2.damos = t.damos := by
  unfold Tile.popY
  repeat' split
  all_goals rfl
@[simp] theorem Tile.popY_task (t : Tile) (r : YReg) : (t.popY r).2.task = t.task := by
  unfold Tile.popY
  repeat' split
  all_goals rfl
@[simp] theorem Tile.popY_undo (t : Tile) (r : YReg) : (t.popY r).2.undo = t.undo := by
  unfold Tile.popY
  repeat' split
  all_goals rfl
@[simp] theorem Tile.popY_snap (t : Tile) (r : YReg) : (t.popY r).2.snap = t.snap := by
  unfold Tile.popY
  repeat' split
  all_goals rfl
@[simp] theorem Tile.popY_tlb (t : Tile) (r : YReg) : (t.popY r).2.tlb = t.tlb := by
  unfold Tile.popY
  repeat' split
  all_goals rfl
@[simp] theorem Tile.popY_pair (t : Tile) (r : YReg) : (t.popY r).2.pair = t.pair := by
  unfold Tile.popY
  repeat' split
  all_goals rfl
@[simp] theorem Tile.popY_assay (t : Tile) (r : YReg) : (t.popY r).2.assay = t.assay := by
  unfold Tile.popY
  repeat' split
  all_goals rfl

@[simp] theorem Tile.flags_gang (t : Tile) (f : Fl) : (t.flags f).gang = t.gang := rfl
@[simp] theorem Tile.flags_lidx (t : Tile) (f : Fl) : (t.flags f).lidx = t.lidx := rfl
@[simp] theorem Tile.flags_ctl (t : Tile) (f : Fl) : (t.flags f).ctl = t.ctl := rfl
@[simp] theorem Tile.flags_regs (t : Tile) (f : Fl) : (t.flags f).regs = t.regs := rfl
@[simp] theorem Tile.flags_ir (t : Tile) (f : Fl) : (t.flags f).ir = t.ir := rfl
@[simp] theorem Tile.flags_sr (t : Tile) (f : Fl) : (t.flags f).sr = t.sr := rfl
@[simp] theorem Tile.flags_fe (t : Tile) (f : Fl) : (t.flags f).fe = t.fe := rfl
@[simp] theorem Tile.flags_spad (t : Tile) (f : Fl) : (t.flags f).spad = t.spad := rfl
@[simp] theorem Tile.flags_latent (t : Tile) (f : Fl) : (t.flags f).latent = t.latent := rfl
@[simp] theorem Tile.flags_env (t : Tile) (f : Fl) : (t.flags f).env = t.env := rfl
@[simp] theorem Tile.flags_envq (t : Tile) (f : Fl) : (t.flags f).envq = t.envq := rfl
@[simp] theorem Tile.flags_mx (t : Tile) (f : Fl) : (t.flags f).mx = t.mx := rfl
@[simp] theorem Tile.flags_scan (t : Tile) (f : Fl) : (t.flags f).scan = t.scan := rfl
@[simp] theorem Tile.flags_cp (t : Tile) (f : Fl) : (t.flags f).cp = t.cp := rfl
@[simp] theorem Tile.flags_cpBank (t : Tile) (f : Fl) : (t.flags f).cpBank = t.cpBank := rfl
@[simp] theorem Tile.flags_cpBankS (t : Tile) (f : Fl) : (t.flags f).cpBankS = t.cpBankS := rfl
@[simp] theorem Tile.flags_copies (t : Tile) (f : Fl) : (t.flags f).copies = t.copies := rfl
@[simp] theorem Tile.flags_cpNext (t : Tile) (f : Fl) : (t.flags f).cpNext = t.cpNext := rfl
@[simp] theorem Tile.flags_ni (t : Tile) (f : Fl) : (t.flags f).ni = t.ni := rfl
@[simp] theorem Tile.flags_tokens (t : Tile) (f : Fl) : (t.flags f).tokens = t.tokens := rfl
@[simp] theorem Tile.flags_loads (t : Tile) (f : Fl) : (t.flags f).loads = t.loads := rfl
@[simp] theorem Tile.flags_damos (t : Tile) (f : Fl) : (t.flags f).damos = t.damos := rfl
@[simp] theorem Tile.flags_task (t : Tile) (f : Fl) : (t.flags f).task = t.task := rfl
@[simp] theorem Tile.flags_undo (t : Tile) (f : Fl) : (t.flags f).undo = t.undo := rfl
@[simp] theorem Tile.flags_snap (t : Tile) (f : Fl) : (t.flags f).snap = t.snap := rfl
@[simp] theorem Tile.flags_tlb (t : Tile) (f : Fl) : (t.flags f).tlb = t.tlb := rfl
@[simp] theorem Tile.flags_pair (t : Tile) (f : Fl) : (t.flags f).pair = t.pair := rfl
@[simp] theorem Tile.flags_assay (t : Tile) (f : Fl) : (t.flags f).assay = t.assay := rfl

@[simp] theorem Tile.flow_gang (t : Tile) (f : Flow) : (t.flow f).gang = t.gang := rfl
@[simp] theorem Tile.flow_lidx (t : Tile) (f : Flow) : (t.flow f).lidx = t.lidx := rfl
@[simp] theorem Tile.flow_ctl (t : Tile) (f : Flow) : (t.flow f).ctl = t.ctl := rfl
@[simp] theorem Tile.flow_regs (t : Tile) (f : Flow) : (t.flow f).regs = t.regs := rfl
@[simp] theorem Tile.flow_ur (t : Tile) (f : Flow) : (t.flow f).ur = t.ur := rfl
@[simp] theorem Tile.flow_ir (t : Tile) (f : Flow) : (t.flow f).ir = t.ir := rfl
@[simp] theorem Tile.flow_sr (t : Tile) (f : Flow) : (t.flow f).sr = t.sr := rfl
@[simp] theorem Tile.flow_spad (t : Tile) (f : Flow) : (t.flow f).spad = t.spad := rfl
@[simp] theorem Tile.flow_latent (t : Tile) (f : Flow) : (t.flow f).latent = t.latent := rfl
@[simp] theorem Tile.flow_env (t : Tile) (f : Flow) : (t.flow f).env = t.env := rfl
@[simp] theorem Tile.flow_envq (t : Tile) (f : Flow) : (t.flow f).envq = t.envq := rfl
@[simp] theorem Tile.flow_mx (t : Tile) (f : Flow) : (t.flow f).mx = t.mx := rfl
@[simp] theorem Tile.flow_scan (t : Tile) (f : Flow) : (t.flow f).scan = t.scan := rfl
@[simp] theorem Tile.flow_cp (t : Tile) (f : Flow) : (t.flow f).cp = t.cp := rfl
@[simp] theorem Tile.flow_cpBank (t : Tile) (f : Flow) : (t.flow f).cpBank = t.cpBank := rfl
@[simp] theorem Tile.flow_cpBankS (t : Tile) (f : Flow) : (t.flow f).cpBankS = t.cpBankS := rfl
@[simp] theorem Tile.flow_copies (t : Tile) (f : Flow) : (t.flow f).copies = t.copies := rfl
@[simp] theorem Tile.flow_cpNext (t : Tile) (f : Flow) : (t.flow f).cpNext = t.cpNext := rfl
@[simp] theorem Tile.flow_ni (t : Tile) (f : Flow) : (t.flow f).ni = t.ni := rfl
@[simp] theorem Tile.flow_tokens (t : Tile) (f : Flow) : (t.flow f).tokens = t.tokens := rfl
@[simp] theorem Tile.flow_loads (t : Tile) (f : Flow) : (t.flow f).loads = t.loads := rfl
@[simp] theorem Tile.flow_damos (t : Tile) (f : Flow) : (t.flow f).damos = t.damos := rfl
@[simp] theorem Tile.flow_task (t : Tile) (f : Flow) : (t.flow f).task = t.task := rfl
@[simp] theorem Tile.flow_undo (t : Tile) (f : Flow) : (t.flow f).undo = t.undo := rfl
@[simp] theorem Tile.flow_snap (t : Tile) (f : Flow) : (t.flow f).snap = t.snap := rfl
@[simp] theorem Tile.flow_tlb (t : Tile) (f : Flow) : (t.flow f).tlb = t.tlb := rfl
@[simp] theorem Tile.flow_pair (t : Tile) (f : Flow) : (t.flow f).pair = t.pair := rfl
@[simp] theorem Tile.flow_assay (t : Tile) (f : Flow) : (t.flow f).assay = t.assay := rfl

@[simp] theorem Tile.hold_gang (t : Tile)  : t.hold.gang = t.gang := rfl
@[simp] theorem Tile.hold_lidx (t : Tile)  : t.hold.lidx = t.lidx := rfl
@[simp] theorem Tile.hold_ctl (t : Tile)  : t.hold.ctl = t.ctl := rfl
@[simp] theorem Tile.hold_regs (t : Tile)  : t.hold.regs = t.regs := rfl
@[simp] theorem Tile.hold_ur (t : Tile)  : t.hold.ur = t.ur := rfl
@[simp] theorem Tile.hold_ir (t : Tile)  : t.hold.ir = t.ir := rfl
@[simp] theorem Tile.hold_sr (t : Tile)  : t.hold.sr = t.sr := rfl
@[simp] theorem Tile.hold_spad (t : Tile)  : t.hold.spad = t.spad := rfl
@[simp] theorem Tile.hold_latent (t : Tile)  : t.hold.latent = t.latent := rfl
@[simp] theorem Tile.hold_env (t : Tile)  : t.hold.env = t.env := rfl
@[simp] theorem Tile.hold_envq (t : Tile)  : t.hold.envq = t.envq := rfl
@[simp] theorem Tile.hold_mx (t : Tile)  : t.hold.mx = t.mx := rfl
@[simp] theorem Tile.hold_scan (t : Tile)  : t.hold.scan = t.scan := rfl
@[simp] theorem Tile.hold_cp (t : Tile)  : t.hold.cp = t.cp := rfl
@[simp] theorem Tile.hold_cpBank (t : Tile)  : t.hold.cpBank = t.cpBank := rfl
@[simp] theorem Tile.hold_cpBankS (t : Tile)  : t.hold.cpBankS = t.cpBankS := rfl
@[simp] theorem Tile.hold_copies (t : Tile)  : t.hold.copies = t.copies := rfl
@[simp] theorem Tile.hold_cpNext (t : Tile)  : t.hold.cpNext = t.cpNext := rfl
@[simp] theorem Tile.hold_ni (t : Tile)  : t.hold.ni = t.ni := rfl
@[simp] theorem Tile.hold_tokens (t : Tile)  : t.hold.tokens = t.tokens := rfl
@[simp] theorem Tile.hold_loads (t : Tile)  : t.hold.loads = t.loads := rfl
@[simp] theorem Tile.hold_damos (t : Tile)  : t.hold.damos = t.damos := rfl
@[simp] theorem Tile.hold_task (t : Tile)  : t.hold.task = t.task := rfl
@[simp] theorem Tile.hold_undo (t : Tile)  : t.hold.undo = t.undo := rfl
@[simp] theorem Tile.hold_snap (t : Tile)  : t.hold.snap = t.snap := rfl
@[simp] theorem Tile.hold_tlb (t : Tile)  : t.hold.tlb = t.tlb := rfl
@[simp] theorem Tile.hold_pair (t : Tile)  : t.hold.pair = t.pair := rfl
@[simp] theorem Tile.hold_assay (t : Tile)  : t.hold.assay = t.assay := rfl

@[simp] theorem Tile.jump_gang (t : Tile) (a : Word) : (t.jump a).gang = t.gang := rfl
@[simp] theorem Tile.jump_lidx (t : Tile) (a : Word) : (t.jump a).lidx = t.lidx := rfl
@[simp] theorem Tile.jump_ctl (t : Tile) (a : Word) : (t.jump a).ctl = t.ctl := rfl
@[simp] theorem Tile.jump_ur (t : Tile) (a : Word) : (t.jump a).ur = t.ur := rfl
@[simp] theorem Tile.jump_ir (t : Tile) (a : Word) : (t.jump a).ir = t.ir := rfl
@[simp] theorem Tile.jump_sr (t : Tile) (a : Word) : (t.jump a).sr = t.sr := rfl
@[simp] theorem Tile.jump_spad (t : Tile) (a : Word) : (t.jump a).spad = t.spad := rfl
@[simp] theorem Tile.jump_latent (t : Tile) (a : Word) : (t.jump a).latent = t.latent := rfl
@[simp] theorem Tile.jump_env (t : Tile) (a : Word) : (t.jump a).env = t.env := rfl
@[simp] theorem Tile.jump_envq (t : Tile) (a : Word) : (t.jump a).envq = t.envq := rfl
@[simp] theorem Tile.jump_mx (t : Tile) (a : Word) : (t.jump a).mx = t.mx := rfl
@[simp] theorem Tile.jump_scan (t : Tile) (a : Word) : (t.jump a).scan = t.scan := rfl
@[simp] theorem Tile.jump_cp (t : Tile) (a : Word) : (t.jump a).cp = t.cp := rfl
@[simp] theorem Tile.jump_cpBank (t : Tile) (a : Word) : (t.jump a).cpBank = t.cpBank := rfl
@[simp] theorem Tile.jump_cpBankS (t : Tile) (a : Word) : (t.jump a).cpBankS = t.cpBankS := rfl
@[simp] theorem Tile.jump_copies (t : Tile) (a : Word) : (t.jump a).copies = t.copies := rfl
@[simp] theorem Tile.jump_cpNext (t : Tile) (a : Word) : (t.jump a).cpNext = t.cpNext := rfl
@[simp] theorem Tile.jump_ni (t : Tile) (a : Word) : (t.jump a).ni = t.ni := rfl
@[simp] theorem Tile.jump_tokens (t : Tile) (a : Word) : (t.jump a).tokens = t.tokens := rfl
@[simp] theorem Tile.jump_loads (t : Tile) (a : Word) : (t.jump a).loads = t.loads := rfl
@[simp] theorem Tile.jump_damos (t : Tile) (a : Word) : (t.jump a).damos = t.damos := rfl
@[simp] theorem Tile.jump_task (t : Tile) (a : Word) : (t.jump a).task = t.task := rfl
@[simp] theorem Tile.jump_undo (t : Tile) (a : Word) : (t.jump a).undo = t.undo := rfl
@[simp] theorem Tile.jump_snap (t : Tile) (a : Word) : (t.jump a).snap = t.snap := rfl
@[simp] theorem Tile.jump_tlb (t : Tile) (a : Word) : (t.jump a).tlb = t.tlb := rfl
@[simp] theorem Tile.jump_pair (t : Tile) (a : Word) : (t.jump a).pair = t.pair := rfl
@[simp] theorem Tile.jump_assay (t : Tile) (a : Word) : (t.jump a).assay = t.assay := rfl

@[simp] theorem Tile.serial_gang (t : Tile)  : t.serial.2.gang = t.gang := rfl
@[simp] theorem Tile.serial_lidx (t : Tile)  : t.serial.2.lidx = t.lidx := rfl
@[simp] theorem Tile.serial_regs (t : Tile)  : t.serial.2.regs = t.regs := rfl
@[simp] theorem Tile.serial_ur (t : Tile)  : t.serial.2.ur = t.ur := rfl
@[simp] theorem Tile.serial_ir (t : Tile)  : t.serial.2.ir = t.ir := rfl
@[simp] theorem Tile.serial_sr (t : Tile)  : t.serial.2.sr = t.sr := rfl
@[simp] theorem Tile.serial_fe (t : Tile)  : t.serial.2.fe = t.fe := rfl
@[simp] theorem Tile.serial_spad (t : Tile)  : t.serial.2.spad = t.spad := rfl
@[simp] theorem Tile.serial_latent (t : Tile)  : t.serial.2.latent = t.latent := rfl
@[simp] theorem Tile.serial_env (t : Tile)  : t.serial.2.env = t.env := rfl
@[simp] theorem Tile.serial_envq (t : Tile)  : t.serial.2.envq = t.envq := rfl
@[simp] theorem Tile.serial_mx (t : Tile)  : t.serial.2.mx = t.mx := rfl
@[simp] theorem Tile.serial_scan (t : Tile)  : t.serial.2.scan = t.scan := rfl
@[simp] theorem Tile.serial_cp (t : Tile)  : t.serial.2.cp = t.cp := rfl
@[simp] theorem Tile.serial_cpBank (t : Tile)  : t.serial.2.cpBank = t.cpBank := rfl
@[simp] theorem Tile.serial_cpBankS (t : Tile)  : t.serial.2.cpBankS = t.cpBankS := rfl
@[simp] theorem Tile.serial_copies (t : Tile)  : t.serial.2.copies = t.copies := rfl
@[simp] theorem Tile.serial_cpNext (t : Tile)  : t.serial.2.cpNext = t.cpNext := rfl
@[simp] theorem Tile.serial_ni (t : Tile)  : t.serial.2.ni = t.ni := rfl
@[simp] theorem Tile.serial_tokens (t : Tile)  : t.serial.2.tokens = t.tokens := rfl
@[simp] theorem Tile.serial_loads (t : Tile)  : t.serial.2.loads = t.loads := rfl
@[simp] theorem Tile.serial_damos (t : Tile)  : t.serial.2.damos = t.damos := rfl
@[simp] theorem Tile.serial_task (t : Tile)  : t.serial.2.task = t.task := rfl
@[simp] theorem Tile.serial_undo (t : Tile)  : t.serial.2.undo = t.undo := rfl
@[simp] theorem Tile.serial_snap (t : Tile)  : t.serial.2.snap = t.snap := rfl
@[simp] theorem Tile.serial_tlb (t : Tile)  : t.serial.2.tlb = t.tlb := rfl
@[simp] theorem Tile.serial_pair (t : Tile)  : t.serial.2.pair = t.pair := rfl
@[simp] theorem Tile.serial_assay (t : Tile)  : t.serial.2.assay = t.assay := rfl

@[simp] theorem Tile.putX_regs_y (t : Tile) (r : XReg) (v : Word) : (t.putX r v).regs.y = t.regs.y := by
  unfold Tile.putX
  repeat' split
  all_goals rfl
@[simp] theorem Tile.putX_regs_v (t : Tile) (r : XReg) (v : Word) : (t.putX r v).regs.v = t.regs.v := by
  unfold Tile.putX
  repeat' split
  all_goals rfl
@[simp] theorem Tile.putX_regs_m (t : Tile) (r : XReg) (v : Word) : (t.putX r v).regs.m = t.regs.m := by
  unfold Tile.putX
  repeat' split
  all_goals rfl
@[simp] theorem Tile.putX_regs_j (t : Tile) (r : XReg) (v : Word) : (t.putX r v).regs.j = t.regs.j := by
  unfold Tile.putX
  repeat' split
  all_goals rfl
@[simp] theorem Tile.putX_regs_loop (t : Tile) (r : XReg) (v : Word) : (t.putX r v).regs.loop = t.regs.loop := by
  unfold Tile.putX
  repeat' split
  all_goals rfl
@[simp] theorem Tile.putX_regs_qxa0 (t : Tile) (r : XReg) (v : Word) : (t.putX r v).regs.qxa0 = t.regs.qxa0 := by
  unfold Tile.putX
  repeat' split
  all_goals rfl
@[simp] theorem Tile.putX_regs_qxa1 (t : Tile) (r : XReg) (v : Word) : (t.putX r v).regs.qxa1 = t.regs.qxa1 := by
  unfold Tile.putX
  repeat' split
  all_goals rfl

@[simp] theorem Tile.putY_regs_x (t : Tile) (r : YReg) (v : Word) : (t.putY r v).regs.x = t.regs.x := by
  unfold Tile.putY
  repeat' split
  all_goals rfl
@[simp] theorem Tile.putY_regs_v (t : Tile) (r : YReg) (v : Word) : (t.putY r v).regs.v = t.regs.v := by
  unfold Tile.putY
  repeat' split
  all_goals rfl
@[simp] theorem Tile.putY_regs_m (t : Tile) (r : YReg) (v : Word) : (t.putY r v).regs.m = t.regs.m := by
  unfold Tile.putY
  repeat' split
  all_goals rfl
@[simp] theorem Tile.putY_regs_j (t : Tile) (r : YReg) (v : Word) : (t.putY r v).regs.j = t.regs.j := by
  unfold Tile.putY
  repeat' split
  all_goals rfl
@[simp] theorem Tile.putY_regs_loop (t : Tile) (r : YReg) (v : Word) : (t.putY r v).regs.loop = t.regs.loop := by
  unfold Tile.putY
  repeat' split
  all_goals rfl
@[simp] theorem Tile.putY_regs_qax0 (t : Tile) (r : YReg) (v : Word) : (t.putY r v).regs.qax0 = t.regs.qax0 := by
  unfold Tile.putY
  repeat' split
  all_goals rfl
@[simp] theorem Tile.putY_regs_qax1 (t : Tile) (r : YReg) (v : Word) : (t.putY r v).regs.qax1 = t.regs.qax1 := by
  unfold Tile.putY
  repeat' split
  all_goals rfl

@[simp] theorem Tile.putV_regs_x (t : Tile) (r : VReg) (v : Vec) : (t.putV r v).regs.x = t.regs.x := rfl
@[simp] theorem Tile.putV_regs_y (t : Tile) (r : VReg) (v : Vec) : (t.putV r v).regs.y = t.regs.y := rfl
@[simp] theorem Tile.putV_regs_m (t : Tile) (r : VReg) (v : Vec) : (t.putV r v).regs.m = t.regs.m := rfl
@[simp] theorem Tile.putV_regs_j (t : Tile) (r : VReg) (v : Vec) : (t.putV r v).regs.j = t.regs.j := rfl
@[simp] theorem Tile.putV_regs_loop (t : Tile) (r : VReg) (v : Vec) : (t.putV r v).regs.loop = t.regs.loop := rfl
@[simp] theorem Tile.putV_regs_qax0 (t : Tile) (r : VReg) (v : Vec) : (t.putV r v).regs.qax0 = t.regs.qax0 := rfl
@[simp] theorem Tile.putV_regs_qax1 (t : Tile) (r : VReg) (v : Vec) : (t.putV r v).regs.qax1 = t.regs.qax1 := rfl
@[simp] theorem Tile.putV_regs_qxa0 (t : Tile) (r : VReg) (v : Vec) : (t.putV r v).regs.qxa0 = t.regs.qxa0 := rfl
@[simp] theorem Tile.putV_regs_qxa1 (t : Tile) (r : VReg) (v : Vec) : (t.putV r v).regs.qxa1 = t.regs.qxa1 := rfl

@[simp] theorem Tile.putM_regs_x (t : Tile) (r : MReg) (v : Word) : (t.putM r v).regs.x = t.regs.x := by
  unfold Tile.putM
  repeat' split
  all_goals rfl
@[simp] theorem Tile.putM_regs_y (t : Tile) (r : MReg) (v : Word) : (t.putM r v).regs.y = t.regs.y := by
  unfold Tile.putM
  repeat' split
  all_goals rfl
@[simp] theorem Tile.putM_regs_v (t : Tile) (r : MReg) (v : Word) : (t.putM r v).regs.v = t.regs.v := by
  unfold Tile.putM
  repeat' split
  all_goals rfl
@[simp] theorem Tile.putM_regs_j (t : Tile) (r : MReg) (v : Word) : (t.putM r v).regs.j = t.regs.j := by
  unfold Tile.putM
  repeat' split
  all_goals rfl
@[simp] theorem Tile.putM_regs_loop (t : Tile) (r : MReg) (v : Word) : (t.putM r v).regs.loop = t.regs.loop := by
  unfold Tile.putM
  repeat' split
  all_goals rfl
@[simp] theorem Tile.putM_regs_qax0 (t : Tile) (r : MReg) (v : Word) : (t.putM r v).regs.qax0 = t.regs.qax0 := by
  unfold Tile.putM
  repeat' split
  all_goals rfl
@[simp] theorem Tile.putM_regs_qax1 (t : Tile) (r : MReg) (v : Word) : (t.putM r v).regs.qax1 = t.regs.qax1 := by
  unfold Tile.putM
  repeat' split
  all_goals rfl
@[simp] theorem Tile.putM_regs_qxa0 (t : Tile) (r : MReg) (v : Word) : (t.putM r v).regs.qxa0 = t.regs.qxa0 := by
  unfold Tile.putM
  repeat' split
  all_goals rfl
@[simp] theorem Tile.putM_regs_qxa1 (t : Tile) (r : MReg) (v : Word) : (t.putM r v).regs.qxa1 = t.regs.qxa1 := by
  unfold Tile.putM
  repeat' split
  all_goals rfl

@[simp] theorem Tile.putJ_regs_x (t : Tile) (r : JReg) (v : Word) : (t.putJ r v).regs.x = t.regs.x := rfl
@[simp] theorem Tile.putJ_regs_y (t : Tile) (r : JReg) (v : Word) : (t.putJ r v).regs.y = t.regs.y := rfl
@[simp] theorem Tile.putJ_regs_v (t : Tile) (r : JReg) (v : Word) : (t.putJ r v).regs.v = t.regs.v := rfl
@[simp] theorem Tile.putJ_regs_m (t : Tile) (r : JReg) (v : Word) : (t.putJ r v).regs.m = t.regs.m := rfl
@[simp] theorem Tile.putJ_regs_loop (t : Tile) (r : JReg) (v : Word) : (t.putJ r v).regs.loop = t.regs.loop := rfl
@[simp] theorem Tile.putJ_regs_qax0 (t : Tile) (r : JReg) (v : Word) : (t.putJ r v).regs.qax0 = t.regs.qax0 := rfl
@[simp] theorem Tile.putJ_regs_qax1 (t : Tile) (r : JReg) (v : Word) : (t.putJ r v).regs.qax1 = t.regs.qax1 := rfl
@[simp] theorem Tile.putJ_regs_qxa0 (t : Tile) (r : JReg) (v : Word) : (t.putJ r v).regs.qxa0 = t.regs.qxa0 := rfl
@[simp] theorem Tile.putJ_regs_qxa1 (t : Tile) (r : JReg) (v : Word) : (t.putJ r v).regs.qxa1 = t.regs.qxa1 := rfl

@[simp] theorem Tile.popX_regs_x (t : Tile) (r : XReg) : (t.popX r).2.regs.x = t.regs.x := by
  unfold Tile.popX
  repeat' split
  all_goals rfl
@[simp] theorem Tile.popX_regs_y (t : Tile) (r : XReg) : (t.popX r).2.regs.y = t.regs.y := by
  unfold Tile.popX
  repeat' split
  all_goals rfl
@[simp] theorem Tile.popX_regs_v (t : Tile) (r : XReg) : (t.popX r).2.regs.v = t.regs.v := by
  unfold Tile.popX
  repeat' split
  all_goals rfl
@[simp] theorem Tile.popX_regs_m (t : Tile) (r : XReg) : (t.popX r).2.regs.m = t.regs.m := by
  unfold Tile.popX
  repeat' split
  all_goals rfl
@[simp] theorem Tile.popX_regs_j (t : Tile) (r : XReg) : (t.popX r).2.regs.j = t.regs.j := by
  unfold Tile.popX
  repeat' split
  all_goals rfl
@[simp] theorem Tile.popX_regs_loop (t : Tile) (r : XReg) : (t.popX r).2.regs.loop = t.regs.loop := by
  unfold Tile.popX
  repeat' split
  all_goals rfl
@[simp] theorem Tile.popX_regs_qax0 (t : Tile) (r : XReg) : (t.popX r).2.regs.qax0 = t.regs.qax0 := by
  unfold Tile.popX
  repeat' split
  all_goals rfl
@[simp] theorem Tile.popX_regs_qax1 (t : Tile) (r : XReg) : (t.popX r).2.regs.qax1 = t.regs.qax1 := by
  unfold Tile.popX
  repeat' split
  all_goals rfl

@[simp] theorem Tile.popY_regs_x (t : Tile) (r : YReg) : (t.popY r).2.regs.x = t.regs.x := by
  unfold Tile.popY
  repeat' split
  all_goals rfl
@[simp] theorem Tile.popY_regs_y (t : Tile) (r : YReg) : (t.popY r).2.regs.y = t.regs.y := by
  unfold Tile.popY
  repeat' split
  all_goals rfl
@[simp] theorem Tile.popY_regs_v (t : Tile) (r : YReg) : (t.popY r).2.regs.v = t.regs.v := by
  unfold Tile.popY
  repeat' split
  all_goals rfl
@[simp] theorem Tile.popY_regs_m (t : Tile) (r : YReg) : (t.popY r).2.regs.m = t.regs.m := by
  unfold Tile.popY
  repeat' split
  all_goals rfl
@[simp] theorem Tile.popY_regs_j (t : Tile) (r : YReg) : (t.popY r).2.regs.j = t.regs.j := by
  unfold Tile.popY
  repeat' split
  all_goals rfl
@[simp] theorem Tile.popY_regs_loop (t : Tile) (r : YReg) : (t.popY r).2.regs.loop = t.regs.loop := by
  unfold Tile.popY
  repeat' split
  all_goals rfl
@[simp] theorem Tile.popY_regs_qxa0 (t : Tile) (r : YReg) : (t.popY r).2.regs.qxa0 = t.regs.qxa0 := by
  unfold Tile.popY
  repeat' split
  all_goals rfl
@[simp] theorem Tile.popY_regs_qxa1 (t : Tile) (r : YReg) : (t.popY r).2.regs.qxa1 = t.regs.qxa1 := by
  unfold Tile.popY
  repeat' split
  all_goals rfl

@[simp] theorem Tile.flags_regs_x (t : Tile) (f : Fl) : (t.flags f).regs.x = t.regs.x := rfl
@[simp] theorem Tile.flags_regs_y (t : Tile) (f : Fl) : (t.flags f).regs.y = t.regs.y := rfl
@[simp] theorem Tile.flags_regs_v (t : Tile) (f : Fl) : (t.flags f).regs.v = t.regs.v := rfl
@[simp] theorem Tile.flags_regs_m (t : Tile) (f : Fl) : (t.flags f).regs.m = t.regs.m := rfl
@[simp] theorem Tile.flags_regs_j (t : Tile) (f : Fl) : (t.flags f).regs.j = t.regs.j := rfl
@[simp] theorem Tile.flags_regs_loop (t : Tile) (f : Fl) : (t.flags f).regs.loop = t.regs.loop := rfl
@[simp] theorem Tile.flags_regs_qax0 (t : Tile) (f : Fl) : (t.flags f).regs.qax0 = t.regs.qax0 := rfl
@[simp] theorem Tile.flags_regs_qax1 (t : Tile) (f : Fl) : (t.flags f).regs.qax1 = t.regs.qax1 := rfl
@[simp] theorem Tile.flags_regs_qxa0 (t : Tile) (f : Fl) : (t.flags f).regs.qxa0 = t.regs.qxa0 := rfl
@[simp] theorem Tile.flags_regs_qxa1 (t : Tile) (f : Fl) : (t.flags f).regs.qxa1 = t.regs.qxa1 := rfl

@[simp] theorem Tile.jump_regs_x (t : Tile) (a : Word) : (t.jump a).regs.x = t.regs.x := rfl
@[simp] theorem Tile.jump_regs_y (t : Tile) (a : Word) : (t.jump a).regs.y = t.regs.y := rfl
@[simp] theorem Tile.jump_regs_v (t : Tile) (a : Word) : (t.jump a).regs.v = t.regs.v := rfl
@[simp] theorem Tile.jump_regs_m (t : Tile) (a : Word) : (t.jump a).regs.m = t.regs.m := rfl
@[simp] theorem Tile.jump_regs_j (t : Tile) (a : Word) : (t.jump a).regs.j = t.regs.j := rfl
@[simp] theorem Tile.jump_regs_qax0 (t : Tile) (a : Word) : (t.jump a).regs.qax0 = t.regs.qax0 := rfl
@[simp] theorem Tile.jump_regs_qax1 (t : Tile) (a : Word) : (t.jump a).regs.qax1 = t.regs.qax1 := rfl
@[simp] theorem Tile.jump_regs_qxa0 (t : Tile) (a : Word) : (t.jump a).regs.qxa0 = t.regs.qxa0 := rfl
@[simp] theorem Tile.jump_regs_qxa1 (t : Tile) (a : Word) : (t.jump a).regs.qxa1 = t.regs.qxa1 := rfl

@[simp] theorem Tile.supersede_gang (t : Tile) (ds : List XReg) : (t.supersede ds).gang = t.gang := by
  unfold Tile.supersede
  split <;> rfl
@[simp] theorem Tile.supersede_lidx (t : Tile) (ds : List XReg) : (t.supersede ds).lidx = t.lidx := by
  unfold Tile.supersede
  split <;> rfl
@[simp] theorem Tile.supersede_regs (t : Tile) (ds : List XReg) : (t.supersede ds).regs = t.regs := by
  unfold Tile.supersede
  split <;> rfl
@[simp] theorem Tile.supersede_ur (t : Tile) (ds : List XReg) : (t.supersede ds).ur = t.ur := by
  unfold Tile.supersede
  split <;> rfl
@[simp] theorem Tile.supersede_ir (t : Tile) (ds : List XReg) : (t.supersede ds).ir = t.ir := by
  unfold Tile.supersede
  split <;> rfl
@[simp] theorem Tile.supersede_sr (t : Tile) (ds : List XReg) : (t.supersede ds).sr = t.sr := by
  unfold Tile.supersede
  split <;> rfl
@[simp] theorem Tile.supersede_fe (t : Tile) (ds : List XReg) : (t.supersede ds).fe = t.fe := by
  unfold Tile.supersede
  split <;> rfl
@[simp] theorem Tile.supersede_spad (t : Tile) (ds : List XReg) : (t.supersede ds).spad = t.spad := by
  unfold Tile.supersede
  split <;> rfl
@[simp] theorem Tile.supersede_latent (t : Tile) (ds : List XReg) : (t.supersede ds).latent = t.latent := by
  unfold Tile.supersede
  split <;> rfl
@[simp] theorem Tile.supersede_env (t : Tile) (ds : List XReg) : (t.supersede ds).env = t.env := by
  unfold Tile.supersede
  split <;> rfl
@[simp] theorem Tile.supersede_envq (t : Tile) (ds : List XReg) : (t.supersede ds).envq = t.envq := by
  unfold Tile.supersede
  split <;> rfl
@[simp] theorem Tile.supersede_mx (t : Tile) (ds : List XReg) : (t.supersede ds).mx = t.mx := by
  unfold Tile.supersede
  split <;> rfl
@[simp] theorem Tile.supersede_scan (t : Tile) (ds : List XReg) : (t.supersede ds).scan = t.scan := by
  unfold Tile.supersede
  split <;> rfl
@[simp] theorem Tile.supersede_cp (t : Tile) (ds : List XReg) : (t.supersede ds).cp = t.cp := by
  unfold Tile.supersede
  split <;> rfl
@[simp] theorem Tile.supersede_cpBank (t : Tile) (ds : List XReg) : (t.supersede ds).cpBank = t.cpBank := by
  unfold Tile.supersede
  split <;> rfl
@[simp] theorem Tile.supersede_cpBankS (t : Tile) (ds : List XReg) : (t.supersede ds).cpBankS = t.cpBankS := by
  unfold Tile.supersede
  split <;> rfl
@[simp] theorem Tile.supersede_copies (t : Tile) (ds : List XReg) : (t.supersede ds).copies = t.copies := by
  unfold Tile.supersede
  split <;> rfl
@[simp] theorem Tile.supersede_cpNext (t : Tile) (ds : List XReg) : (t.supersede ds).cpNext = t.cpNext := by
  unfold Tile.supersede
  split <;> rfl
@[simp] theorem Tile.supersede_ni (t : Tile) (ds : List XReg) : (t.supersede ds).ni = t.ni := by
  unfold Tile.supersede
  split <;> rfl
@[simp] theorem Tile.supersede_tokens (t : Tile) (ds : List XReg) : (t.supersede ds).tokens = t.tokens := by
  unfold Tile.supersede
  split <;> rfl
@[simp] theorem Tile.supersede_damos (t : Tile) (ds : List XReg) : (t.supersede ds).damos = t.damos := by
  unfold Tile.supersede
  split <;> rfl
@[simp] theorem Tile.supersede_task (t : Tile) (ds : List XReg) : (t.supersede ds).task = t.task := by
  unfold Tile.supersede
  split <;> rfl
@[simp] theorem Tile.supersede_undo (t : Tile) (ds : List XReg) : (t.supersede ds).undo = t.undo := by
  unfold Tile.supersede
  split <;> rfl
@[simp] theorem Tile.supersede_snap (t : Tile) (ds : List XReg) : (t.supersede ds).snap = t.snap := by
  unfold Tile.supersede
  split <;> rfl
@[simp] theorem Tile.supersede_tlb (t : Tile) (ds : List XReg) : (t.supersede ds).tlb = t.tlb := by
  unfold Tile.supersede
  split <;> rfl
@[simp] theorem Tile.supersede_pair (t : Tile) (ds : List XReg) : (t.supersede ds).pair = t.pair := by
  unfold Tile.supersede
  split <;> rfl
@[simp] theorem Tile.supersede_assay (t : Tile) (ds : List XReg) : (t.supersede ds).assay = t.assay := by
  unfold Tile.supersede
  split <;> rfl
@[simp] theorem Tile.keep_gang (t : Tile) (vs : List Word) : (t.keep vs).gang = t.gang := by
  unfold Tile.keep
  split <;> rfl
@[simp] theorem Tile.keep_lidx (t : Tile) (vs : List Word) : (t.keep vs).lidx = t.lidx := by
  unfold Tile.keep
  split <;> rfl
@[simp] theorem Tile.keep_ctl (t : Tile) (vs : List Word) : (t.keep vs).ctl = t.ctl := by
  unfold Tile.keep
  split <;> rfl
@[simp] theorem Tile.keep_regs (t : Tile) (vs : List Word) : (t.keep vs).regs = t.regs := by
  unfold Tile.keep
  split <;> rfl
@[simp] theorem Tile.keep_ur (t : Tile) (vs : List Word) : (t.keep vs).ur = t.ur := by
  unfold Tile.keep
  split <;> rfl
@[simp] theorem Tile.keep_ir (t : Tile) (vs : List Word) : (t.keep vs).ir = t.ir := by
  unfold Tile.keep
  split <;> rfl
@[simp] theorem Tile.keep_sr (t : Tile) (vs : List Word) : (t.keep vs).sr = t.sr := by
  unfold Tile.keep
  split <;> rfl
@[simp] theorem Tile.keep_spad (t : Tile) (vs : List Word) : (t.keep vs).spad = t.spad := by
  unfold Tile.keep
  split <;> rfl
@[simp] theorem Tile.keep_latent (t : Tile) (vs : List Word) : (t.keep vs).latent = t.latent := by
  unfold Tile.keep
  split <;> rfl
@[simp] theorem Tile.keep_env (t : Tile) (vs : List Word) : (t.keep vs).env = t.env := by
  unfold Tile.keep
  split <;> rfl
@[simp] theorem Tile.keep_envq (t : Tile) (vs : List Word) : (t.keep vs).envq = t.envq := by
  unfold Tile.keep
  split <;> rfl
@[simp] theorem Tile.keep_mx (t : Tile) (vs : List Word) : (t.keep vs).mx = t.mx := by
  unfold Tile.keep
  split <;> rfl
@[simp] theorem Tile.keep_scan (t : Tile) (vs : List Word) : (t.keep vs).scan = t.scan := by
  unfold Tile.keep
  split <;> rfl
@[simp] theorem Tile.keep_cp (t : Tile) (vs : List Word) : (t.keep vs).cp = t.cp := by
  unfold Tile.keep
  split <;> rfl
@[simp] theorem Tile.keep_cpBank (t : Tile) (vs : List Word) : (t.keep vs).cpBank = t.cpBank := by
  unfold Tile.keep
  split <;> rfl
@[simp] theorem Tile.keep_cpBankS (t : Tile) (vs : List Word) : (t.keep vs).cpBankS = t.cpBankS := by
  unfold Tile.keep
  split <;> rfl
@[simp] theorem Tile.keep_copies (t : Tile) (vs : List Word) : (t.keep vs).copies = t.copies := by
  unfold Tile.keep
  split <;> rfl
@[simp] theorem Tile.keep_cpNext (t : Tile) (vs : List Word) : (t.keep vs).cpNext = t.cpNext := by
  unfold Tile.keep
  split <;> rfl
@[simp] theorem Tile.keep_ni (t : Tile) (vs : List Word) : (t.keep vs).ni = t.ni := by
  unfold Tile.keep
  split <;> rfl
@[simp] theorem Tile.keep_tokens (t : Tile) (vs : List Word) : (t.keep vs).tokens = t.tokens := by
  unfold Tile.keep
  split <;> rfl
@[simp] theorem Tile.keep_loads (t : Tile) (vs : List Word) : (t.keep vs).loads = t.loads := by
  unfold Tile.keep
  split <;> rfl
@[simp] theorem Tile.keep_damos (t : Tile) (vs : List Word) : (t.keep vs).damos = t.damos := by
  unfold Tile.keep
  split <;> rfl
@[simp] theorem Tile.keep_task (t : Tile) (vs : List Word) : (t.keep vs).task = t.task := by
  unfold Tile.keep
  split <;> rfl
@[simp] theorem Tile.keep_undo (t : Tile) (vs : List Word) : (t.keep vs).undo = t.undo := by
  unfold Tile.keep
  split <;> rfl
@[simp] theorem Tile.keep_snap (t : Tile) (vs : List Word) : (t.keep vs).snap = t.snap := by
  unfold Tile.keep
  split <;> rfl
@[simp] theorem Tile.keep_tlb (t : Tile) (vs : List Word) : (t.keep vs).tlb = t.tlb := by
  unfold Tile.keep
  split <;> rfl
@[simp] theorem Tile.keep_pair (t : Tile) (vs : List Word) : (t.keep vs).pair = t.pair := by
  unfold Tile.keep
  split <;> rfl
@[simp] theorem Tile.keep_assay (t : Tile) (vs : List Word) : (t.keep vs).assay = t.assay := by
  unfold Tile.keep
  split <;> rfl
@[simp] theorem Tile.dropKept_gang (t : Tile) : t.dropKept.gang = t.gang := rfl
@[simp] theorem Tile.unkeep_gang (t : Tile) : t.unkeep.gang = t.gang := rfl
@[simp] theorem Tile.dropKept_lidx (t : Tile) : t.dropKept.lidx = t.lidx := rfl
@[simp] theorem Tile.unkeep_lidx (t : Tile) : t.unkeep.lidx = t.lidx := rfl
@[simp] theorem Tile.dropKept_ctl (t : Tile) : t.dropKept.ctl = t.ctl := rfl
@[simp] theorem Tile.unkeep_ctl (t : Tile) : t.unkeep.ctl = t.ctl := rfl
@[simp] theorem Tile.dropKept_regs (t : Tile) : t.dropKept.regs = t.regs := rfl
@[simp] theorem Tile.unkeep_regs (t : Tile) : t.unkeep.regs = t.regs := rfl
@[simp] theorem Tile.dropKept_ur (t : Tile) : t.dropKept.ur = t.ur := rfl
@[simp] theorem Tile.unkeep_ur (t : Tile) : t.unkeep.ur = t.ur := rfl
@[simp] theorem Tile.dropKept_ir (t : Tile) : t.dropKept.ir = t.ir := rfl
@[simp] theorem Tile.unkeep_ir (t : Tile) : t.unkeep.ir = t.ir := rfl
@[simp] theorem Tile.dropKept_sr (t : Tile) : t.dropKept.sr = t.sr := rfl
@[simp] theorem Tile.unkeep_sr (t : Tile) : t.unkeep.sr = t.sr := rfl
@[simp] theorem Tile.dropKept_spad (t : Tile) : t.dropKept.spad = t.spad := rfl
@[simp] theorem Tile.unkeep_spad (t : Tile) : t.unkeep.spad = t.spad := rfl
@[simp] theorem Tile.dropKept_latent (t : Tile) : t.dropKept.latent = t.latent := rfl
@[simp] theorem Tile.unkeep_latent (t : Tile) : t.unkeep.latent = t.latent := rfl
@[simp] theorem Tile.dropKept_env (t : Tile) : t.dropKept.env = t.env := rfl
@[simp] theorem Tile.unkeep_env (t : Tile) : t.unkeep.env = t.env := rfl
@[simp] theorem Tile.dropKept_envq (t : Tile) : t.dropKept.envq = t.envq := rfl
@[simp] theorem Tile.unkeep_envq (t : Tile) : t.unkeep.envq = t.envq := rfl
@[simp] theorem Tile.dropKept_mx (t : Tile) : t.dropKept.mx = t.mx := rfl
@[simp] theorem Tile.unkeep_mx (t : Tile) : t.unkeep.mx = t.mx := rfl
@[simp] theorem Tile.dropKept_scan (t : Tile) : t.dropKept.scan = t.scan := rfl
@[simp] theorem Tile.unkeep_scan (t : Tile) : t.unkeep.scan = t.scan := rfl
@[simp] theorem Tile.dropKept_cp (t : Tile) : t.dropKept.cp = t.cp := rfl
@[simp] theorem Tile.unkeep_cp (t : Tile) : t.unkeep.cp = t.cp := rfl
@[simp] theorem Tile.dropKept_cpBank (t : Tile) : t.dropKept.cpBank = t.cpBank := rfl
@[simp] theorem Tile.unkeep_cpBank (t : Tile) : t.unkeep.cpBank = t.cpBank := rfl
@[simp] theorem Tile.dropKept_cpBankS (t : Tile) : t.dropKept.cpBankS = t.cpBankS := rfl
@[simp] theorem Tile.unkeep_cpBankS (t : Tile) : t.unkeep.cpBankS = t.cpBankS := rfl
@[simp] theorem Tile.dropKept_copies (t : Tile) : t.dropKept.copies = t.copies := rfl
@[simp] theorem Tile.unkeep_copies (t : Tile) : t.unkeep.copies = t.copies := rfl
@[simp] theorem Tile.dropKept_cpNext (t : Tile) : t.dropKept.cpNext = t.cpNext := rfl
@[simp] theorem Tile.unkeep_cpNext (t : Tile) : t.unkeep.cpNext = t.cpNext := rfl
@[simp] theorem Tile.dropKept_ni (t : Tile) : t.dropKept.ni = t.ni := rfl
@[simp] theorem Tile.unkeep_ni (t : Tile) : t.unkeep.ni = t.ni := rfl
@[simp] theorem Tile.dropKept_tokens (t : Tile) : t.dropKept.tokens = t.tokens := rfl
@[simp] theorem Tile.unkeep_tokens (t : Tile) : t.unkeep.tokens = t.tokens := rfl
@[simp] theorem Tile.dropKept_loads (t : Tile) : t.dropKept.loads = t.loads := rfl
@[simp] theorem Tile.unkeep_loads (t : Tile) : t.unkeep.loads = t.loads := rfl
@[simp] theorem Tile.dropKept_damos (t : Tile) : t.dropKept.damos = t.damos := rfl
@[simp] theorem Tile.unkeep_damos (t : Tile) : t.unkeep.damos = t.damos := rfl
@[simp] theorem Tile.dropKept_task (t : Tile) : t.dropKept.task = t.task := rfl
@[simp] theorem Tile.unkeep_task (t : Tile) : t.unkeep.task = t.task := rfl
@[simp] theorem Tile.dropKept_undo (t : Tile) : t.dropKept.undo = t.undo := rfl
@[simp] theorem Tile.unkeep_undo (t : Tile) : t.unkeep.undo = t.undo := rfl
@[simp] theorem Tile.dropKept_snap (t : Tile) : t.dropKept.snap = t.snap := rfl
@[simp] theorem Tile.unkeep_snap (t : Tile) : t.unkeep.snap = t.snap := rfl
@[simp] theorem Tile.dropKept_tlb (t : Tile) : t.dropKept.tlb = t.tlb := rfl
@[simp] theorem Tile.unkeep_tlb (t : Tile) : t.unkeep.tlb = t.tlb := rfl
@[simp] theorem Tile.dropKept_pair (t : Tile) : t.dropKept.pair = t.pair := rfl
@[simp] theorem Tile.unkeep_pair (t : Tile) : t.unkeep.pair = t.pair := rfl
@[simp] theorem Tile.dropKept_assay (t : Tile) : t.dropKept.assay = t.assay := rfl
@[simp] theorem Tile.unkeep_assay (t : Tile) : t.unkeep.assay = t.assay := rfl

/-- A port value popped before a stall is what its word reads, and the port stays as it is (R336). -/
theorem Tile.popX_kept (t : Tile) {r : XReg} {v : Word} {vs : List Word} (hr : r = 30 ∨ r = 31) (h : t.keptVals = v :: vs) :
    t.popX r = (v, t.dropKept) := by
  unfold Tile.popX
  rw [if_pos hr, h]

/-! ## The fetch point, what is in flight and the ticks of issue -/

@[simp] theorem Tile.flow_fe_pc (t : Tile) (f : Flow) : (t.flow f).fe.pc = t.fe.pc := rfl
@[simp] theorem Tile.flow_fe_ipc (t : Tile) (f : Flow) : (t.flow f).fe.ipc = t.fe.ipc := rfl
@[simp] theorem Tile.flow_fe_seq (t : Tile) (f : Flow) : (t.flow f).fe.seq = t.fe.seq := rfl
@[simp] theorem Tile.flow_fe_iseq (t : Tile) (f : Flow) : (t.flow f).fe.iseq = t.fe.iseq := rfl
@[simp] theorem Tile.flow_fe_loops (t : Tile) (f : Flow) : (t.flow f).fe.loops = t.fe.loops := rfl
@[simp] theorem Tile.flow_fe_aq (t : Tile) (f : Flow) : (t.flow f).fe.aq = t.fe.aq := rfl
@[simp] theorem Tile.flow_fe_xq (t : Tile) (f : Flow) : (t.flow f).fe.xq = t.fe.xq := rfl
@[simp] theorem Tile.flow_fe_xl (t : Tile) (f : Flow) : (t.flow f).fe.xl = t.fe.xl := rfl
@[simp] theorem Tile.flow_fe_late (t : Tile) (f : Flow) : (t.flow f).fe.late = t.fe.late := rfl
@[simp] theorem Tile.flow_fe_kept (t : Tile) (f : Flow) : (t.flow f).fe.kept = t.fe.kept := rfl
@[simp] theorem Tile.flow_fe_ahead (t : Tile) (f : Flow) : (t.flow f).fe.ahead = t.fe.ahead := rfl
@[simp] theorem Tile.flow_fe_skip (t : Tile) (f : Flow) : (t.flow f).fe.skip = t.fe.skip := rfl
@[simp] theorem Tile.flow_fe_res (t : Tile) (f : Flow) : (t.flow f).fe.res = t.fe.res := rfl
@[simp] theorem Tile.flow_fe_aAt (t : Tile) (f : Flow) : (t.flow f).fe.aAt = t.fe.aAt := rfl
@[simp] theorem Tile.flow_fe_xAt (t : Tile) (f : Flow) : (t.flow f).fe.xAt = t.fe.xAt := rfl
@[simp] theorem Tile.flow_fe_fAt (t : Tile) (f : Flow) : (t.flow f).fe.fAt = t.fe.fAt := rfl
@[simp] theorem Tile.flow_fe_an (t : Tile) (f : Flow) : (t.flow f).fe.an = t.fe.an := rfl
@[simp] theorem Tile.flow_fe_jat (t : Tile) (f : Flow) : (t.flow f).fe.jat = t.fe.jat := rfl
@[simp] theorem Tile.hold_fe_pc (t : Tile) : (t.hold).fe.pc = t.fe.pc := rfl
@[simp] theorem Tile.hold_fe_ipc (t : Tile) : (t.hold).fe.ipc = t.fe.ipc := rfl
@[simp] theorem Tile.hold_fe_seq (t : Tile) : (t.hold).fe.seq = t.fe.seq := rfl
@[simp] theorem Tile.hold_fe_iseq (t : Tile) : (t.hold).fe.iseq = t.fe.iseq := rfl
@[simp] theorem Tile.hold_fe_loops (t : Tile) : (t.hold).fe.loops = t.fe.loops := rfl
@[simp] theorem Tile.hold_fe_aq (t : Tile) : (t.hold).fe.aq = t.fe.aq := rfl
@[simp] theorem Tile.hold_fe_xq (t : Tile) : (t.hold).fe.xq = t.fe.xq := rfl
@[simp] theorem Tile.hold_fe_xl (t : Tile) : (t.hold).fe.xl = t.fe.xl := rfl
@[simp] theorem Tile.hold_fe_late (t : Tile) : (t.hold).fe.late = t.fe.late := rfl
@[simp] theorem Tile.hold_fe_kept (t : Tile) : (t.hold).fe.kept = t.fe.kept := rfl
@[simp] theorem Tile.hold_fe_ahead (t : Tile) : (t.hold).fe.ahead = t.fe.ahead := rfl
@[simp] theorem Tile.hold_fe_skip (t : Tile) : (t.hold).fe.skip = t.fe.skip := rfl
@[simp] theorem Tile.hold_fe_res (t : Tile) : (t.hold).fe.res = t.fe.res := rfl
@[simp] theorem Tile.hold_fe_aAt (t : Tile) : (t.hold).fe.aAt = t.fe.aAt := rfl
@[simp] theorem Tile.hold_fe_xAt (t : Tile) : (t.hold).fe.xAt = t.fe.xAt := rfl
@[simp] theorem Tile.hold_fe_fAt (t : Tile) : (t.hold).fe.fAt = t.fe.fAt := rfl
@[simp] theorem Tile.hold_fe_an (t : Tile) : (t.hold).fe.an = t.fe.an := rfl
@[simp] theorem Tile.hold_fe_jat (t : Tile) : (t.hold).fe.jat = t.fe.jat := rfl
@[simp] theorem Tile.jump_fe_ipc (t : Tile) (a : Word) : (t.jump a).fe.ipc = t.fe.ipc := rfl
@[simp] theorem Tile.jump_fe_seq (t : Tile) (a : Word) : (t.jump a).fe.seq = t.fe.seq := rfl
@[simp] theorem Tile.jump_fe_iseq (t : Tile) (a : Word) : (t.jump a).fe.iseq = t.fe.iseq := rfl
@[simp] theorem Tile.jump_fe_loops (t : Tile) (a : Word) : (t.jump a).fe.loops = t.fe.loops := rfl
@[simp] theorem Tile.jump_fe_aq (t : Tile) (a : Word) : (t.jump a).fe.aq = t.fe.aq := rfl
@[simp] theorem Tile.jump_fe_xq (t : Tile) (a : Word) : (t.jump a).fe.xq = t.fe.xq := rfl
@[simp] theorem Tile.jump_fe_xl (t : Tile) (a : Word) : (t.jump a).fe.xl = t.fe.xl := rfl
@[simp] theorem Tile.jump_fe_late (t : Tile) (a : Word) : (t.jump a).fe.late = t.fe.late := rfl
@[simp] theorem Tile.jump_fe_kept (t : Tile) (a : Word) : (t.jump a).fe.kept = t.fe.kept := rfl
@[simp] theorem Tile.jump_fe_ahead (t : Tile) (a : Word) : (t.jump a).fe.ahead = t.fe.ahead := rfl
@[simp] theorem Tile.jump_fe_skip (t : Tile) (a : Word) : (t.jump a).fe.skip = t.fe.skip := rfl
@[simp] theorem Tile.jump_fe_res (t : Tile) (a : Word) : (t.jump a).fe.res = t.fe.res := rfl
@[simp] theorem Tile.jump_fe_aAt (t : Tile) (a : Word) : (t.jump a).fe.aAt = t.fe.aAt := rfl
@[simp] theorem Tile.jump_fe_xAt (t : Tile) (a : Word) : (t.jump a).fe.xAt = t.fe.xAt := rfl
@[simp] theorem Tile.jump_fe_fAt (t : Tile) (a : Word) : (t.jump a).fe.fAt = t.fe.fAt := rfl
@[simp] theorem Tile.jump_fe_an (t : Tile) (a : Word) : (t.jump a).fe.an = t.fe.an := rfl
@[simp] theorem Tile.jump_fe_jat (t : Tile) (a : Word) : (t.jump a).fe.jat = t.fe.jat := rfl
@[simp] theorem Tile.dropKept_fe_pc (t : Tile) : (t.dropKept).fe.pc = t.fe.pc := rfl
@[simp] theorem Tile.dropKept_fe_ipc (t : Tile) : (t.dropKept).fe.ipc = t.fe.ipc := rfl
@[simp] theorem Tile.dropKept_fe_seq (t : Tile) : (t.dropKept).fe.seq = t.fe.seq := rfl
@[simp] theorem Tile.dropKept_fe_iseq (t : Tile) : (t.dropKept).fe.iseq = t.fe.iseq := rfl
@[simp] theorem Tile.dropKept_fe_flow (t : Tile) : (t.dropKept).fe.flow = t.fe.flow := rfl
@[simp] theorem Tile.dropKept_fe_loops (t : Tile) : (t.dropKept).fe.loops = t.fe.loops := rfl
@[simp] theorem Tile.dropKept_fe_aq (t : Tile) : (t.dropKept).fe.aq = t.fe.aq := rfl
@[simp] theorem Tile.dropKept_fe_xq (t : Tile) : (t.dropKept).fe.xq = t.fe.xq := rfl
@[simp] theorem Tile.dropKept_fe_xl (t : Tile) : (t.dropKept).fe.xl = t.fe.xl := rfl
@[simp] theorem Tile.dropKept_fe_late (t : Tile) : (t.dropKept).fe.late = t.fe.late := rfl
@[simp] theorem Tile.dropKept_fe_ahead (t : Tile) : (t.dropKept).fe.ahead = t.fe.ahead := rfl
@[simp] theorem Tile.dropKept_fe_skip (t : Tile) : (t.dropKept).fe.skip = t.fe.skip := rfl
@[simp] theorem Tile.dropKept_fe_res (t : Tile) : (t.dropKept).fe.res = t.fe.res := rfl
@[simp] theorem Tile.dropKept_fe_aAt (t : Tile) : (t.dropKept).fe.aAt = t.fe.aAt := rfl
@[simp] theorem Tile.dropKept_fe_xAt (t : Tile) : (t.dropKept).fe.xAt = t.fe.xAt := rfl
@[simp] theorem Tile.dropKept_fe_fAt (t : Tile) : (t.dropKept).fe.fAt = t.fe.fAt := rfl
@[simp] theorem Tile.dropKept_fe_an (t : Tile) : (t.dropKept).fe.an = t.fe.an := rfl
@[simp] theorem Tile.dropKept_fe_jat (t : Tile) : (t.dropKept).fe.jat = t.fe.jat := rfl
@[simp] theorem Tile.unkeep_fe_pc (t : Tile) : (t.unkeep).fe.pc = t.fe.pc := rfl
@[simp] theorem Tile.unkeep_fe_ipc (t : Tile) : (t.unkeep).fe.ipc = t.fe.ipc := rfl
@[simp] theorem Tile.unkeep_fe_seq (t : Tile) : (t.unkeep).fe.seq = t.fe.seq := rfl
@[simp] theorem Tile.unkeep_fe_iseq (t : Tile) : (t.unkeep).fe.iseq = t.fe.iseq := rfl
@[simp] theorem Tile.unkeep_fe_flow (t : Tile) : (t.unkeep).fe.flow = t.fe.flow := rfl
@[simp] theorem Tile.unkeep_fe_loops (t : Tile) : (t.unkeep).fe.loops = t.fe.loops := rfl
@[simp] theorem Tile.unkeep_fe_aq (t : Tile) : (t.unkeep).fe.aq = t.fe.aq := rfl
@[simp] theorem Tile.unkeep_fe_xq (t : Tile) : (t.unkeep).fe.xq = t.fe.xq := rfl
@[simp] theorem Tile.unkeep_fe_xl (t : Tile) : (t.unkeep).fe.xl = t.fe.xl := rfl
@[simp] theorem Tile.unkeep_fe_late (t : Tile) : (t.unkeep).fe.late = t.fe.late := rfl
@[simp] theorem Tile.unkeep_fe_ahead (t : Tile) : (t.unkeep).fe.ahead = t.fe.ahead := rfl
@[simp] theorem Tile.unkeep_fe_skip (t : Tile) : (t.unkeep).fe.skip = t.fe.skip := rfl
@[simp] theorem Tile.unkeep_fe_res (t : Tile) : (t.unkeep).fe.res = t.fe.res := rfl
@[simp] theorem Tile.unkeep_fe_aAt (t : Tile) : (t.unkeep).fe.aAt = t.fe.aAt := rfl
@[simp] theorem Tile.unkeep_fe_xAt (t : Tile) : (t.unkeep).fe.xAt = t.fe.xAt := rfl
@[simp] theorem Tile.unkeep_fe_fAt (t : Tile) : (t.unkeep).fe.fAt = t.fe.fAt := rfl
@[simp] theorem Tile.unkeep_fe_an (t : Tile) : (t.unkeep).fe.an = t.fe.an := rfl
@[simp] theorem Tile.unkeep_fe_jat (t : Tile) : (t.unkeep).fe.jat = t.fe.jat := rfl
@[simp] theorem Tile.keep_fe_pc (t : Tile) (vs : List Word) : (t.keep vs).fe.pc = t.fe.pc := by
  unfold Tile.keep
  split <;> rfl
@[simp] theorem Tile.keep_fe_ipc (t : Tile) (vs : List Word) : (t.keep vs).fe.ipc = t.fe.ipc := by
  unfold Tile.keep
  split <;> rfl
@[simp] theorem Tile.keep_fe_seq (t : Tile) (vs : List Word) : (t.keep vs).fe.seq = t.fe.seq := by
  unfold Tile.keep
  split <;> rfl
@[simp] theorem Tile.keep_fe_iseq (t : Tile) (vs : List Word) : (t.keep vs).fe.iseq = t.fe.iseq := by
  unfold Tile.keep
  split <;> rfl
@[simp] theorem Tile.keep_fe_flow (t : Tile) (vs : List Word) : (t.keep vs).fe.flow = t.fe.flow := by
  unfold Tile.keep
  split <;> rfl
@[simp] theorem Tile.keep_fe_loops (t : Tile) (vs : List Word) : (t.keep vs).fe.loops = t.fe.loops := by
  unfold Tile.keep
  split <;> rfl
@[simp] theorem Tile.keep_fe_aq (t : Tile) (vs : List Word) : (t.keep vs).fe.aq = t.fe.aq := by
  unfold Tile.keep
  split <;> rfl
@[simp] theorem Tile.keep_fe_xq (t : Tile) (vs : List Word) : (t.keep vs).fe.xq = t.fe.xq := by
  unfold Tile.keep
  split <;> rfl
@[simp] theorem Tile.keep_fe_xl (t : Tile) (vs : List Word) : (t.keep vs).fe.xl = t.fe.xl := by
  unfold Tile.keep
  split <;> rfl
@[simp] theorem Tile.keep_fe_late (t : Tile) (vs : List Word) : (t.keep vs).fe.late = t.fe.late := by
  unfold Tile.keep
  split <;> rfl
@[simp] theorem Tile.keep_fe_ahead (t : Tile) (vs : List Word) : (t.keep vs).fe.ahead = t.fe.ahead := by
  unfold Tile.keep
  split <;> rfl
@[simp] theorem Tile.keep_fe_skip (t : Tile) (vs : List Word) : (t.keep vs).fe.skip = t.fe.skip := by
  unfold Tile.keep
  split <;> rfl
@[simp] theorem Tile.keep_fe_res (t : Tile) (vs : List Word) : (t.keep vs).fe.res = t.fe.res := by
  unfold Tile.keep
  split <;> rfl
@[simp] theorem Tile.keep_fe_aAt (t : Tile) (vs : List Word) : (t.keep vs).fe.aAt = t.fe.aAt := by
  unfold Tile.keep
  split <;> rfl
@[simp] theorem Tile.keep_fe_xAt (t : Tile) (vs : List Word) : (t.keep vs).fe.xAt = t.fe.xAt := by
  unfold Tile.keep
  split <;> rfl
@[simp] theorem Tile.keep_fe_fAt (t : Tile) (vs : List Word) : (t.keep vs).fe.fAt = t.fe.fAt := by
  unfold Tile.keep
  split <;> rfl
@[simp] theorem Tile.keep_fe_an (t : Tile) (vs : List Word) : (t.keep vs).fe.an = t.fe.an := by
  unfold Tile.keep
  split <;> rfl
@[simp] theorem Tile.keep_fe_jat (t : Tile) (vs : List Word) : (t.keep vs).fe.jat = t.fe.jat := by
  unfold Tile.keep
  split <;> rfl
@[simp] theorem Tile.countX_gang (t : Tile) (n : Nat) : (t.countX n).gang = t.gang := rfl
@[simp] theorem Tile.countX_lidx (t : Tile) (n : Nat) : (t.countX n).lidx = t.lidx := rfl
@[simp] theorem Tile.countX_ctl (t : Tile) (n : Nat) : (t.countX n).ctl = t.ctl := rfl
@[simp] theorem Tile.countX_regs (t : Tile) (n : Nat) : (t.countX n).regs = t.regs := rfl
@[simp] theorem Tile.countX_ur (t : Tile) (n : Nat) : (t.countX n).ur = t.ur := rfl
@[simp] theorem Tile.countX_ir (t : Tile) (n : Nat) : (t.countX n).ir = t.ir := rfl
@[simp] theorem Tile.countX_sr (t : Tile) (n : Nat) : (t.countX n).sr = t.sr := rfl
@[simp] theorem Tile.countX_spad (t : Tile) (n : Nat) : (t.countX n).spad = t.spad := rfl
@[simp] theorem Tile.countX_latent (t : Tile) (n : Nat) : (t.countX n).latent = t.latent := rfl
@[simp] theorem Tile.countX_env (t : Tile) (n : Nat) : (t.countX n).env = t.env := rfl
@[simp] theorem Tile.countX_envq (t : Tile) (n : Nat) : (t.countX n).envq = t.envq := rfl
@[simp] theorem Tile.countX_mx (t : Tile) (n : Nat) : (t.countX n).mx = t.mx := rfl
@[simp] theorem Tile.countX_scan (t : Tile) (n : Nat) : (t.countX n).scan = t.scan := rfl
@[simp] theorem Tile.countX_cp (t : Tile) (n : Nat) : (t.countX n).cp = t.cp := rfl
@[simp] theorem Tile.countX_cpBank (t : Tile) (n : Nat) : (t.countX n).cpBank = t.cpBank := rfl
@[simp] theorem Tile.countX_cpBankS (t : Tile) (n : Nat) : (t.countX n).cpBankS = t.cpBankS := rfl
@[simp] theorem Tile.countX_copies (t : Tile) (n : Nat) : (t.countX n).copies = t.copies := rfl
@[simp] theorem Tile.countX_cpNext (t : Tile) (n : Nat) : (t.countX n).cpNext = t.cpNext := rfl
@[simp] theorem Tile.countX_ni (t : Tile) (n : Nat) : (t.countX n).ni = t.ni := rfl
@[simp] theorem Tile.countX_tokens (t : Tile) (n : Nat) : (t.countX n).tokens = t.tokens := rfl
@[simp] theorem Tile.countX_loads (t : Tile) (n : Nat) : (t.countX n).loads = t.loads := rfl
@[simp] theorem Tile.countX_damos (t : Tile) (n : Nat) : (t.countX n).damos = t.damos := rfl
@[simp] theorem Tile.countX_task (t : Tile) (n : Nat) : (t.countX n).task = t.task := rfl
@[simp] theorem Tile.countX_undo (t : Tile) (n : Nat) : (t.countX n).undo = t.undo := rfl
@[simp] theorem Tile.countX_snap (t : Tile) (n : Nat) : (t.countX n).snap = t.snap := rfl
@[simp] theorem Tile.countX_tlb (t : Tile) (n : Nat) : (t.countX n).tlb = t.tlb := rfl
@[simp] theorem Tile.countX_pair (t : Tile) (n : Nat) : (t.countX n).pair = t.pair := rfl
@[simp] theorem Tile.countX_assay (t : Tile) (n : Nat) : (t.countX n).assay = t.assay := rfl
@[simp] theorem Tile.countX_fe_pc (t : Tile) (n : Nat) : (t.countX n).fe.pc = t.fe.pc := rfl
@[simp] theorem Tile.countX_fe_ipc (t : Tile) (n : Nat) : (t.countX n).fe.ipc = t.fe.ipc := rfl
@[simp] theorem Tile.countX_fe_seq (t : Tile) (n : Nat) : (t.countX n).fe.seq = t.fe.seq := rfl
@[simp] theorem Tile.countX_fe_iseq (t : Tile) (n : Nat) : (t.countX n).fe.iseq = t.fe.iseq := rfl
@[simp] theorem Tile.countX_fe_flow (t : Tile) (n : Nat) : (t.countX n).fe.flow = t.fe.flow := rfl
@[simp] theorem Tile.countX_fe_loops (t : Tile) (n : Nat) : (t.countX n).fe.loops = t.fe.loops := rfl
@[simp] theorem Tile.countX_fe_aq (t : Tile) (n : Nat) : (t.countX n).fe.aq = t.fe.aq := rfl
@[simp] theorem Tile.countX_fe_xq (t : Tile) (n : Nat) : (t.countX n).fe.xq = t.fe.xq := rfl
@[simp] theorem Tile.countX_fe_xl (t : Tile) (n : Nat) : (t.countX n).fe.xl = t.fe.xl := rfl
@[simp] theorem Tile.countX_fe_late (t : Tile) (n : Nat) : (t.countX n).fe.late = t.fe.late := rfl
@[simp] theorem Tile.countX_fe_kept (t : Tile) (n : Nat) : (t.countX n).fe.kept = t.fe.kept := rfl
@[simp] theorem Tile.countX_fe_ahead (t : Tile) (n : Nat) : (t.countX n).fe.ahead = t.fe.ahead := rfl
@[simp] theorem Tile.countX_fe_skip (t : Tile) (n : Nat) : (t.countX n).fe.skip = t.fe.skip := rfl
@[simp] theorem Tile.countX_fe_res (t : Tile) (n : Nat) : (t.countX n).fe.res = t.fe.res := rfl
@[simp] theorem Tile.countX_fe_aAt (t : Tile) (n : Nat) : (t.countX n).fe.aAt = t.fe.aAt := rfl
@[simp] theorem Tile.countX_fe_fAt (t : Tile) (n : Nat) : (t.countX n).fe.fAt = t.fe.fAt := rfl
@[simp] theorem Tile.countX_fe_an (t : Tile) (n : Nat) : (t.countX n).fe.an = t.fe.an := rfl
@[simp] theorem Tile.countX_fe_jat (t : Tile) (n : Nat) : (t.countX n).fe.jat = t.fe.jat := rfl
@[simp] theorem Tile.countA_gang (t b : Tile) (i : Instr) (n : Nat) (p : BitVec 16) : (t.countA b i n p).gang = t.gang := rfl
@[simp] theorem Tile.countA_lidx (t b : Tile) (i : Instr) (n : Nat) (p : BitVec 16) : (t.countA b i n p).lidx = t.lidx := rfl
@[simp] theorem Tile.countA_ctl (t b : Tile) (i : Instr) (n : Nat) (p : BitVec 16) : (t.countA b i n p).ctl = t.ctl := rfl
@[simp] theorem Tile.countA_regs (t b : Tile) (i : Instr) (n : Nat) (p : BitVec 16) : (t.countA b i n p).regs = t.regs := rfl
@[simp] theorem Tile.countA_ur (t b : Tile) (i : Instr) (n : Nat) (p : BitVec 16) : (t.countA b i n p).ur = t.ur := rfl
@[simp] theorem Tile.countA_ir (t b : Tile) (i : Instr) (n : Nat) (p : BitVec 16) : (t.countA b i n p).ir = t.ir := rfl
@[simp] theorem Tile.countA_sr (t b : Tile) (i : Instr) (n : Nat) (p : BitVec 16) : (t.countA b i n p).sr = t.sr := rfl
@[simp] theorem Tile.countA_spad (t b : Tile) (i : Instr) (n : Nat) (p : BitVec 16) : (t.countA b i n p).spad = t.spad := rfl
@[simp] theorem Tile.countA_latent (t b : Tile) (i : Instr) (n : Nat) (p : BitVec 16) : (t.countA b i n p).latent = t.latent := rfl
@[simp] theorem Tile.countA_env (t b : Tile) (i : Instr) (n : Nat) (p : BitVec 16) : (t.countA b i n p).env = t.env := rfl
@[simp] theorem Tile.countA_envq (t b : Tile) (i : Instr) (n : Nat) (p : BitVec 16) : (t.countA b i n p).envq = t.envq := rfl
@[simp] theorem Tile.countA_mx (t b : Tile) (i : Instr) (n : Nat) (p : BitVec 16) : (t.countA b i n p).mx = t.mx := rfl
@[simp] theorem Tile.countA_scan (t b : Tile) (i : Instr) (n : Nat) (p : BitVec 16) : (t.countA b i n p).scan = t.scan := rfl
@[simp] theorem Tile.countA_cp (t b : Tile) (i : Instr) (n : Nat) (p : BitVec 16) : (t.countA b i n p).cp = t.cp := rfl
@[simp] theorem Tile.countA_cpBank (t b : Tile) (i : Instr) (n : Nat) (p : BitVec 16) : (t.countA b i n p).cpBank = t.cpBank := rfl
@[simp] theorem Tile.countA_cpBankS (t b : Tile) (i : Instr) (n : Nat) (p : BitVec 16) : (t.countA b i n p).cpBankS = t.cpBankS := rfl
@[simp] theorem Tile.countA_copies (t b : Tile) (i : Instr) (n : Nat) (p : BitVec 16) : (t.countA b i n p).copies = t.copies := rfl
@[simp] theorem Tile.countA_cpNext (t b : Tile) (i : Instr) (n : Nat) (p : BitVec 16) : (t.countA b i n p).cpNext = t.cpNext := rfl
@[simp] theorem Tile.countA_ni (t b : Tile) (i : Instr) (n : Nat) (p : BitVec 16) : (t.countA b i n p).ni = t.ni := rfl
@[simp] theorem Tile.countA_tokens (t b : Tile) (i : Instr) (n : Nat) (p : BitVec 16) : (t.countA b i n p).tokens = t.tokens := rfl
@[simp] theorem Tile.countA_loads (t b : Tile) (i : Instr) (n : Nat) (p : BitVec 16) : (t.countA b i n p).loads = t.loads := rfl
@[simp] theorem Tile.countA_damos (t b : Tile) (i : Instr) (n : Nat) (p : BitVec 16) : (t.countA b i n p).damos = t.damos := rfl
@[simp] theorem Tile.countA_task (t b : Tile) (i : Instr) (n : Nat) (p : BitVec 16) : (t.countA b i n p).task = t.task := rfl
@[simp] theorem Tile.countA_undo (t b : Tile) (i : Instr) (n : Nat) (p : BitVec 16) : (t.countA b i n p).undo = t.undo := rfl
@[simp] theorem Tile.countA_snap (t b : Tile) (i : Instr) (n : Nat) (p : BitVec 16) : (t.countA b i n p).snap = t.snap := rfl
@[simp] theorem Tile.countA_tlb (t b : Tile) (i : Instr) (n : Nat) (p : BitVec 16) : (t.countA b i n p).tlb = t.tlb := rfl
@[simp] theorem Tile.countA_pair (t b : Tile) (i : Instr) (n : Nat) (p : BitVec 16) : (t.countA b i n p).pair = t.pair := rfl
@[simp] theorem Tile.countA_assay (t b : Tile) (i : Instr) (n : Nat) (p : BitVec 16) : (t.countA b i n p).assay = t.assay := rfl
@[simp] theorem Tile.countA_fe_pc (t b : Tile) (i : Instr) (n : Nat) (p : BitVec 16) : (t.countA b i n p).fe.pc = t.fe.pc := rfl
@[simp] theorem Tile.countA_fe_ipc (t b : Tile) (i : Instr) (n : Nat) (p : BitVec 16) : (t.countA b i n p).fe.ipc = t.fe.ipc := rfl
@[simp] theorem Tile.countA_fe_seq (t b : Tile) (i : Instr) (n : Nat) (p : BitVec 16) : (t.countA b i n p).fe.seq = t.fe.seq := rfl
@[simp] theorem Tile.countA_fe_iseq (t b : Tile) (i : Instr) (n : Nat) (p : BitVec 16) : (t.countA b i n p).fe.iseq = t.fe.iseq := rfl
@[simp] theorem Tile.countA_fe_flow (t b : Tile) (i : Instr) (n : Nat) (p : BitVec 16) : (t.countA b i n p).fe.flow = t.fe.flow := rfl
@[simp] theorem Tile.countA_fe_loops (t b : Tile) (i : Instr) (n : Nat) (p : BitVec 16) : (t.countA b i n p).fe.loops = t.fe.loops := rfl
@[simp] theorem Tile.countA_fe_aq (t b : Tile) (i : Instr) (n : Nat) (p : BitVec 16) : (t.countA b i n p).fe.aq = t.fe.aq := rfl
@[simp] theorem Tile.countA_fe_xq (t b : Tile) (i : Instr) (n : Nat) (p : BitVec 16) : (t.countA b i n p).fe.xq = t.fe.xq := rfl
@[simp] theorem Tile.countA_fe_xl (t b : Tile) (i : Instr) (n : Nat) (p : BitVec 16) : (t.countA b i n p).fe.xl = t.fe.xl := rfl
@[simp] theorem Tile.countA_fe_late (t b : Tile) (i : Instr) (n : Nat) (p : BitVec 16) : (t.countA b i n p).fe.late = t.fe.late := rfl
@[simp] theorem Tile.countA_fe_kept (t b : Tile) (i : Instr) (n : Nat) (p : BitVec 16) : (t.countA b i n p).fe.kept = t.fe.kept := rfl
@[simp] theorem Tile.countA_fe_ahead (t b : Tile) (i : Instr) (n : Nat) (p : BitVec 16) : (t.countA b i n p).fe.ahead = t.fe.ahead := rfl
@[simp] theorem Tile.countA_fe_skip (t b : Tile) (i : Instr) (n : Nat) (p : BitVec 16) : (t.countA b i n p).fe.skip = t.fe.skip := rfl
@[simp] theorem Tile.countA_fe_res (t b : Tile) (i : Instr) (n : Nat) (p : BitVec 16) : (t.countA b i n p).fe.res = t.fe.res := rfl
@[simp] theorem Tile.countA_fe_xAt (t b : Tile) (i : Instr) (n : Nat) (p : BitVec 16) : (t.countA b i n p).fe.xAt = t.fe.xAt := rfl

/-! ## Registers read back -/

theorem Tile.xval_putX (t : Tile) (rd : XReg) (v : Word) : t.SameX (t.putX rd v) rd := by
  intro r hr
  simp only [Tile.putX, Tile.xval]
  repeat' split
  all_goals first | rfl | skip
  rw [Vector.getElem_set_ne]
  intro h
  exact hr (BitVec.eq_of_toNat_eq h.symm)

theorem Tile.yval_putY (t : Tile) (yd : YReg) (v : Word) : t.SameY (t.putY yd v) yd := by
  intro r hr
  simp only [Tile.putY, Tile.yval]
  repeat' split
  all_goals first | rfl | skip
  rw [Vector.getElem_set_ne]
  intro h
  exact hr (BitVec.eq_of_toNat_eq h.symm)

@[simp] theorem Tile.xval_popX (t : Tile) (r q : XReg) : (t.popX r).2.xval q = t.xval q := by simp [Tile.xval]
@[simp] theorem Tile.yval_popY (t : Tile) (r q : YReg) : (t.popY r).2.yval q = t.yval q := by simp [Tile.yval]

/-- A register that is neither x0 nor a port reads what was written. -/
theorem Tile.xval_putX_same (t : Tile) (rd : XReg) (v : Word) (h0 : rd ≠ 0) (h1 : rd ≠ 28) (h2 : rd ≠ 29) :
    (t.putX rd v).xval rd = v := by
  unfold Tile.putX Tile.xval
  rw [if_neg h0, if_neg h0, if_neg h1, if_neg h2]
  exact Vector.getElem_set_self _

theorem Tile.yval_putY_same (t : Tile) (yd : YReg) (v : Word) (h0 : yd ≠ 0) (h1 : yd ≠ 12) (h2 : yd ≠ 13) :
    (t.putY yd v).yval yd = v := by
  unfold Tile.putY Tile.yval
  rw [if_neg h0, if_neg h0, if_neg h1, if_neg h2]
  exact Vector.getElem_set_self _

@[simp] theorem Tile.vval_putV_same (t : Tile) (vd : VReg) (v : Vec) : (t.putV vd v).vval vd = v := by
  simp [Tile.putV, Tile.vval]

theorem Tile.vval_putV_ne (t : Tile) {vd r : VReg} (v : Vec) (h : vd ≠ r) : (t.putV vd v).vval r = t.vval r := by
  simp only [Tile.putV, Tile.vval]
  rw [Vector.getElem_set_ne]
  intro e
  exact h (BitVec.eq_of_toNat_eq e)

/-- x0 reads 0 and m0 reads all ones, whatever is written (R47). -/
@[simp] theorem Tile.xval_zero (t : Tile) : t.xval 0 = 0 := by simp [Tile.xval]
@[simp] theorem Tile.yval_zero (t : Tile) : t.yval 0 = 0 := by simp [Tile.yval]
@[simp] theorem Tile.mval_zero (t : Tile) : t.mval 0 = ones64 := by simp [Tile.mval]

/-! ## Capabilities (R171) -/

/-- A capability keeps the fields it is minted for. -/
theorem mint_low (p : Nat) (v : Word) : (mint p v).toNat % 2 ^ 24 = v.toNat % 2 ^ 24 := by
  simp only [mint, BitVec.toNat_ofNat]
  omega
/-- Minting depends on the fields only, so a minted word passes the check of its own MAC. -/
theorem mint_mint (p : Nat) (v : Word) : mint p (mint p v) = mint p v := by
  have h := mint_low p v
  simp only [mint] at h ⊢
  rw [h]

end Sys2Proof.Machine
end

