-- ==== Sys2Proof/Laws/Memory.lean ====
section
/-! SUPPORT. Laws/Memory: reading after writing, and the canonical form that every memory operation keeps. -/

namespace Sys2Proof.Machine

theorem memRead_memWrite_same (a : Nat) (b : Byte) : (m : Memory) → Memory.wf m = true → memRead a (memWrite a b m) = b
  | [], _ => by
    unfold memWrite
    split
    · rename_i h
      simp [memRead, h]
    · simp [memRead]
  | [(a', b')], h => by
    unfold memWrite
    split
    · split
      · rename_i h1 h2
        have : a' ≠ a := by omega
        simp [memRead, this, h2]
      · simp [memRead]
    · split
      · split
        · rename_i h2
          simp [memRead, h2]
        · simp [memRead]
      · rename_i h1 h2
        have : a' ≠ a := by omega
        simp [memRead, this, memRead_memWrite_same a b [] rfl]
  | (a', b') :: (a'', b'') :: r, h => by
    have hw : Memory.wf ((a'', b'') :: r) = true := by
      simp only [Memory.wf, Bool.and_eq_true] at h
      exact h.2
    have hlt : a' < a'' := by
      simp only [Memory.wf, Bool.and_eq_true, decide_eq_true_eq] at h
      exact h.1.2
    have gone : ∀ (r : Memory) (x : Nat) (c : Byte), Memory.wf ((x, c) :: r) = true → a < x → memRead a ((x, c) :: r) = unlistedByte := by
      intro r
      induction r with
      | nil =>
        intro x c _ hx
        have : x ≠ a := by omega
        simp [memRead, this]
      | cons e r ih =>
        intro x c hwf hx
        have : x ≠ a := by omega
        simp only [Memory.wf, Bool.and_eq_true, decide_eq_true_eq] at hwf
        have := ih e.1 e.2 hwf.2 (by omega)
        simp_all [memRead]
    unfold memWrite
    split
    · split
      · rename_i h1 h2
        rw [gone _ _ _ h h1, h2]
      · simp [memRead]
    · split
      · rename_i h1 h2
        split
        · rename_i h3
          rw [gone _ _ _ hw (by omega), h3]
        · simp [memRead]
      · rename_i h1 h2
        have : a' ≠ a := by omega
        simp only [memRead, this, if_false]
        exact memRead_memWrite_same a b _ hw

theorem memRead_memWrite_ne {a c : Nat} (b : Byte) (h : a ≠ c) : (m : Memory) → memRead c (memWrite a b m) = memRead c m
  | [] => by
    unfold memWrite
    split <;> simp [memRead, h]
  | (a', b') :: r => by
    unfold memWrite
    repeat' split
    · rfl
    · simp [memRead, h]
    · rename_i h1 h2 h3
      simp [memRead, show a' ≠ c by omega]
    · rename_i h1 h2 h3
      simp [memRead, h, show a' ≠ c by omega]
    · by_cases hc : a' = c
      · simp [memRead, hc]
      · simp [memRead, hc, memRead_memWrite_ne b h r]

/-- The head of a memory after a write lies above every bound below both. -/
theorem memWrite_lo {lo : Nat} {b' : Byte} (a : Nat) (b : Byte) (hb : b' ≠ unlistedByte) :
    (m : Memory) → Memory.wf ((lo, b') :: m) = true → lo < a → Memory.wf ((lo, b') :: memWrite a b m) = true
  | [], h, hl => by
    unfold memWrite
    split
    · exact h
    · rename_i hn
      simp [Memory.wf, hb, hn, hl]
  | (c, d) :: r, h, hl => by
    have h0 := h
    simp only [Memory.wf, Bool.and_eq_true, decide_eq_true_eq, bne_iff_ne, ne_eq] at h
    obtain ⟨⟨_, hlc⟩, hr⟩ := h
    have hd : d ≠ unlistedByte := by
      cases r with
      | nil => simpa [Memory.wf] using hr
      | cons e r => simp only [Memory.wf, Bool.and_eq_true, bne_iff_ne, ne_eq] at hr; exact hr.1.1
    unfold memWrite
    split
    · rename_i hac
      split
      · exact h0
      · rename_i hn
        simp [Memory.wf, hb, hn, hl, hac, hr]
    · split
      · rename_i hca
        subst hca
        split
        · cases r with
          | nil => simp [Memory.wf, hb]
          | cons e r =>
            simp only [Memory.wf, Bool.and_eq_true, decide_eq_true_eq, bne_iff_ne, ne_eq] at hr ⊢
            exact ⟨⟨hb, by omega⟩, hr.2⟩
        · rename_i hn
          cases r with
          | nil => simp [Memory.wf, hb, hn, hl]
          | cons e r =>
            simp only [Memory.wf, Bool.and_eq_true, decide_eq_true_eq, bne_iff_ne, ne_eq] at hr ⊢
            exact ⟨⟨hb, hl⟩, ⟨hn, hr.1.2⟩, hr.2⟩
      · have := memWrite_lo a b hd r hr (by omega)
        simp [Memory.wf, hb, hlc, this]

theorem memWrite_wf (a : Nat) (b : Byte) : (m : Memory) → Memory.wf m = true → Memory.wf (memWrite a b m) = true
  | [], _ => by
    unfold memWrite
    split
    · rfl
    · rename_i hn
      simp [Memory.wf, hn]
  | (c, d) :: r, h => by
    have hd : d ≠ unlistedByte := by
      cases r with
      | nil => simpa [Memory.wf] using h
      | cons e r => simp only [Memory.wf, Bool.and_eq_true, bne_iff_ne, ne_eq] at h; exact h.1.1
    unfold memWrite
    split
    · rename_i hac
      split
      · exact h
      · rename_i hn
        simp [Memory.wf, hn, hac, h]
    · split
      · rename_i hca
        subst hca
        split
        · cases r with
          | nil => rfl
          | cons e r => simp only [Memory.wf, Bool.and_eq_true] at h; exact h.2
        · rename_i hn
          cases r with
          | nil => simp [Memory.wf, hn]
          | cons e r =>
            simp only [Memory.wf, Bool.and_eq_true, decide_eq_true_eq, bne_iff_ne, ne_eq] at h ⊢
            exact ⟨⟨hn, h.1.2⟩, h.2⟩
      · exact memWrite_lo a b hd r h (by omega)

theorem memWrites_wf (ws : List (Nat × Byte)) : (m : Memory) → Memory.wf m = true → Memory.wf (memWrites ws m) = true := by
  induction ws with
  | nil => exact fun _ h => h
  | cons w ws ih => exact fun m h => ih _ (memWrite_wf _ _ _ h)

/-- A byte that none of some writes names reads as before. -/
theorem memWrites_ne {c : Nat} : (ws : List (Nat × Byte)) → (∀ w ∈ ws, w.1 ≠ c) → (m : Memory) → memRead c (memWrites ws m) = memRead c m
  | [], _, _ => rfl
  | w :: ws, h, m => by
    show memRead c (memWrites ws (memWrite w.1 w.2 m)) = _
    rw [memWrites_ne ws (fun v hv => h v (List.mem_cons_of_mem _ hv)), memRead_memWrite_ne _ (h w List.mem_cons_self)]

/-- A byte that writes to different places name reads as written. -/
theorem memWrites_at {a : Nat} {b : Byte} : (ws : List (Nat × Byte)) → (ws.map (·.1)).Nodup → (a, b) ∈ ws → (m : Memory) → Memory.wf m = true →
    memRead a (memWrites ws m) = b
  | w :: ws, hn, hm, m, hw => by
    show memRead a (memWrites ws (memWrite w.1 w.2 m)) = b
    rw [List.map_cons, List.nodup_cons] at hn
    rcases List.mem_cons.1 hm with h | h
    · subst h
      rw [memWrites_ne ws (fun v hv he => hn.1 (List.mem_map.2 ⟨v, hv, he⟩)), memRead_memWrite_same _ _ _ hw]
    · exact memWrites_at ws hn.2 h _ (memWrite_wf _ _ _ hw)

theorem leNat_leBytes : (n v : Nat) → leNat (leBytes n v) = v % 256 ^ n
  | 0, v => by simp [leBytes, leNat, Nat.mod_one]
  | n + 1, v => by
    rw [Nat.pow_succ', Nat.mod_mul]
    show (BitVec.ofNat 8 v).toNat + 256 * leNat (leBytes n (v / 256)) = _
    rw [leNat_leBytes n, BitVec.toNat_ofNat]

/-- Reset memory is canonical. -/
theorem reset_mem_wf : Memory.wf State.reset.mem = true := rfl

/-! ## Committed memory -/

theorem State.memPut_wf (s : State) (pa : Nat) (b : Byte) (h : Memory.wf s.mem = true) : Memory.wf (s.memPut pa b).mem = true := by
  have : ∀ (l : List Nat) (m : Memory), Memory.wf m = true →
      Memory.wf (l.foldl (fun m f => memWrite (f * 65536 + pa % 65536) b m) m) = true := by
    intro l
    induction l with
    | nil => exact fun _ h => h
    | cons f l ih => exact fun m h => ih _ (memWrite_wf _ _ _ h)
  exact this _ _ (memWrite_wf _ _ _ h)

/-- Bytes put to committed memory while no frame moves are written there and nowhere else (R376). -/
theorem State.memPuts_mem (s : State) (pa : Nat) (bs : List Byte) (h : s.svc.moves = []) :
    s.memPuts pa bs = { s with mem := memWrites (bs.zipIdx.map fun b => (pa + b.2, b.1)) s.mem } := by
  have : ∀ (l : List (Byte × Nat)) (s : State), s.svc.moves = [] →
      l.foldl (fun s b => s.memPut (pa + b.2) b.1) s = { s with mem := memWrites (l.map fun b => (pa + b.2, b.1)) s.mem } := by
    intro l
    induction l with
    | nil => exact fun _ _ => rfl
    | cons f l ih =>
      intro s hs
      have hp : s.memPut (pa + f.2) f.1 = { s with mem := memWrite (pa + f.2) f.1 s.mem } := by
        simp [State.memPut, State.mirrors, hs, movesFrom]
      rw [List.foldl_cons, hp]
      exact ih _ hs
  exact this _ _ h

theorem State.memPuts_wf (s : State) (pa : Nat) (bs : List Byte) (h : Memory.wf s.mem = true) : Memory.wf (s.memPuts pa bs).mem = true := by
  have : ∀ (l : List (Byte × Nat)) (s : State), Memory.wf s.mem = true →
      Memory.wf (l.foldl (fun s b => s.memPut (pa + b.2) b.1) s).mem = true := by
    intro l
    induction l with
    | nil => exact fun _ h => h
    | cons f l ih => exact fun s h => ih _ (State.memPut_wf _ _ _ h)
  exact this _ _ h

theorem State.event_wf (s : State) (g kind l d detail : Nat) (h : Memory.wf s.mem = true) :
    Memory.wf (s.event g kind l d detail).mem = true := by
  unfold State.event
  split
  · exact h
  · dsimp only
    split
    · exact h
    · split
      · exact h
      · split
        · exact h
        · exact State.memPuts_wf _ _ _ (State.memPuts_wf _ _ _ h)

/-! ## Numbers in memory -/

/-- Reading a number beside bytes put elsewhere. -/
theorem State.memNat_memPuts_ne (s : State) (pa : Nat) (bs : List Byte) (a n : Nat) (h : s.svc.moves = []) (hd : a + n ≤ pa ∨ pa + bs.length ≤ a) :
    (s.memPuts pa bs).memNat a n = s.memNat a n := by
  rw [State.memPuts_mem s pa bs h]
  unfold State.memNat
  congr 1
  refine List.map_congr_left fun i hi => memWrites_ne _ (fun w hw => ?_) _
  obtain ⟨b, hb, rfl⟩ := List.mem_map.1 hw
  have := (List.mem_zipIdx' hb).1
  have := List.mem_range.1 hi
  dsimp only
  omega

/-- Reading a number among bytes just put. -/
theorem State.memNat_memPuts (s : State) (pa : Nat) (bs : List Byte) (i n : Nat) (h : s.svc.moves = []) (hw : Memory.wf s.mem = true) (hl : i + n ≤ bs.length) :
    (s.memPuts pa bs).memNat (pa + i) n = leNat ((bs.drop i).take n) := by
  rw [State.memPuts_mem s pa bs h]
  unfold State.memNat
  congr 1
  apply List.ext_getElem
  · simp
    omega
  · intro k h1 h2
    have hk : k < n := by simpa using h1
    have hi : i + k < bs.length := by omega
    rw [List.getElem_map, List.getElem_range, List.getElem_take, List.getElem_drop]
    refine memWrites_at _ ?_ ?_ _ hw
    · have : (bs.zipIdx.map fun b => (pa + b.2, b.1)).map (·.1) = List.range' (pa + 0) bs.length := by
        rw [← List.map_add_range', ← List.zipIdx_map_snd 0 bs, List.map_map, List.map_map]
        rfl
      rw [this]
      exact List.nodup_range'
    · exact List.mem_map.2 ⟨(bs[i + k], i + k), List.mk_mem_zipIdx_iff_getElem?.2 (List.getElem?_eq_getElem hi), by simp [Nat.add_assoc]⟩

/-! ## The units of an access (R97, R272) -/

/-- The first unit left is always performed. -/
theorem touchesNow_head (seed q : Nat) (l : List Nat) : touchesNow seed (q :: l) q = true := by simp [touchesNow]

/-- The places of one unit are performed together. -/
theorem touchesNow_unit {a b : Nat} (seed : Nat) (l : List Nat) (h : a / 16 = b / 16) : touchesNow seed l a = touchesNow seed l b := by
  cases l <;> simp [touchesNow, h]

/-- What a load that goes on has read: what it had, and places it had left, as the scratchpad holds them now. -/
theorem Tile.mem_readUnits {t : Tile} {seed : Nat} {places : List Nat} {got : List (Nat × Byte)} {e : Nat × Byte} (h : e ∈ t.readUnits seed places got) :
    e ∈ got ∨ (e.1 ∈ leftOf places got ∧ touchesNow seed (leftOf places got) e.1 = true ∧ e.2 = memRead e.1 t.spad) := by
  unfold Tile.readUnits at h
  rcases List.mem_append.1 h with h | h
  · exact .inl h
  · obtain ⟨p, hp, rfl⟩ := List.mem_map.1 h
    exact .inr ⟨(List.mem_filter.1 hp).1, (List.mem_filter.1 hp).2, rfl⟩

/-- A load with places left goes on: it has more when it has read. -/
theorem Tile.readUnits_grows {t : Tile} {places : List Nat} {got : List (Nat × Byte)} (seed : Nat) (h : leftOf places got ≠ []) :
    got.length < (t.readUnits seed places got).length := by
  obtain ⟨q, l, hl⟩ := List.exists_cons_of_ne_nil h
  unfold Tile.readUnits
  rw [hl]
  simp [touchesNow_head]

/-! ## Walks (R368, R371) -/

/-- Reading a table entry beside bytes put elsewhere. -/
theorem State.pte_memPuts (s : State) (q : Partition) (level a pa : Nat) (bs : List Byte) (h : s.svc.moves = [])
    (hd : (q.grant (a / 65536)).pfn * 65536 + a % 65536 + 8 ≤ pa ∨ pa + bs.length ≤ (q.grant (a / 65536)).pfn * 65536 + a % 65536) :
    (s.memPuts pa bs).pte q level a = s.pte q level a := by
  have hr := State.memNat_memPuts_ne s pa bs _ 8 h hd
  rw [State.memPuts_mem s pa bs h] at hr ⊢
  unfold State.pte State.partRead8
  unfold State.memNat at hr
  dsimp only at hr ⊢
  rw [hr]

/-- A kept entry that memory holds too changes nothing, whatever the free choice. -/
theorem State.pteBy_kept {s : State} {wc : List WalkEnt} {q : Partition} {level a e : Nat} (hm : s.pte q level a = .ok e)
    (hk : (wc.findSome? fun w => match w with
      | .table p ea e => if p = q.id ∧ ea = a then some e else none
      | .grant .. => none) = some e) : s.pteBy wc q level a = .ok e := by
  have hb : pteBad level e = false := by
    unfold State.pte at hm
    split at hm
    · cases hm
    · repeat' split at hm
      all_goals simp_all
  unfold State.pteBy
  split
  · exact hm
  · rename_i h
    cases Option.some.inj (h.symm.trans hk)
    rw [hm, hb]
    split <;> rfl

end Sys2Proof.Machine
end

