-- ==== Sys2Proof/Laws/PerInstr.lean ====
section
/-! SUPPORT. Laws/PerInstr: the word of an instruction shows exactly the fields its encoding table gives it (R200, R201). -/

namespace Sys2Proof

/-- Packing seven fields and taking them apart again gives them back: they do not overlap and leave no bit over (R200). -/
theorem Fields.unpack_pack (f : Fields) : Fields.unpack f.pack = f := by
  obtain ⟨a, b, c, d, e, s, m⟩ := f
  simp only [Fields.unpack, Fields.pack, Fields.mk.injEq]
  refine ⟨?_, ?_, ?_, ?_, ?_, ?_, ?_⟩ <;> ext i hi <;> simp [BitVec.getElem_extractLsb'] <;> grind

/-- A word that an instruction encodes to shows the fields the tables give that instruction. -/
def Laws.Encoding.Statement (i : Instr) : Prop := ∀ w, encode i = some w → encodeFields i = some (Fields.unpack w)

theorem encoding_holds (i : Instr) : Laws.Encoding.Statement i := by
  intro w h
  unfold encode at h
  obtain ⟨f, hf, rfl⟩ := Option.map_eq_some_iff.mp h
  rw [hf, Fields.unpack_pack]

end Sys2Proof

namespace Sys2Proof.Laws.Encoding

theorem lb : ∀ a b c, Statement (.lb a b c) := fun _ _ _ => encoding_holds _
theorem lh : ∀ a b c, Statement (.lh a b c) := fun _ _ _ => encoding_holds _
theorem lw : ∀ a b c, Statement (.lw a b c) := fun _ _ _ => encoding_holds _
theorem ld : ∀ a b c, Statement (.ld a b c) := fun _ _ _ => encoding_holds _
theorem lbu : ∀ a b c, Statement (.lbu a b c) := fun _ _ _ => encoding_holds _
theorem lhu : ∀ a b c, Statement (.lhu a b c) := fun _ _ _ => encoding_holds _
theorem lwu : ∀ a b c, Statement (.lwu a b c) := fun _ _ _ => encoding_holds _
theorem sb : ∀ a b c, Statement (.sb a b c) := fun _ _ _ => encoding_holds _
theorem sh : ∀ a b c, Statement (.sh a b c) := fun _ _ _ => encoding_holds _
theorem sw : ∀ a b c, Statement (.sw a b c) := fun _ _ _ => encoding_holds _
theorem sd : ∀ a b c, Statement (.sd a b c) := fun _ _ _ => encoding_holds _
theorem lbY : ∀ a b c, Statement (.lbY a b c) := fun _ _ _ => encoding_holds _
theorem lhY : ∀ a b c, Statement (.lhY a b c) := fun _ _ _ => encoding_holds _
theorem lwY : ∀ a b c, Statement (.lwY a b c) := fun _ _ _ => encoding_holds _
theorem ldY : ∀ a b c, Statement (.ldY a b c) := fun _ _ _ => encoding_holds _
theorem lbuY : ∀ a b c, Statement (.lbuY a b c) := fun _ _ _ => encoding_holds _
theorem lhuY : ∀ a b c, Statement (.lhuY a b c) := fun _ _ _ => encoding_holds _
theorem lwuY : ∀ a b c, Statement (.lwuY a b c) := fun _ _ _ => encoding_holds _
theorem sbY : ∀ a b c, Statement (.sbY a b c) := fun _ _ _ => encoding_holds _
theorem shY : ∀ a b c, Statement (.shY a b c) := fun _ _ _ => encoding_holds _
theorem swY : ∀ a b c, Statement (.swY a b c) := fun _ _ _ => encoding_holds _
theorem sdY : ∀ a b c, Statement (.sdY a b c) := fun _ _ _ => encoding_holds _
theorem addi : ∀ a b c, Statement (.addi a b c) := fun _ _ _ => encoding_holds _
theorem slli : ∀ a b c, Statement (.slli a b c) := fun _ _ _ => encoding_holds _
theorem srli : ∀ a b c, Statement (.srli a b c) := fun _ _ _ => encoding_holds _
theorem srai : ∀ a b c, Statement (.srai a b c) := fun _ _ _ => encoding_holds _
theorem slti : ∀ a b c, Statement (.slti a b c) := fun _ _ _ => encoding_holds _
theorem sltiu : ∀ a b c, Statement (.sltiu a b c) := fun _ _ _ => encoding_holds _
theorem xori : ∀ a b c, Statement (.xori a b c) := fun _ _ _ => encoding_holds _
theorem ori : ∀ a b c, Statement (.ori a b c) := fun _ _ _ => encoding_holds _
theorem andi : ∀ a b c, Statement (.andi a b c) := fun _ _ _ => encoding_holds _
theorem addiw : ∀ a b c, Statement (.addiw a b c) := fun _ _ _ => encoding_holds _
theorem add : ∀ a b c, Statement (.add a b c) := fun _ _ _ => encoding_holds _
theorem sub : ∀ a b c, Statement (.sub a b c) := fun _ _ _ => encoding_holds _
theorem and : ∀ a b c, Statement (.and a b c) := fun _ _ _ => encoding_holds _
theorem or : ∀ a b c, Statement (.or a b c) := fun _ _ _ => encoding_holds _
theorem xor : ∀ a b c, Statement (.xor a b c) := fun _ _ _ => encoding_holds _
theorem sll : ∀ a b c, Statement (.sll a b c) := fun _ _ _ => encoding_holds _
theorem srl : ∀ a b c, Statement (.srl a b c) := fun _ _ _ => encoding_holds _
theorem sra : ∀ a b c, Statement (.sra a b c) := fun _ _ _ => encoding_holds _
theorem slt : ∀ a b c, Statement (.slt a b c) := fun _ _ _ => encoding_holds _
theorem sltu : ∀ a b c, Statement (.sltu a b c) := fun _ _ _ => encoding_holds _
theorem min : ∀ a b c, Statement (.min a b c) := fun _ _ _ => encoding_holds _
theorem max : ∀ a b c, Statement (.max a b c) := fun _ _ _ => encoding_holds _
theorem minu : ∀ a b c, Statement (.minu a b c) := fun _ _ _ => encoding_holds _
theorem maxu : ∀ a b c, Statement (.maxu a b c) := fun _ _ _ => encoding_holds _
theorem mul : ∀ a b c, Statement (.mul a b c) := fun _ _ _ => encoding_holds _
theorem mulh : ∀ a b c, Statement (.mulh a b c) := fun _ _ _ => encoding_holds _
theorem mulhu : ∀ a b c, Statement (.mulhu a b c) := fun _ _ _ => encoding_holds _
theorem div : ∀ a b c, Statement (.div a b c) := fun _ _ _ => encoding_holds _
theorem divu : ∀ a b c, Statement (.divu a b c) := fun _ _ _ => encoding_holds _
theorem rem : ∀ a b c, Statement (.rem a b c) := fun _ _ _ => encoding_holds _
theorem remu : ∀ a b c, Statement (.remu a b c) := fun _ _ _ => encoding_holds _
theorem addw : ∀ a b c, Statement (.addw a b c) := fun _ _ _ => encoding_holds _
theorem subw : ∀ a b c, Statement (.subw a b c) := fun _ _ _ => encoding_holds _
theorem sllw : ∀ a b c, Statement (.sllw a b c) := fun _ _ _ => encoding_holds _
theorem srlw : ∀ a b c, Statement (.srlw a b c) := fun _ _ _ => encoding_holds _
theorem sraw : ∀ a b c, Statement (.sraw a b c) := fun _ _ _ => encoding_holds _
theorem clz : ∀ a b, Statement (.clz a b) := fun _ _ => encoding_holds _
theorem ctz : ∀ a b, Statement (.ctz a b) := fun _ _ => encoding_holds _
theorem cnt : ∀ a b, Statement (.cnt a b) := fun _ _ => encoding_holds _
theorem sel : ∀ a b c, Statement (.sel a b c) := fun _ _ _ => encoding_holds _
theorem lui : ∀ a b, Statement (.lui a b) := fun _ _ => encoding_holds _
theorem auipc : ∀ a b, Statement (.auipc a b) := fun _ _ => encoding_holds _
theorem beq : ∀ a b c, Statement (.beq a b c) := fun _ _ _ => encoding_holds _
theorem bne : ∀ a b c, Statement (.bne a b c) := fun _ _ _ => encoding_holds _
theorem blt : ∀ a b c, Statement (.blt a b c) := fun _ _ _ => encoding_holds _
theorem bge : ∀ a b c, Statement (.bge a b c) := fun _ _ _ => encoding_holds _
theorem bltu : ∀ a b c, Statement (.bltu a b c) := fun _ _ _ => encoding_holds _
theorem bgeu : ∀ a b c, Statement (.bgeu a b c) := fun _ _ _ => encoding_holds _
theorem jal : ∀ a b, Statement (.jal a b) := fun _ _ => encoding_holds _
theorem jalr : ∀ a b c, Statement (.jalr a b c) := fun _ _ _ => encoding_holds _
theorem pbr : ∀ a b, Statement (.pbr a b) := fun _ _ => encoding_holds _
theorem bj : ∀ a, Statement (.bj a) := fun _ => encoding_holds _
theorem bjz : ∀ a b, Statement (.bjz a b) := fun _ _ => encoding_holds _
theorem bjnz : ∀ a b, Statement (.bjnz a b) := fun _ _ => encoding_holds _
theorem loop : ∀ a b c, Statement (.loop a b c) := fun _ _ _ => encoding_holds _
theorem loopi : ∀ a b c, Statement (.loopi a b c) := fun _ _ _ => encoding_holds _
theorem lclr : ∀ a, Statement (.lclr a) := fun _ => encoding_holds _
theorem vld : ∀ a b c d e, Statement (.vld a b c d e) := fun _ _ _ _ _ => encoding_holds _
theorem vst : ∀ a b c d e, Statement (.vst a b c d e) := fun _ _ _ _ _ => encoding_holds _
theorem vlds : ∀ a b c d e, Statement (.vlds a b c d e) := fun _ _ _ _ _ => encoding_holds _
theorem vsts : ∀ a b c d e, Statement (.vsts a b c d e) := fun _ _ _ _ _ => encoding_holds _
theorem vgather : ∀ a b c d e, Statement (.vgather a b c d e) := fun _ _ _ _ _ => encoding_holds _
theorem vscatter : ∀ a b c d e, Statement (.vscatter a b c d e) := fun _ _ _ _ _ => encoding_holds _
theorem vldb : ∀ a b c d e, Statement (.vldb a b c d e) := fun _ _ _ _ _ => encoding_holds _
theorem vadd : ∀ a b c d e, Statement (.vadd a b c d e) := fun _ _ _ _ _ => encoding_holds _
theorem vsub : ∀ a b c d e, Statement (.vsub a b c d e) := fun _ _ _ _ _ => encoding_holds _
theorem vmul : ∀ a b c d e, Statement (.vmul a b c d e) := fun _ _ _ _ _ => encoding_holds _
theorem vmulh : ∀ a b c d e, Statement (.vmulh a b c d e) := fun _ _ _ _ _ => encoding_holds _
theorem vmin : ∀ a b c d e, Statement (.vmin a b c d e) := fun _ _ _ _ _ => encoding_holds _
theorem vmax : ∀ a b c d e, Statement (.vmax a b c d e) := fun _ _ _ _ _ => encoding_holds _
theorem vabs : ∀ a b c d, Statement (.vabs a b c d) := fun _ _ _ _ => encoding_holds _
theorem vand : ∀ a b c d e, Statement (.vand a b c d e) := fun _ _ _ _ _ => encoding_holds _
theorem vor : ∀ a b c d e, Statement (.vor a b c d e) := fun _ _ _ _ _ => encoding_holds _
theorem vxor : ∀ a b c d e, Statement (.vxor a b c d e) := fun _ _ _ _ _ => encoding_holds _
theorem vsll : ∀ a b c d e, Statement (.vsll a b c d e) := fun _ _ _ _ _ => encoding_holds _
theorem vsrl : ∀ a b c d e, Statement (.vsrl a b c d e) := fun _ _ _ _ _ => encoding_holds _
theorem vsra : ∀ a b c d e, Statement (.vsra a b c d e) := fun _ _ _ _ _ => encoding_holds _
theorem vcmpeq : ∀ a b c d e, Statement (.vcmpeq a b c d e) := fun _ _ _ _ _ => encoding_holds _
theorem vcmplt : ∀ a b c d e, Statement (.vcmplt a b c d e) := fun _ _ _ _ _ => encoding_holds _
theorem vsel : ∀ a b c d e, Statement (.vsel a b c d e) := fun _ _ _ _ _ => encoding_holds _
theorem vfadd : ∀ a b c d e, Statement (.vfadd a b c d e) := fun _ _ _ _ _ => encoding_holds _
theorem vfsub : ∀ a b c d e, Statement (.vfsub a b c d e) := fun _ _ _ _ _ => encoding_holds _
theorem vfmul : ∀ a b c d e, Statement (.vfmul a b c d e) := fun _ _ _ _ _ => encoding_holds _
theorem vfma : ∀ a b c d e, Statement (.vfma a b c d e) := fun _ _ _ _ _ => encoding_holds _
theorem vfms : ∀ a b c d e, Statement (.vfms a b c d e) := fun _ _ _ _ _ => encoding_holds _
theorem vfmin : ∀ a b c d e, Statement (.vfmin a b c d e) := fun _ _ _ _ _ => encoding_holds _
theorem vfmax : ∀ a b c d e, Statement (.vfmax a b c d e) := fun _ _ _ _ _ => encoding_holds _
theorem vfabs : ∀ a b c d, Statement (.vfabs a b c d) := fun _ _ _ _ => encoding_holds _
theorem vfneg : ∀ a b c d, Statement (.vfneg a b c d) := fun _ _ _ _ => encoding_holds _
theorem vfcmpeq : ∀ a b c d e, Statement (.vfcmpeq a b c d e) := fun _ _ _ _ _ => encoding_holds _
theorem vfcmplt : ∀ a b c d e, Statement (.vfcmplt a b c d e) := fun _ _ _ _ _ => encoding_holds _
theorem vfcmple : ∀ a b c d e, Statement (.vfcmple a b c d e) := fun _ _ _ _ _ => encoding_holds _
theorem vrsqrt : ∀ a b c d, Statement (.vrsqrt a b c d) := fun _ _ _ _ => encoding_holds _
theorem vrecip : ∀ a b c d, Statement (.vrecip a b c d) := fun _ _ _ _ => encoding_holds _
theorem vsqrt : ∀ a b c d, Statement (.vsqrt a b c d) := fun _ _ _ _ => encoding_holds _
theorem vexp2 : ∀ a b c d, Statement (.vexp2 a b c d) := fun _ _ _ _ => encoding_holds _
theorem vperm : ∀ a b c d e, Statement (.vperm a b c d e) := fun _ _ _ _ _ => encoding_holds _
theorem vshuf : ∀ a b c d e, Statement (.vshuf a b c d e) := fun _ _ _ _ _ => encoding_holds _
theorem vbcast : ∀ a b c d e, Statement (.vbcast a b c d e) := fun _ _ _ _ _ => encoding_holds _
theorem vslideup : ∀ a b c d e, Statement (.vslideup a b c d e) := fun _ _ _ _ _ => encoding_holds _
theorem vslidedn : ∀ a b c d e, Statement (.vslidedn a b c d e) := fun _ _ _ _ _ => encoding_holds _
theorem vzip : ∀ a b c d e, Statement (.vzip a b c d e) := fun _ _ _ _ _ => encoding_holds _
theorem vunzip : ∀ a b c d e, Statement (.vunzip a b c d e) := fun _ _ _ _ _ => encoding_holds _
theorem vcvt : ∀ a b c d e f, Statement (.vcvt a b c d e f) := fun _ _ _ _ _ _ => encoding_holds _
theorem vpack : ∀ a b c d e, Statement (.vpack a b c d e) := fun _ _ _ _ _ => encoding_holds _
theorem vwiden : ∀ a b c d e, Statement (.vwiden a b c d e) := fun _ _ _ _ _ => encoding_holds _
theorem vredsum : ∀ a b c d, Statement (.vredsum a b c d) := fun _ _ _ _ => encoding_holds _
theorem vredmax : ∀ a b c d, Statement (.vredmax a b c d) := fun _ _ _ _ => encoding_holds _
theorem vredmin : ∀ a b c d, Statement (.vredmin a b c d) := fun _ _ _ _ => encoding_holds _
theorem vinsy : ∀ a b c d, Statement (.vinsy a b c d) := fun _ _ _ _ => encoding_holds _
theorem vexty : ∀ a b c d, Statement (.vexty a b c d) := fun _ _ _ _ => encoding_holds _
theorem vsplat : ∀ a b c d, Statement (.vsplat a b c d) := fun _ _ _ _ => encoding_holds _
theorem mand : ∀ a b c, Statement (.mand a b c) := fun _ _ _ => encoding_holds _
theorem mor : ∀ a b c, Statement (.mor a b c) := fun _ _ _ => encoding_holds _
theorem mxor : ∀ a b c, Statement (.mxor a b c) := fun _ _ _ => encoding_holds _
theorem mnot : ∀ a b, Statement (.mnot a b) := fun _ _ => encoding_holds _
theorem mpop : ∀ a b, Statement (.mpop a b) := fun _ _ => encoding_holds _
theorem mfirst : ∀ a b, Statement (.mfirst a b) := fun _ _ => encoding_holds _
theorem fadd : ∀ a b c d, Statement (.fadd a b c d) := fun _ _ _ _ => encoding_holds _
theorem fsub : ∀ a b c d, Statement (.fsub a b c d) := fun _ _ _ _ => encoding_holds _
theorem fmul : ∀ a b c d, Statement (.fmul a b c d) := fun _ _ _ _ => encoding_holds _
theorem fdiv : ∀ a b c d, Statement (.fdiv a b c d) := fun _ _ _ _ => encoding_holds _
theorem fsqrt : ∀ a b c, Statement (.fsqrt a b c) := fun _ _ _ => encoding_holds _
theorem fmin : ∀ a b c d, Statement (.fmin a b c d) := fun _ _ _ _ => encoding_holds _
theorem fmax : ∀ a b c d, Statement (.fmax a b c d) := fun _ _ _ _ => encoding_holds _
theorem fmadd : ∀ a b c d, Statement (.fmadd a b c d) := fun _ _ _ _ => encoding_holds _
theorem fcmp : ∀ a b c d e, Statement (.fcmp a b c d e) := fun _ _ _ _ _ => encoding_holds _
theorem fcvt : ∀ a b c d e f, Statement (.fcvt a b c d e f) := fun _ _ _ _ _ _ => encoding_holds _
theorem fclass : ∀ a b c, Statement (.fclass a b c) := fun _ _ _ => encoding_holds _
theorem mcfg : ∀ a, Statement (.mcfg a) := fun _ => encoding_holds _
theorem mldb : ∀ a b, Statement (.mldb a b) := fun _ _ => encoding_holds _
theorem mma : ∀ a b c, Statement (.mma a b c) := fun _ _ _ => encoding_holds _
theorem mrot : Statement .mrot := encoding_holds _
theorem mscale : ∀ a b, Statement (.mscale a b) := fun _ _ => encoding_holds _
theorem mzero : ∀ a b, Statement (.mzero a b) := fun _ _ => encoding_holds _
theorem mrdacc : ∀ a b c, Statement (.mrdacc a b c) := fun _ _ _ => encoding_holds _
theorem mwracc : ∀ a b c, Statement (.mwracc a b c) := fun _ _ _ => encoding_holds _
theorem mcmd : ∀ a, Statement (.mcmd a) := fun _ => encoding_holds _
theorem mstat : ∀ a, Statement (.mstat a) := fun _ => encoding_holds _
theorem eclr : ∀ a, Statement (.eclr a) := fun _ => encoding_holds _
theorem eins : ∀ a b c, Statement (.eins a b c) := fun _ _ _ => encoding_holds _
theorem eld : ∀ a b c, Statement (.eld a b c) := fun _ _ _ => encoding_holds _
theorem est : ∀ a b, Statement (.est a b) := fun _ _ => encoding_holds _
theorem emax : ∀ a b c, Statement (.emax a b c) := fun _ _ _ => encoding_holds _
theorem eadd : ∀ a b c, Statement (.eadd a b c) := fun _ _ _ => encoding_holds _
theorem einf : ∀ a b c, Statement (.einf a b c) := fun _ _ _ => encoding_holds _
theorem econj : ∀ a b, Statement (.econj a b) := fun _ _ => encoding_holds _
theorem eeval : ∀ a b c, Statement (.eeval a b c) := fun _ _ _ => encoding_holds _
theorem ecnt : ∀ a b, Statement (.ecnt a b) := fun _ _ => encoding_holds _
theorem scfg : ∀ a, Statement (.scfg a) := fun _ => encoding_holds _
theorem slocal : ∀ a b, Statement (.slocal a b) := fun _ _ => encoding_holds _
theorem spass : ∀ a, Statement (.spass a) := fun _ => encoding_holds _
theorem sapply : ∀ a b, Statement (.sapply a b) := fun _ _ => encoding_holds _
theorem sclose : Statement .sclose := encoding_holds _
theorem swait : ∀ a, Statement (.swait a) := fun _ => encoding_holds _
theorem sndh : ∀ a b, Statement (.sndh a b) := fun _ _ => encoding_holds _
theorem snd : ∀ a b, Statement (.snd a b) := fun _ _ => encoding_holds _
theorem rcv : ∀ a b, Statement (.rcv a b) := fun _ _ => encoding_holds _
theorem rcvn : ∀ a b, Statement (.rcvn a b) := fun _ _ => encoding_holds _
theorem wmsg : Statement .wmsg := encoding_holds _
theorem mbxpop : ∀ a b, Statement (.mbxpop a b) := fun _ _ => encoding_holds _
theorem cpset : ∀ a b, Statement (.cpset a b) := fun _ _ => encoding_holds _
theorem cplaunch : ∀ a, Statement (.cplaunch a) := fun _ => encoding_holds _
theorem cpstat : ∀ a b, Statement (.cpstat a b) := fun _ _ => encoding_holds _
theorem wait : Statement .wait := encoding_holds _
theorem waitv : ∀ a b, Statement (.waitv a b) := fun _ _ => encoding_holds _
theorem fence : ∀ a b, Statement (.fence a b) := fun _ _ => encoding_holds _
theorem fwait : ∀ a, Statement (.fwait a) := fun _ => encoding_holds _
theorem amoadd : ∀ a b c d, Statement (.amoadd a b c d) := fun _ _ _ _ => encoding_holds _
theorem amoand : ∀ a b c d, Statement (.amoand a b c d) := fun _ _ _ _ => encoding_holds _
theorem amoor : ∀ a b c d, Statement (.amoor a b c d) := fun _ _ _ _ => encoding_holds _
theorem amoxor : ∀ a b c d, Statement (.amoxor a b c d) := fun _ _ _ _ => encoding_holds _
theorem amomin : ∀ a b c d, Statement (.amomin a b c d) := fun _ _ _ _ => encoding_holds _
theorem amomax : ∀ a b c d, Statement (.amomax a b c d) := fun _ _ _ _ => encoding_holds _
theorem amoswap : ∀ a b c d, Statement (.amoswap a b c d) := fun _ _ _ _ => encoding_holds _
theorem amocas : ∀ a b c d, Statement (.amocas a b c d) := fun _ _ _ _ => encoding_holds _
theorem damoadd : ∀ a b c d, Statement (.damoadd a b c d) := fun _ _ _ _ => encoding_holds _
theorem damomin : ∀ a b c d, Statement (.damomin a b c d) := fun _ _ _ _ => encoding_holds _
theorem damomax : ∀ a b c d, Statement (.damomax a b c d) := fun _ _ _ _ => encoding_holds _
theorem next : ∀ a, Statement (.next a) := fun _ => encoding_holds _
theorem tdone : Statement .tdone := encoding_holds _
theorem mfs : ∀ a b, Statement (.mfs a b) := fun _ _ => encoding_holds _
theorem mts : ∀ a b, Statement (.mts a b) := fun _ _ => encoding_holds _
theorem ecall : Statement .ecall := encoding_holds _
theorem eret : Statement .eret := encoding_holds _
theorem brk : Statement .brk := encoding_holds _
theorem idle : Statement .idle := encoding_holds _
theorem halt : Statement .halt := encoding_holds _
theorem frameinv : ∀ a, Statement (.frameinv a) := fun _ => encoding_holds _
theorem rqRegionWrite : ∀ a b c d, Statement (.rqRegionWrite a b c d) := fun _ _ _ _ => encoding_holds _
theorem tickcmpWrite : ∀ a b, Statement (.tickcmpWrite a b) := fun _ _ => encoding_holds _
theorem capreqWrite : ∀ a b, Statement (.capreqWrite a b) := fun _ _ => encoding_holds _
theorem capabilityMinted : ∀ a, Statement (.capabilityMinted a) := fun _ => encoding_holds _
theorem queueRearm : ∀ a b, Statement (.queueRearm a b) := fun _ _ => encoding_holds _
theorem mailboxRearm : ∀ a, Statement (.mailboxRearm a) := fun _ => encoding_holds _
theorem overflowAreaRestart : ∀ a, Statement (.overflowAreaRestart a) := fun _ => encoding_holds _
theorem lostClear : ∀ a, Statement (.lostClear a) := fun _ => encoding_holds _
theorem intpendClear : ∀ a b, Statement (.intpendClear a b) := fun _ _ => encoding_holds _
theorem merrlogClear : ∀ a b, Statement (.merrlogClear a b) := fun _ _ => encoding_holds _
theorem delayedLoopWriteLand : ∀ a, Statement (.delayedLoopWriteLand a) := fun _ => encoding_holds _
theorem interruptTake : ∀ a, Statement (.interruptTake a) := fun _ => encoding_holds _
theorem engineCommandStart : ∀ a b, Statement (.engineCommandStart a b) := fun _ _ => encoding_holds _
theorem matrixCommandComplete : ∀ a, Statement (.matrixCommandComplete a) := fun _ => encoding_holds _
theorem rotationSendArrival : ∀ a, Statement (.rotationSendArrival a) := fun _ => encoding_holds _
theorem rotationSwap : ∀ a, Statement (.rotationSwap a) := fun _ => encoding_holds _
theorem ringCreditArrival : ∀ a, Statement (.ringCreditArrival a) := fun _ => encoding_holds _
theorem mcmdRecordArrival : ∀ a, Statement (.mcmdRecordArrival a) := fun _ => encoding_holds _
theorem envelopeCommandComplete : ∀ a, Statement (.envelopeCommandComplete a) := fun _ => encoding_holds _
theorem scanCommandComplete : ∀ a, Statement (.scanCommandComplete a) := fun _ => encoding_holds _
theorem carryArrival : ∀ a, Statement (.carryArrival a) := fun _ => encoding_holds _
theorem spassComplete : ∀ a, Statement (.spassComplete a) := fun _ => encoding_holds _
theorem scloseComplete : ∀ a, Statement (.scloseComplete a) := fun _ => encoding_holds _
theorem chainRelease : ∀ a b, Statement (.chainRelease a b) := fun _ _ => encoding_holds _
theorem cueEntryFetch : ∀ a b, Statement (.cueEntryFetch a b) := fun _ _ => encoding_holds _
theorem barrierFire : ∀ a b c, Statement (.barrierFire a b c) := fun _ _ _ => encoding_holds _
theorem readyReport : ∀ a b c, Statement (.readyReport a b c) := fun _ _ _ => encoding_holds _
theorem readyReportArrival : ∀ a, Statement (.readyReportArrival a) := fun _ => encoding_holds _
theorem barrierRelease : ∀ a b, Statement (.barrierRelease a b) := fun _ _ => encoding_holds _
theorem pkgReadyReport : ∀ a, Statement (.pkgReadyReport a) := fun _ => encoding_holds _
theorem pkgRelease : ∀ a b, Statement (.pkgRelease a b) := fun _ _ => encoding_holds _
theorem gangBoundaryCommit : ∀ a, Statement (.gangBoundaryCommit a) := fun _ => encoding_holds _
theorem taskMerge : ∀ a, Statement (.taskMerge a) := fun _ => encoding_holds _
theorem gangBoundaryPublish : ∀ a, Statement (.gangBoundaryPublish a) := fun _ => encoding_holds _
theorem damoRequestRecord : ∀ a, Statement (.damoRequestRecord a) := fun _ => encoding_holds _
theorem barrierStallEvent : ∀ a, Statement (.barrierStallEvent a) := fun _ => encoding_holds _
theorem longReceiveEvent : ∀ a, Statement (.longReceiveEvent a) := fun _ => encoding_holds _
theorem packetArrival : ∀ a, Statement (.packetArrival a) := fun _ => encoding_holds _
theorem retryResend : ∀ a, Statement (.retryResend a) := fun _ => encoding_holds _
theorem packetAckArrival : ∀ a, Statement (.packetAckArrival a) := fun _ => encoding_holds _
theorem streamSlotReturn : ∀ a, Statement (.streamSlotReturn a) := fun _ => encoding_holds _
theorem noteArrival : ∀ a, Statement (.noteArrival a) := fun _ => encoding_holds _
theorem localMailboxDelivery : ∀ a, Statement (.localMailboxDelivery a) := fun _ => encoding_holds _
theorem escapeMove : ∀ a, Statement (.escapeMove a) := fun _ => encoding_holds _
theorem parkedReinject : ∀ a, Statement (.parkedReinject a) := fun _ => encoding_holds _
theorem remoteStoreArrival : ∀ a, Statement (.remoteStoreArrival a) := fun _ => encoding_holds _
theorem remoteStoreAck : ∀ a, Statement (.remoteStoreAck a) := fun _ => encoding_holds _
theorem refusalArrival : ∀ a, Statement (.refusalArrival a) := fun _ => encoding_holds _
theorem remoteLoadArrival : ∀ a, Statement (.remoteLoadArrival a) := fun _ => encoding_holds _
theorem remoteLoadResponse : ∀ a, Statement (.remoteLoadResponse a) := fun _ => encoding_holds _
theorem globalLoadResponse : ∀ a b, Statement (.globalLoadResponse a b) := fun _ _ => encoding_holds _
theorem amoAction : ∀ a, Statement (.amoAction a) := fun _ => encoding_holds _
theorem amoResponse : ∀ a, Statement (.amoResponse a) := fun _ => encoding_holds _
theorem copyStart : ∀ a b, Statement (.copyStart a b) := fun _ _ => encoding_holds _
theorem copyComplete : ∀ a b, Statement (.copyComplete a b) := fun _ _ => encoding_holds _
theorem translationWalk : ∀ a b c, Statement (.translationWalk a b c) := fun _ _ _ => encoding_holds _
theorem walkComplete : ∀ a b, Statement (.walkComplete a b) := fun _ _ => encoding_holds _
theorem invalidationAck : ∀ a, Statement (.invalidationAck a) := fun _ => encoding_holds _
theorem serviceShootdown : ∀ a b, Statement (.serviceShootdown a b) := fun _ _ => encoding_holds _
theorem fwaitDone : ∀ a, Statement (.fwaitDone a) := fun _ => encoding_holds _
theorem rcvWake : ∀ a, Statement (.rcvWake a) := fun _ => encoding_holds _
theorem wmsgWake : ∀ a, Statement (.wmsgWake a) := fun _ => encoding_holds _
theorem idleWake : ∀ a, Statement (.idleWake a) := fun _ => encoding_holds _
theorem gangStart : ∀ a, Statement (.gangStart a) := fun _ => encoding_holds _
theorem timeSliceEnd : ∀ a, Statement (.timeSliceEnd a) := fun _ => encoding_holds _
theorem gangSwitchStop : ∀ a, Statement (.gangSwitchStop a) := fun _ => encoding_holds _
theorem switchPark : ∀ a, Statement (.switchPark a) := fun _ => encoding_holds _
theorem gangResume : ∀ a, Statement (.gangResume a) := fun _ => encoding_holds _
theorem sliceAbort : ∀ a, Statement (.sliceAbort a) := fun _ => encoding_holds _
theorem uncorrectableConsumption : ∀ a b c, Statement (.uncorrectableConsumption a b c) := fun _ _ _ => encoding_holds _
theorem rollbackStop : ∀ a, Statement (.rollbackStop a) := fun _ => encoding_holds _
theorem rollbackResume : ∀ a, Statement (.rollbackResume a) := fun _ => encoding_holds _
theorem serialReexecution : ∀ a, Statement (.serialReexecution a) := fun _ => encoding_holds _
theorem touchmarkExchange : ∀ a, Statement (.touchmarkExchange a) := fun _ => encoding_holds _
theorem touchmarkArrival : ∀ a, Statement (.touchmarkArrival a) := fun _ => encoding_holds _
theorem patternApply : ∀ a b, Statement (.patternApply a b) := fun _ _ => encoding_holds _
theorem rampStep : ∀ a, Statement (.rampStep a) := fun _ => encoding_holds _
theorem rampEnd : ∀ a, Statement (.rampEnd a) := fun _ => encoding_holds _
theorem temperatureRead : ∀ a b, Statement (.temperatureRead a b) := fun _ _ => encoding_holds _
theorem thermalThrottleStep : ∀ a, Statement (.thermalThrottleStep a) := fun _ => encoding_holds _
theorem migrationStart : ∀ a, Statement (.migrationStart a) := fun _ => encoding_holds _
theorem migrationResume : ∀ a, Statement (.migrationResume a) := fun _ => encoding_holds _
theorem wearCharge : ∀ a b c, Statement (.wearCharge a b c) := fun _ _ _ => encoding_holds _
theorem monitorRead : ∀ a b c d, Statement (.monitorRead a b c d) := fun _ _ _ _ => encoding_holds _
theorem frameRetire : ∀ a b, Statement (.frameRetire a b) := fun _ _ => encoding_holds _
theorem frameLineCopy : ∀ a b c, Statement (.frameLineCopy a b c) := fun _ _ _ => encoding_holds _
theorem mirrorClear : ∀ a b, Statement (.mirrorClear a b) := fun _ _ => encoding_holds _
theorem memoryScrubError : ∀ a b c d, Statement (.memoryScrubError a b c d) := fun _ _ _ _ => encoding_holds _
theorem attest : ∀ a b c, Statement (.attest a b c) := fun _ _ _ => encoding_holds _
theorem partitionCreate : ∀ a b, Statement (.partitionCreate a b) := fun _ _ => encoding_holds _
theorem partitionResize : ∀ a b, Statement (.partitionResize a b) := fun _ _ => encoding_holds _
theorem partitionDelete : ∀ a, Statement (.partitionDelete a) := fun _ => encoding_holds _
theorem partitionRoot : ∀ a b, Statement (.partitionRoot a b) := fun _ _ => encoding_holds _
theorem partitionPattern : ∀ a b c d e, Statement (.partitionPattern a b c d e) := fun _ _ _ _ _ => encoding_holds _
theorem load : ∀ a b c d, Statement (.load a b c d) := fun _ _ _ _ => encoding_holds _
theorem launch : ∀ a b c d e f g, Statement (.launch a b c d e f g) := fun _ _ _ _ _ _ _ => encoding_holds _
theorem preemptStop : ∀ a b c, Statement (.preemptStop a b c) := fun _ _ _ => encoding_holds _
theorem preemptResume : ∀ a b c, Statement (.preemptResume a b c) := fun _ _ _ => encoding_holds _
theorem queryTrace : ∀ a, Statement (.queryTrace a) := fun _ => encoding_holds _
theorem queryAssay : ∀ a, Statement (.queryAssay a) := fun _ => encoding_holds _
theorem queryErrorLog : ∀ a, Statement (.queryErrorLog a) := fun _ => encoding_holds _
theorem queryEventCounts : ∀ a, Statement (.queryEventCounts a) := fun _ => encoding_holds _
theorem resync : ∀ a, Statement (.resync a) := fun _ => encoding_holds _
theorem freeze : ∀ a b, Statement (.freeze a b) := fun _ _ => encoding_holds _
theorem shutdownImmediate : ∀ a, Statement (.shutdownImmediate a) := fun _ => encoding_holds _
theorem shutdownAtBoundary : ∀ a, Statement (.shutdownAtBoundary a) := fun _ => encoding_holds _
theorem coordinatorFailover : ∀ a, Statement (.coordinatorFailover a) := fun _ => encoding_holds _
theorem boot : ∀ a b c d, Statement (.boot a b c d) := fun _ _ _ _ => encoding_holds _
theorem tapReadout : ∀ a, Statement (.tapReadout a) := fun _ => encoding_holds _
theorem tickCompare : ∀ a, Statement (.tickCompare a) := fun _ => encoding_holds _
theorem ieee1588Sync : ∀ a, Statement (.ieee1588Sync a) := fun _ => encoding_holds _
theorem dieRestart : ∀ a, Statement (.dieRestart a) := fun _ => encoding_holds _

end Sys2Proof.Laws.Encoding
end

