-- ==== Sys2Proof/Tests/Slice0.lean ====
section
/-! SUPPORT. Tests/Slice0: ill-formed terms that WellFormed refuses, words written out from the encoding tables of
12_instruction_formats_and_opcode_map, and one-step tests whose expected values come from the spec's examples or from hand calculation. -/

open Sys2Proof.Machine

namespace Sys2Proof.Tests

set_option Elab.async false

/-! ## WellFormed refuses (R48, R203, R210 to R219) -/

theorem test_wf_x_source : (Instr.add 1 28 2).wf = false ∧ (Instr.add 1 2 29).wf = false ∧ (Instr.lb 1 28 0).wf = false ∧ (Instr.sd 29 1 0).wf = false ∧
    (Instr.beq 28 0 4).wf = false ∧ (Instr.jalr 1 29 0).wf = false ∧ (Instr.bjz 0 28).wf = false ∧ (Instr.sel 28 1 2).wf = false := by decide
theorem test_wf_x_dest : (Instr.add 30 1 2).wf = false ∧ (Instr.lui 31 0).wf = false ∧ (Instr.jal 30 4).wf = false ∧ (Instr.rcv 31 0).wf = false ∧
    (Instr.mbxpop 1 30).wf = false ∧ (Instr.cplaunch 30).wf = false ∧ (Instr.amocas .w32 28 1 2).wf = false := by decide
theorem test_wf_y : (Instr.fadd .f32 1 12 2).wf = false ∧ (Instr.fadd .f32 14 1 2).wf = false ∧ (Instr.lbY 15 1 0).wf = false ∧
    (Instr.sbY 13 1 0).wf = false ∧ (Instr.vbcast .i8 0 1 2 12).wf = false ∧ (Instr.mpop 14 1).wf = false ∧ (Instr.fmadd .f32 13 1 2).wf = false ∧
    (Instr.mcfg 12).wf = false ∧ (Instr.est 0 13).wf = false ∧ (Instr.scfg 12).wf = false := by decide
theorem test_wf_scalar : (Instr.mfs (.x 30) 1).wf = false ∧ (Instr.mfs (.y 15) 1).wf = false ∧ (Instr.mts 8 (.x 28)).wf = false ∧
    (Instr.mts 8 (.y 13)).wf = false := by decide
theorem test_wf_type : (Instr.vadd .f32 0 1 2 3).wf = false ∧ (Instr.vfadd .i32 0 1 2 3).wf = false ∧ (Instr.vexp2 .f64 0 1 2).wf = false ∧
    (Instr.vpack .i8 0 1 2 3).wf = false ∧ (Instr.vpack .bf16 0 1 2 3).wf = false ∧ (Instr.vwiden .i64 0 1 2 false).wf = false ∧
    (Instr.vwiden .f64 0 1 2 true).wf = false ∧ (Instr.vinsy .bf16 1 2 3).wf = false ∧ (Instr.vexty .bf16 1 2 3).wf = false ∧
    (Instr.vsplat .bf16 0 1 2).wf = false ∧ (Instr.fadd .bf16 1 2 3).wf = false ∧ (Instr.fcmp .i32 .eq 1 2 3).wf = false := by decide
theorem test_wf_convert : (Instr.vcvt .f32 .f32 .rne false 1 2).wf = false ∧ (Instr.vcvt .e8m0 .f32 .rne false 1 2).wf = false ∧
    (Instr.vcvt .i8 .e8m0 .rne false 1 2).wf = false ∧ (Instr.vcvt .f32 .e8m0 .rne false 1 2).wf = true ∧
    (Instr.fcvt .f32 .f32 .rne false 1 2).wf = false := by decide
theorem test_wf_value : (Instr.loop .zero 1 0).wf = false ∧ (Instr.loopi .one 3 0).wf = false ∧ (Instr.cpset 7 1).wf = false ∧
    (Instr.fence 1 0).wf = false ∧ (Instr.next 0).wf = false ∧ (Instr.next 27).wf = false ∧ (Instr.next 26).wf = true := by decide

/-! ## Words written out from the encoding tables (f7 rs2 rs1 f3 rd S MAJ) -/

/-- Whether each word decodes to the instruction beside it, and that instruction encodes to it. -/
def reads (l : List (IWord × Instr)) : Bool := l.all fun e => (decode e.1).toOption == some e.2 && encode e.2 == some e.1

theorem test_decode_load : reads [
    (0b1010010_10011_01001_000_10011_0_000001#32, .lb 19 9 0xa53),
    (0b1010010_10011_01001_001_10011_0_000001#32, .lh 19 9 0xa53),
    (0b1010010_10011_01001_010_10011_0_000001#32, .lw 19 9 0xa53),
    (0b1010010_10011_01001_011_10011_0_000001#32, .ld 19 9 0xa53),
    (0b1010010_10011_01001_100_10011_0_000001#32, .lbu 19 9 0xa53),
    (0b1010010_10011_01001_101_10011_0_000001#32, .lhu 19 9 0xa53),
    (0b1010010_10011_01001_110_10011_0_000001#32, .lwu 19 9 0xa53)] = true := by decide
theorem test_decode_store : reads [
    (0b1010010_10110_01001_000_10011_0_000010#32, .sb 22 9 0xa53),
    (0b1010010_10110_01001_001_10011_0_000010#32, .sh 22 9 0xa53),
    (0b1010010_10110_01001_010_10011_0_000010#32, .sw 22 9 0xa53),
    (0b1010010_10110_01001_011_10011_0_000010#32, .sd 22 9 0xa53)] = true := by decide
theorem test_decode_vmem_a : reads [
    (0b1000101_10110_01001_000_01011_0_001100#32, .lbY 11 9 0xb6),
    (0b1000101_10110_01001_001_01011_0_001100#32, .lhY 11 9 0xb6),
    (0b1000101_10110_01001_010_01011_0_001100#32, .lwY 11 9 0xb6),
    (0b1000101_10110_01001_011_01011_0_001100#32, .ldY 11 9 0xb6),
    (0b1000101_10110_01001_100_01011_0_001100#32, .lbuY 11 9 0xb6),
    (0b1000101_10110_01001_101_01011_0_001100#32, .lhuY 11 9 0xb6),
    (0b1000101_10110_01001_110_01011_0_001100#32, .lwuY 11 9 0xb6),
    (0b1001101_10110_01001_000_01011_0_001100#32, .sbY 11 9 0xb6),
    (0b1001101_10110_01001_001_01011_0_001100#32, .shY 11 9 0xb6),
    (0b1001101_10110_01001_010_01011_0_001100#32, .swY 11 9 0xb6),
    (0b1001101_10110_01001_011_01011_0_001100#32, .sdY 11 9 0xb6),
    (0b0000101_10101_01001_001_10101_0_001100#32, .vld .i16 5 21 9 0x15),
    (0b0001101_10101_01001_001_10101_0_001100#32, .vst .i16 5 21 9 0x15),
    (0b0010101_10110_01001_001_10101_0_001100#32, .vlds .i16 5 21 9 22),
    (0b0011101_10110_01001_001_10101_0_001100#32, .vsts .i16 5 21 9 22),
    (0b0100101_11101_01001_001_10101_0_001100#32, .vgather .i16 5 21 9 29)] = true := by decide
theorem test_decode_vmem_b : reads [
    (0b0101101_11101_01001_001_10101_0_001100#32, .vscatter .i16 5 21 9 29),
    (0b0110101_10101_01001_001_10101_0_001100#32, .vldb .i16 5 21 9 0x15)] = true := by decide
theorem test_decode_opimm : reads [
    (0b1010010_10011_01001_000_10011_0_000011#32, .addi 19 9 0xa53),
    (0b0000001_01011_01001_001_10011_0_000011#32, .slli 19 9 0x2B),
    (0b0000011_01011_01001_001_10011_0_000011#32, .srli 19 9 0x2B),
    (0b0000101_01011_01001_001_10011_0_000011#32, .srai 19 9 0x2B),
    (0b1010010_10011_01001_010_10011_0_000011#32, .slti 19 9 0xa53),
    (0b1010010_10011_01001_011_10011_0_000011#32, .sltiu 19 9 0xa53),
    (0b1010010_10011_01001_100_10011_0_000011#32, .xori 19 9 0xa53),
    (0b1010010_10011_01001_101_10011_0_000011#32, .ori 19 9 0xa53),
    (0b1010010_10011_01001_110_10011_0_000011#32, .andi 19 9 0xa53),
    (0b1010010_10011_01001_111_10011_0_000011#32, .addiw 19 9 0xa53)] = true := by decide
theorem test_decode_op_a : reads [
    (0b0000000_10110_01001_000_10011_0_000100#32, .add 19 9 22),
    (0b0000001_10110_01001_000_10011_0_000100#32, .sub 19 9 22),
    (0b0000010_10110_01001_000_10011_0_000100#32, .and 19 9 22),
    (0b0000011_10110_01001_000_10011_0_000100#32, .or 19 9 22),
    (0b0000100_10110_01001_000_10011_0_000100#32, .xor 19 9 22),
    (0b0000101_10110_01001_000_10011_0_000100#32, .sll 19 9 22),
    (0b0000110_10110_01001_000_10011_0_000100#32, .srl 19 9 22),
    (0b0000111_10110_01001_000_10011_0_000100#32, .sra 19 9 22),
    (0b0001000_10110_01001_000_10011_0_000100#32, .slt 19 9 22),
    (0b0001001_10110_01001_000_10011_0_000100#32, .sltu 19 9 22),
    (0b0001010_10110_01001_000_10011_0_000100#32, .min 19 9 22),
    (0b0001011_10110_01001_000_10011_0_000100#32, .max 19 9 22),
    (0b0001100_10110_01001_000_10011_0_000100#32, .minu 19 9 22),
    (0b0001101_10110_01001_000_10011_0_000100#32, .maxu 19 9 22),
    (0b0001110_10110_01001_000_10011_0_000100#32, .mul 19 9 22),
    (0b0001111_10110_01001_000_10011_0_000100#32, .mulh 19 9 22)] = true := by decide
theorem test_decode_op_b : reads [
    (0b0010000_10110_01001_000_10011_0_000100#32, .mulhu 19 9 22),
    (0b0010001_10110_01001_000_10011_0_000100#32, .div 19 9 22),
    (0b0010010_10110_01001_000_10011_0_000100#32, .divu 19 9 22),
    (0b0010011_10110_01001_000_10011_0_000100#32, .rem 19 9 22),
    (0b0010100_10110_01001_000_10011_0_000100#32, .remu 19 9 22),
    (0b0010101_10110_01001_000_10011_0_000100#32, .addw 19 9 22),
    (0b0010110_10110_01001_000_10011_0_000100#32, .subw 19 9 22),
    (0b0010111_10110_01001_000_10011_0_000100#32, .sllw 19 9 22),
    (0b0011000_10110_01001_000_10011_0_000100#32, .srlw 19 9 22),
    (0b0011001_10110_01001_000_10011_0_000100#32, .sraw 19 9 22),
    (0b0011010_00000_01001_000_10011_0_000100#32, .clz 19 9),
    (0b0011011_00000_01001_000_10011_0_000100#32, .ctz 19 9),
    (0b0011100_00000_01001_000_10011_0_000100#32, .cnt 19 9),
    (0b0011101_10110_01001_000_10011_0_000100#32, .sel 19 9 22)] = true := by decide
theorem test_decode_upper : reads [
    (0b1010010_11100_00110_001_10011_0_000101#32, .lui 19 0xa5c31),
    (0b1010010_11100_00110_001_10011_0_000110#32, .auipc 19 0xa5c31)] = true := by decide
theorem test_decode_branch : reads [
    (0b1010010_10110_01001_000_10011_0_000111#32, .beq 9 22 0xa53),
    (0b1010010_10110_01001_001_10011_0_000111#32, .bne 9 22 0xa53),
    (0b1010010_10110_01001_100_10011_0_000111#32, .blt 9 22 0xa53),
    (0b1010010_10110_01001_101_10011_0_000111#32, .bge 9 22 0xa53),
    (0b1010010_10110_01001_110_10011_0_000111#32, .bltu 9 22 0xa53),
    (0b1010010_10110_01001_111_10011_0_000111#32, .bgeu 9 22 0xa53)] = true := by decide
theorem test_decode_jump : reads [
    (0b1010010_11100_00110_001_10011_0_001000#32, .jal 19 0xa5c31),
    (0b1010010_10011_01001_000_10011_0_001001#32, .jalr 19 9 0xa53)] = true := by decide
theorem test_decode_pbranch : reads [
    (0b1101001_01110_00011_000_00010_0_001010#32, .pbr 2 0x1a5c3),
    (0b0000000_00000_00000_001_00010_0_001010#32, .bj 2),
    (0b0000000_00000_01001_010_00010_0_001010#32, .bjz 2 9),
    (0b0000000_00000_01001_011_00010_0_001010#32, .bjnz 2 9)] = true := by decide
theorem test_decode_loops : reads [
    (0b1010010_10011_01001_000_00001_0_001011#32, .loop .one 9 0xa53),
    (0b1010010_10011_00101_001_10011_0_001011#32, .loopi .one 0x125 0xa53),
    (0b0000000_00000_00000_010_00001_0_001011#32, .lclr .one)] = true := by decide
theorem test_decode_vint : reads [
    (0b0000101_11101_01010_010_10101_1_001101#32, .vadd .i32 5 21 10 29),
    (0b0001101_11101_01010_010_10101_1_001101#32, .vsub .i32 5 21 10 29),
    (0b0010101_11101_01010_010_10101_1_001101#32, .vmul .i32 5 21 10 29),
    (0b0011101_11101_01010_010_10101_1_001101#32, .vmulh .i32 5 21 10 29),
    (0b0100101_11101_01010_010_10101_1_001101#32, .vmin .i32 5 21 10 29),
    (0b0101101_11101_01010_010_10101_1_001101#32, .vmax .i32 5 21 10 29),
    (0b0110101_00000_01010_010_10101_1_001101#32, .vabs .i32 5 21 10),
    (0b0111101_11101_01010_010_10101_1_001101#32, .vand .i32 5 21 10 29),
    (0b1000101_11101_01010_010_10101_1_001101#32, .vor .i32 5 21 10 29),
    (0b1001101_11101_01010_010_10101_1_001101#32, .vxor .i32 5 21 10 29),
    (0b1010101_11101_01010_010_10101_1_001101#32, .vsll .i32 5 21 10 29),
    (0b1011101_11101_01010_010_10101_1_001101#32, .vsrl .i32 5 21 10 29),
    (0b1100101_11101_01010_010_10101_1_001101#32, .vsra .i32 5 21 10 29),
    (0b1101101_11101_01010_010_00101_1_001101#32, .vcmpeq .i32 5 5 10 29),
    (0b1110101_11101_01010_010_00101_1_001101#32, .vcmplt .i32 5 5 10 29),
    (0b1111101_11101_01010_010_10101_1_001101#32, .vsel .i32 5 21 10 29)] = true := by decide
theorem test_decode_vflt : reads [
    (0b0000101_11101_01010_110_10101_1_001110#32, .vfadd .f64 5 21 10 29),
    (0b0001101_11101_01010_110_10101_1_001110#32, .vfsub .f64 5 21 10 29),
    (0b0010101_11101_01010_110_10101_1_001110#32, .vfmul .f64 5 21 10 29),
    (0b0011101_11101_01010_110_10101_1_001110#32, .vfma .f64 5 21 10 29),
    (0b0100101_11101_01010_110_10101_1_001110#32, .vfms .f64 5 21 10 29),
    (0b0101101_11101_01010_110_10101_1_001110#32, .vfmin .f64 5 21 10 29),
    (0b0110101_11101_01010_110_10101_1_001110#32, .vfmax .f64 5 21 10 29),
    (0b0111101_00000_01010_110_10101_1_001110#32, .vfabs .f64 5 21 10),
    (0b1000101_00000_01010_110_10101_1_001110#32, .vfneg .f64 5 21 10),
    (0b1001101_11101_01010_110_00101_1_001110#32, .vfcmpeq .f64 5 5 10 29),
    (0b1010101_11101_01010_110_00101_1_001110#32, .vfcmplt .f64 5 5 10 29),
    (0b1011101_11101_01010_110_00101_1_001110#32, .vfcmple .f64 5 5 10 29),
    (0b1100101_00000_01010_110_10101_1_001110#32, .vrsqrt .f64 5 21 10),
    (0b1101101_00000_01010_110_10101_1_001110#32, .vrecip .f64 5 21 10),
    (0b1110101_00000_01010_110_10101_1_001110#32, .vsqrt .f64 5 21 10),
    (0b1111101_00000_01010_101_10101_1_001110#32, .vexp2 .f32 5 21 10)] = true := by decide
theorem test_decode_vperm : reads [
    (0b0000101_11101_01010_001_10101_1_001111#32, .vperm .i16 5 21 10 29),
    (0b0001101_11101_01010_001_10101_1_001111#32, .vshuf .i16 5 21 10 29),
    (0b0010101_00100_01010_001_10101_1_001111#32, .vbcast .i16 5 21 10 4),
    (0b0011101_00100_01010_001_10101_1_001111#32, .vslideup .i16 5 21 10 4),
    (0b0100101_00100_01010_001_10101_1_001111#32, .vslidedn .i16 5 21 10 4),
    (0b0101101_11101_01010_001_10101_1_001111#32, .vzip .i16 5 21 10 29),
    (0b0110101_11101_01010_001_10101_1_001111#32, .vunzip .i16 5 21 10 29),
    (0b0111100_10100_01010_101_10101_1_001111#32, .vcvt .e2m1 .bf16 .rdn true 21 10),
    (0b1000101_11101_01010_001_10101_1_001111#32, .vpack .i16 5 21 10 29),
    (0b1001101_00001_01010_001_10101_1_001111#32, .vwiden .i16 5 21 10 true)] = true := by decide
theorem test_decode_vmisc : reads [
    (0b0000101_00000_01010_001_10101_1_010000#32, .vredsum .i16 5 21 10),
    (0b0001101_00000_01010_001_10101_1_010000#32, .vredmax .i16 5 21 10),
    (0b0010101_00000_01010_001_10101_1_010000#32, .vredmin .i16 5 21 10),
    (0b0011000_00100_00110_001_10101_1_010000#32, .vinsy .i16 21 6 4),
    (0b0100000_00100_01010_001_01011_1_010000#32, .vexty .i16 11 10 4),
    (0b0101101_00000_00110_011_10101_1_010000#32, .vsplat .i64 5 21 6),
    (0b0110000_00110_00011_111_00101_1_010000#32, .mand 5 3 6),
    (0b0111000_00110_00011_111_00101_1_010000#32, .mor 5 3 6),
    (0b1000000_00110_00011_111_00101_1_010000#32, .mxor 5 3 6),
    (0b1001000_00000_00011_111_00101_1_010000#32, .mnot 5 3),
    (0b1010000_00000_00011_111_01011_1_010000#32, .mpop 11 3),
    (0b1011000_00000_00011_111_01011_1_010000#32, .mfirst 11 3)] = true := by decide
theorem test_decode_sflt : reads [
    (0b0000000_00100_00110_110_01011_1_010001#32, .fadd .f64 11 6 4),
    (0b0001000_00100_00110_110_01011_1_010001#32, .fsub .f64 11 6 4),
    (0b0010000_00100_00110_110_01011_1_010001#32, .fmul .f64 11 6 4),
    (0b0011000_00100_00110_110_01011_1_010001#32, .fdiv .f64 11 6 4),
    (0b0100000_00000_00110_110_01011_1_010001#32, .fsqrt .f64 11 6),
    (0b0101000_00100_00110_110_01011_1_010001#32, .fmin .f64 11 6 4),
    (0b0110000_00100_00110_110_01011_1_010001#32, .fmax .f64 11 6 4),
    (0b0111000_00100_00110_110_01011_1_010001#32, .fmadd .f64 11 6 4),
    (0b1000010_00100_00110_110_01011_1_010001#32, .fcmp .f64 .le 11 6 4),
    (0b1001100_10110_00110_011_01011_1_010001#32, .fcvt .i64 .f32 .rdn true 11 6),
    (0b1010000_00000_00110_110_01011_1_010001#32, .fclass .f64 11 6)] = true := by decide
theorem test_decode_matrix : reads [
    (0b0000000_00000_00110_000_00000_1_010010#32, .mcfg 6),
    (0b0000001_00100_00110_000_00000_1_010010#32, .mldb 6 4),
    (0b0000010_00100_00110_000_00101_1_010010#32, .mma 5 6 4),
    (0b0000011_00000_00000_000_00000_1_010010#32, .mrot),
    (0b0000100_00100_00110_000_00000_1_010010#32, .mscale 6 4),
    (0b0000101_00000_00000_001_00101_1_010010#32, .mzero 5 true),
    (0b0000110_00100_00110_000_00101_1_010010#32, .mrdacc 5 6 4),
    (0b0000111_00100_00110_000_00101_1_010010#32, .mwracc 5 6 4),
    (0b0001000_00000_00110_000_00000_1_010010#32, .mcmd 6),
    (0b0001001_00000_00000_000_01011_1_010010#32, .mstat 11)] = true := by decide
theorem test_decode_envelope : reads [
    (0b0000000_00000_00000_000_00101_1_010011#32, .eclr 5),
    (0b0000001_00100_00110_000_00101_1_010011#32, .eins 5 6 4),
    (0b0000010_00100_00110_000_00101_1_010011#32, .eld 5 6 4),
    (0b0000011_00110_00110_000_00000_1_010011#32, .est 6 6),
    (0b0000100_00110_00011_000_00101_1_010011#32, .emax 5 3 6),
    (0b0000101_00110_00011_000_00101_1_010011#32, .eadd 5 3 6),
    (0b0000110_00110_00011_000_00101_1_010011#32, .einf 5 3 6),
    (0b0000111_00000_00011_000_00101_1_010011#32, .econj 5 3),
    (0b0001000_00100_00011_000_01011_1_010011#32, .eeval 11 3 4),
    (0b0001001_00000_00011_000_01011_1_010011#32, .ecnt 11 3)] = true := by decide
theorem test_decode_scan : reads [
    (0b0000000_00000_00110_000_00000_1_010100#32, .scfg 6),
    (0b0000001_00100_00110_000_00000_1_010100#32, .slocal 6 4),
    (0b0000010_00000_00110_000_00000_1_010100#32, .spass 6),
    (0b0000011_00100_00110_000_00000_1_010100#32, .sapply 6 4),
    (0b0000100_00000_00000_000_00000_1_010100#32, .sclose),
    (0b0000101_00000_00000_000_10101_1_010100#32, .swait 21)] = true := by decide
theorem test_decode_message : reads [
    (0b0000000_10110_01001_000_00000_0_010101#32, .sndh 9 22),
    (0b0000000_10110_01001_001_00000_0_010101#32, .snd 9 22),
    (0b0000000_00011_00000_010_10011_0_010101#32, .rcv 19 3),
    (0b0000000_00011_00000_011_10011_0_010101#32, .rcvn 19 3),
    (0b0000000_00000_00000_100_00000_0_010101#32, .wmsg),
    (0b0000000_10110_00000_101_10011_0_010101#32, .mbxpop 19 22)] = true := by decide
theorem test_decode_copy : reads [
    (0b0000000_00000_01001_000_00110_0_010110#32, .cpset 6 9),
    (0b0000000_00000_00000_001_10011_0_010110#32, .cplaunch 19),
    (0b0000000_00000_01001_010_10011_0_010110#32, .cpstat 19 9)] = true := by decide
theorem test_decode_sync : reads [
    (0b0000000_00000_00000_000_00000_0_010111#32, .wait),
    (0b0000000_00000_01001_001_10011_0_010111#32, .waitv 19 9),
    (0b0000000_01010_00000_010_10011_0_010111#32, .fence 19 0b1010),
    (0b0000000_00000_01001_011_00000_0_010111#32, .fwait 9)] = true := by decide
theorem test_decode_atomic : reads [
    (0b0000000_10110_01001_011_10011_0_011000#32, .amoadd .w64 19 9 22),
    (0b0000001_10110_01001_011_10011_0_011000#32, .amoand .w64 19 9 22),
    (0b0000010_10110_01001_011_10011_0_011000#32, .amoor .w64 19 9 22),
    (0b0000011_10110_01001_011_10011_0_011000#32, .amoxor .w64 19 9 22),
    (0b0000100_10110_01001_011_10011_0_011000#32, .amomin .w64 19 9 22),
    (0b0000101_10110_01001_011_10011_0_011000#32, .amomax .w64 19 9 22),
    (0b0000110_10110_01001_011_10011_0_011000#32, .amoswap .w64 19 9 22),
    (0b0000111_10110_01001_011_10011_0_011000#32, .amocas .w64 19 9 22),
    (0b0001000_10110_01001_011_10011_0_011000#32, .damoadd .w64 19 9 22),
    (0b0001001_10110_01001_011_10011_0_011000#32, .damomin .w64 19 9 22),
    (0b0001010_10110_01001_011_10011_0_011000#32, .damomax .w64 19 9 22)] = true := by decide
theorem test_decode_task : reads [
    (0b0000000_00000_00000_000_10011_0_011001#32, .next 19),
    (0b0000000_00000_00000_001_00000_0_011001#32, .tdone)] = true := by decide
theorem test_decode_system : reads [
    (0b0001001_01010_00000_000_10011_0_011010#32, .mfs (.x 19) 0x12A),
    (0b0000000_01000_00110_001_00000_1_011010#32, .mts 0x008 (.y 6)),
    (0b0000000_00000_00000_010_00000_0_011010#32, .ecall),
    (0b0000000_00000_00000_011_00000_0_011010#32, .eret),
    (0b0000000_00000_00000_100_00000_0_011010#32, .brk),
    (0b0000000_00000_00000_101_00000_0_011010#32, .idle),
    (0b0000000_00000_00000_110_00000_0_011010#32, .halt),
    (0b0000000_00000_01001_111_00000_0_011010#32, .frameinv 9)] = true := by decide

/-- The worked encodings of R220, and example words of R241, R244, R250, R262, R263, R268, R279. -/
theorem test_decode_spec_words : reads [(0x0400_0283, .addi 5 0 64), (0x0031_50CE, .vfadd .f32 0 1 2 3), (0x8082_B18C, .ldY 3 5 8), (0x9082_B18C, .sdY 3 5 8),
    (0x0073_0284, .add 5 6 7), (0x0000_2285, .lui 5 2), (0x0000_1286, .auipc 5 1), (0x0000_8088, .jal 1 8), (0x8220_E251, .fcmp .f64 .lt 4 1 2),
    (0xA000_E251, .fclass .f64 4 1), (0x0402_D08C, .vld .f32 2 1 5 0), (0x01F2_D08C, .vld .f32 0 1 5 31), (0x8031_20CF, .vpack .i32 0 1 2 3),
    (0x9011_20CF, .vwiden .i32 0 1 2 true), (0x0080_025A, .mfs (.y 4) 0x008), (0x0202_901A, .mts 0x020 (.x 5))] = true := by decide
/-- The illegal words of R220. -/
theorem test_decode_refused : (decode 0x0400_02C3).toOption = none ∧ (decode 0x0031_00CE).toOption = none ∧ (decode 0x001E_0284).toOption = none ∧
    (decode 0).toOption = none ∧ (decode 0xFFFF_FFFF).toOption = none ∧ decodeBytes [0x83, 0x02, 0x00, 0x04] = .ok (.addi 5 0 64) ∧
    decodeTableWord 32 0x0400_0283 = some (.addi 5 0 64) := by
  refine ⟨?_, ?_, ?_, ?_, ?_, rfl, ?_⟩ <;> decide

/-! ## One word on a small state -/

/-- The thread of logical index 0 of gang 0, running on tile 0 in U mode at the default text address. -/
def tile0 : Tile := { Tile.reset with
  gang := some 0, ctl := { Ctl.reset with stat := .running }, fe := { Fetch.reset with pc := 0x10_0000, ipc := 0x10_0000 } }
/-- A gang of one group whose first two tiles hold threads. -/
def gang0 : Gang :=
  { id := 0, part := 0, dies := [0], groups := 1, det := false, hsub := 0, poison := false, gsblog2 := 20, htab := 0
    evring := 0, evlog2 := 12, evlost := 0, pkg := 0, npkg := 0, key := 0, l2p := [(0, 0), (1, 1)], stat := .running, t0 := 0, ts := 0
    t1 := 0, step := 0, bmus := [], bmuSnap := [], fired := [], commit := none, staged := [], undo := 65536, consumed := 0, poisonRolled := false
    serial := 0, bcause := 0, btake := [], suspect := 0, hcount := 0, rolling := none, ate := none, sealed := false, saved := none, slice := false, auto := false
    emerg := [], prior := [], rings := [], wake := none, endAtBoundary := false, resumeAt := none, anew := false, asked := [] }
/-- The package with tile 0 as given, its partition mapping one 64 KiB frame at 0x10_0000 for every access. -/
def one (t : Tile) : State := { State.reset with
  tiles := [(0, t), (1, { tile0 with lidx := 1 })], gangs := [gang0], parts := [⟨0, .groups 0 1, [0], 0, [], 0, 0, 0⟩]
  mem := putPte 0 0x1001 (putPte 0x1000 0x2001 (putPte 0x2080 0x1_003F [])) }
/-- The tile that a word leaves. -/
def ran (t : Tile) (i : Instr) : Tile :=
  match exec i (one t) with
  | .next s => s.t
  | .fault _ => Tile.reset
  | .refused _ => Tile.reset
/-- x registers given by number. -/
def xs (l : List (Nat × Word)) : Tile := { tile0 with regs := { tile0.regs with x := l.foldl (fun v e => v.setIfInBounds e.1 e.2) tile0.regs.x } }
def ys (l : List (Nat × Word)) : Tile := { tile0 with regs := { tile0.regs with y := l.foldl (fun v e => v.setIfInBounds e.1 e.2) tile0.regs.y } }
def vs (l : List (Nat × Vec)) : Tile := { tile0 with regs := { tile0.regs with v := l.foldl (fun v e => v.setIfInBounds e.1 e.2) tile0.regs.v } }

/-- R241: ADD wraps; x0 discards. -/
theorem test_add : (ran (xs [(1, ones64), (2, 2)]) (.add 3 1 2)).xval 3 = 1 ∧ (ran (xs [(1, 5)]) (.add 0 1 1)).xval 0 = 0 := by decide
/-- R241: signed against unsigned order; shift amounts modulo 64. -/
theorem test_order : (ran (xs [(1, ones64), (2, 1)]) (.slt 3 1 2)).xval 3 = 1 ∧ (ran (xs [(1, ones64), (2, 1)]) (.sltu 3 1 2)).xval 3 = 0 ∧
    (ran (xs [(1, ones64), (2, 1)]) (.maxu 3 1 2)).xval 3 = ones64 ∧ (ran (xs [(1, 1), (2, 65)]) (.sll 3 1 2)).xval 3 = 2 := by decide
/-- R241: the W forms sign-extend bit 31. -/
theorem test_addw : (ran (xs [(1, 0x7FFF_FFFF), (2, 1)]) (.addw 3 1 2)).xval 3 = 0xFFFF_FFFF_8000_0000 ∧
    (ran (xs [(1, 0x8000_0000), (2, 4)]) (.sraw 3 1 2)).xval 3 = 0xFFFF_FFFF_F800_0000 := by decide
/-- R241: the high half of a product of the greatest numbers; of -1 by -1. -/
theorem test_mulhu : (ran (xs [(1, ones64)]) (.mulhu 3 1 1)).xval 3 = 0xFFFF_FFFF_FFFF_FFFE ∧ (ran (xs [(1, ones64)]) (.mulh 3 1 1)).xval 3 = 0 := by
  decide
/-- R242: DIV of -7 by 2 is -3, REM -1 (the spec's example). -/
theorem test_div : (ran (xs [(1, -7), (2, 2)]) (.div 3 1 2)).xval 3 = -3 ∧ (ran (xs [(1, -7), (2, 2)]) (.rem 3 1 2)).xval 3 = -1 := by decide
/-- R242: division by zero and the quotient that overflows. -/
theorem test_div_corner : (ran (xs [(1, 7)]) (.div 3 1 2)).xval 3 = ones64 ∧ (ran (xs [(1, 7)]) (.remu 3 1 2)).xval 3 = 7 ∧
    (ran (xs [(1, 0x8000_0000_0000_0000), (2, -1)]) (.div 3 1 2)).xval 3 = 0x8000_0000_0000_0000 ∧
    (ran (xs [(1, 0x8000_0000_0000_0000), (2, -1)]) (.rem 3 1 2)).xval 3 = 0 := by decide
/-- R241: counts at zero; SEL reads rd before it writes it. -/
theorem test_count : (ran (xs []) (.clz 3 1)).xval 3 = 64 ∧ (ran (xs [(1, 0x100)]) (.ctz 3 1)).xval 3 = 8 ∧ (ran (xs [(1, 0xFF)]) (.cnt 3 1)).xval 3 = 8 ∧
    (ran (xs [(1, 5), (2, 6)]) (.sel 3 1 2)).xval 3 = 6 ∧ (ran (xs [(1, 5), (2, 6), (3, 9)]) (.sel 3 1 2)).xval 3 = 5 := by decide
/-- R244: LUI x5, 2 writes 0x2000 (the spec's example); AUIPC adds to the word's own address. -/
theorem test_lui : (ran (xs []) (.lui 5 2)).xval 5 = 0x2000 ∧ (ran (xs []) (.auipc 5 0xFFFFF)).xval 5 = 0xF_F000 := by decide
/-- R24, R48: reading x30 twice pops twice, the first source first. -/
theorem test_port : let t := { tile0 with regs := { tile0.regs with qxa0 := [9, 4] } }
    (ran t (.sub 3 30 30)).xval 3 = 5 ∧ (ran t (.sub 3 30 30)).regs.qxa0 = [] ∧ (ran tile0 (.sub 3 30 30)).fe.flow = .hold := by decide
/-- R249, R250: a taken branch goes to PC + 4 x off, the link is PC + 4. -/
theorem test_branch : (ran (xs [(1, 3)]) (.bne 1 0 0xFFF)).fe.pc = 0xF_FFFC ∧ (ran (xs [(1, 3)]) (.beq 1 0 0xFFF)).fe.flow = .seq ∧
    (ran (xs []) (.jal 1 8)).xval 1 = 0x10_0004 ∧ (ran (xs []) (.jal 1 8)).fe.pc = 0x10_0020 := by decide
/-- R250, R251: a JALR target that is no multiple of 4 takes the address fault and writes nothing. -/
theorem test_jalr : (ran (xs [(1, 0x42)]) (.jalr 2 1 0)).sr.cause = 4 ∧ (ran (xs [(1, 0x42)]) (.jalr 2 1 0)).xval 2 = 0 ∧
    (ran (xs [(1, 0x40)]) (.jalr 1 1 4)).fe.pc = 0x44 ∧ (ran (xs [(1, 0x40)]) (.jalr 1 1 4)).xval 1 = 0x10_0004 := by decide
/-- R255: LOOPI arms its level; a count of 0 skips the body. -/
theorem test_loopi : (ran tile0 (.loopi .one 7 3)).regs.loop.l1 = ⟨7, 0x10_0004, 0x10_000C⟩ ∧ (ran tile0 (.loopi .one 0 3)).fe.pc = 0x10_0010 := by
  decide
/-- R4, R247: little-endian bytes, sign extension, an unaligned address. -/
theorem test_load : let t := { xs [(1, 0x200_0000_0000)] with spad := [(0, 0x80), (1, 0xFF)] }
    (ran t (.lb 2 1 0)).xval 2 = 0xFFFF_FFFF_FFFF_FF80 ∧ (ran t (.lhu 2 1 0)).xval 2 = 0xFF80 ∧ (ran t (.lw 2 1 2)).sr.tval = 0x200_0000_0002 := by decide
theorem test_store : let t := xs [(1, 0x200_0000_0010), (2, 0x1234)]
    (ran t (.sh 2 1 0)).spad = [(16, 0x34), (17, 0x12)] ∧ (ran t (.sb 2 1 1)).spad = [(17, 0x34)] := by decide
/-- R246: a remote load goes out with its pieces. -/
theorem test_remote_load : (match exec (.ld 2 1 8) (one (xs [(1, 0x400_0800_0000)])) with
    | .next s => s.net.map (fun f => (f.src, f.dst)) == [(0, 1)] && s.t.loads.length == 1
    | _ => false) = true := by decide
/-- R275: lanes wrap on their own; a masked-off lane is kept. -/
theorem test_vadd : (ran (vs [(1, 0x01FF), (2, 0x0101), (3, 0xAAAA)]) (.vadd .i8 0 3 1 2)).vval 3 = 0x0200 ∧
    (ran { vs [(1, 0x01FF), (2, 0x0101), (3, 0xAAAA)] with regs := { (vs [(1, 0x01FF), (2, 0x0101), (3, 0xAAAA)]).regs with
      m := (.replicate 8 0 : Vector Word 8).set 4 1 } } (.vadd .i8 4 3 1 2)).vval 3 = 0xAA00 := by decide +kernel
/-- R275: the high half, signed; the compare writes every bit of a lane. -/
theorem test_vmulh : (ran (vs [(1, 0x80), (2, 0x7F)]) (.vmulh .i8 0 3 1 2)).vval 3 = 0xC0 ∧
    (ran (vs [(1, 1), (2, 2)]) (.vcmplt .i32 0 3 1 2)).mval 3 = 0xF := by decide +kernel
/-- R276: 1.0 + 2.0 in FP32; R79: VRSQRT of 64.0 is 0.125 (the spec's example), in every lane of a zero vector an infinity with its flag. -/
theorem test_vfloat : ((ran (vs [(1, 0x3F80_0000), (2, 0x4000_0000)]) (.vfadd .f32 0 3 1 2)).vval 3).toNat % 2 ^ 32 = 0x4040_0000 ∧
    ((ran (vs [(1, 0x4280_0000)]) (.vrsqrt .f32 0 3 1)).vval 3).toNat % 2 ^ 32 = 0x3E00_0000 := by decide +kernel
/-- R261: 6.0 / 2.0 in FP64; 1.0 / 0.0 is an infinity. -/
theorem test_fdiv : (ran (ys [(1, 0x4018_0000_0000_0000), (2, 0x4000_0000_0000_0000)]) (.fdiv .f64 3 1 2)).yval 3 = 0x4008_0000_0000_0000 ∧
    (ran (ys [(1, 0x3FF0_0000_0000_0000)]) (.fdiv .f64 3 1 2)).yval 3 = 0x7FF0_0000_0000_0000 := by decide +kernel
/-- R264: a saturating conversion of -1.5 to INT32 toward zero, sign-extended. -/
theorem test_fcvt : (ran (ys [(1, 0xBFC0_0000)]) (.fcvt .i32 .f32 .rtz true 3 1)).yval 3 = ones64 := by decide +kernel
/-- R281: the sum of INT32 lanes, in lane 0 with zeros above. -/
theorem test_vredsum : (ran (vs [(1, 0x0000_0003_0000_0002_0000_0001)]) (.vredsum .i32 0 3 1)).vval 3 = 6 := by decide +kernel
/-- R278, R282: a slide keeps the lanes below; an extracted integer lane is sign-extended. -/
theorem test_lanes : (ran { vs [(1, 0x0201), (3, 0xBBAA)] with regs := { (vs [(1, 0x0201), (3, 0xBBAA)]).regs with y := (.replicate 16 0 : Vector Word 16).set 2 1 } }
      (.vslideup .i8 0 3 1 2)).vval 3 = 0x0201AA ∧
    (ran (vs [(1, 0x80)]) (.vexty .i8 3 1 2)).yval 3 = 0xFFFF_FFFF_FFFF_FF80 := by decide +kernel
/-- R283. -/
theorem test_masks : (ran tile0 (.mnot 3 0)).mval 3 = 0 ∧ (ran tile0 (.mpop 3 0)).yval 3 = 64 ∧ (ran tile0 (.mfirst 3 1)).yval 3 = 64 := by decide +kernel
/-- R295, R298: a push enters the FIFO; MSTAT with nothing outstanding shows the mode. -/
theorem test_matrix : (ran tile0 (.mzero 2 true)).mx.fifo.length = 1 ∧ (ran (ran tile0 (.mzero 2 true)) (.mstat 3)).yval 3 = 0x0400_0000_0000 := by decide
/-- R178, R299. -/
theorem test_envelope : (ran tile0 (.eclr 3)).envq.length = 1 ∧ (ran (ys [(2, 257)]) (.eld 3 1 2)).sr.cause = 1 := by decide
/-- R137, R318: an empty packet goes out at once; SND without a header is out of order. -/
theorem test_sndh : (match exec (.sndh 1 2) (one (xs [(1, 1), (2, 5)])) with
    | .next s => s.net.map (fun f => f.dst) == [1]
    | _ => false) = true ∧ (ran tile0 (.snd 1 2)).sr.cause = 8 := by decide
/-- R309, R310: the first copy of a thread is number 1; an empty one is complete at once. -/
theorem test_copy : (ran tile0 (.cplaunch 3)).xval 3 = 1 ∧ (ran tile0 (.cplaunch 3)).ni.mbox = [(0x1_0001, 0)] ∧ (ran (xs [(1, 7)]) (.cpset 2 1)).cp.clen = 7 := by
  decide
/-- R106, R315, R316: a token from an empty table; a stale value frees nothing. -/
theorem test_fence : (ran tile0 (.fence 3 15)).xval 3 = 8 ∧ (ran (xs [(1, 8)]) (.fwait 1)).fe.flow = .seq := by decide
/-- R331, R352: ECALL in U mode enters S mode with the mode saved. -/
theorem test_ecall : (ran tile0 .ecall).sr.cause = 0x15 ∧ (ran tile0 .ecall).sr.epc = 0x10_0000 ∧ (ran tile0 .ecall).sr.status = 1 ∧
    (ran (ran tile0 .ecall) .eret).mode = 0 := by decide
/-- R329, R332: ERET and an S register in U mode. -/
theorem test_privilege : (ran tile0 .eret).sr.cause = 2 ∧ (ran tile0 (.mfs (.x 3) 0x100)).sr.cause = 3 ∧ (ran tile0 (.mfs (.x 3) 0x100)).sr.tval = 0x100 := by
  decide
/-- R53: bits a register lacks are not written. -/
theorem test_mts : (ran (ys [(1, ones64)]) (.mts 0x008 (.y 1))).ur.fflags = 0x3F ∧ (ran (xs [(1, ones64)]) (.mts 0x028 (.x 1))).jval 0 = ones64 - 3 := by
  decide
/-- R38, R333, R334. -/
theorem test_system : (ran tile0 .tdone).fe.flow = .seq ∧ (ran tile0 .idle).ctl.stat = .waiting .idle ∧ (ran tile0 .halt).sr.cause = 0x0B := by decide
/-- R313: in S mode WAIT is illegal. -/
theorem test_wait : (ran { tile0 with sr := { tile0.sr with status := 1 } } .wait).sr.cause = 1 ∧ (ran tile0 .wait).ctl.stat = .waiting (.barrier none 0) := by
  decide
/-- R325, R326: a DAMO leaves its destination pending, and U mode may not read it. -/
theorem test_damo : (ran (ran (xs [(1, 0x10_0000)]) (.damoadd .w64 3 1 2)) (.add 4 3 3)).sr.cause = 0x3_000D := by decide +kernel
/-- R128: the votes over the low 32 bits as signed numbers. -/
theorem test_vote : voteResult 3 [0xFFFF_FFFF, 5] = 5 ∧ voteResult 4 [0xFFFF_FFFF, 5] = ones64 ∧ voteResult 5 [0x7FFF_FFFF, 5] = 0x7FFF_FFFF := by decide
/-- R96: a step fetches, decodes and runs the word at the fetch point. -/
theorem test_step : (match step ((one tile0).withFetchWord 32 0x0400_0283) with
    | .next s => s.t.xval 5 == 64 && s.t.fe.pc == 0x10_0004
    | _ => false) = true := by decide +kernel
/-- The same from the package right after reset: an image is loaded from outside (log 14). -/
theorem test_step_reset : (match step (State.reset.withFetchWord 32 0x0400_0283) with
    | .next s => s.t.xval 5 == 64
    | _ => false) = true := by decide +kernel

end Sys2Proof.Tests
end

