-- ==== Sys2Proof/Tests/Witness.lean ====
section
/-! SUPPORT. Tests/Witness: for every statement that has hypotheses, concrete states and operands that meet all of them together,
clause by clause, at the boundary of a range where the clause has one. -/

open Sys2Proof.Machine Sys2Proof.Tests

namespace Sys2Proof.Witness

set_option Elab.async false

/-! ## Helpers -/

/-- Tile 0 with port entries. -/
def ports (a b c d : Nat) : Tile := { tile0 with regs := { tile0.regs with
  qax0 := .replicate a 1, qax1 := .replicate b 2, qxa0 := .replicate c 3, qxa1 := .replicate d 4 } }
/-- Tile 0 in S mode. -/
def superv (t : Tile) : Tile := { t with sr := { t.sr with status := 1 } }
/-- An X entry ahead of the executing word. -/
def entry (n : Nat) : Slot := ⟨n, 0x10_0000, .reset, .word .mrot⟩

/-! ## Arithmetic -/

/-- Two pops of one port and a push that fills another. -/
theorem IntegerForms : (one (ports 7 0 2 0)).t.ReadyX [30, 30] [28] ∧ (one (ports 0 0 0 1)).t.ReadyX [31] [1] ∧ (one (ports 0 7 0 0)).t.ReadyX [] [29] := by
  all_goals (try unfold Tile.ReadyX)
  all_goals (try unfold Tile.ReadyY)
  all_goals (try dsimp only)
  all_goals (repeat' apply And.intro)
  all_goals first | decide +kernel | rfl | exact ⟨_, rfl⟩ | exact ⟨_, rfl, rfl⟩ | exact ⟨_, _, rfl⟩
theorem DivisionForms : (one tile0).t.ReadyX [1, 2] [3] ∧ (0x8000_0000_0000_0000 : Word).toInt = -2 ^ 63 ∧ (ones64 : Word).toInt = -1 ∧ (ones64 : Word) ≠ 0 ∧
    ¬((1 : Word).toInt = -2 ^ 63 ∧ (ones64 : Word).toInt = -1) := by
  all_goals (try unfold Tile.ReadyX)
  all_goals (try unfold Tile.ReadyY)
  all_goals (try dsimp only)
  all_goals (repeat' apply And.intro)
  all_goals first | decide +kernel | rfl | exact ⟨_, rfl⟩ | exact ⟨_, rfl, rfl⟩ | exact ⟨_, _, rfl⟩
theorem CountForms : (one tile0).t.ReadyX [1] [3] ∧ (one tile0).t.ReadyX [1, 2, 3] [3] := by
  all_goals (try unfold Tile.ReadyX)
  all_goals (try unfold Tile.ReadyY)
  all_goals (try dsimp only)
  all_goals (repeat' apply And.intro)
  all_goals first | decide +kernel | rfl | exact ⟨_, rfl⟩ | exact ⟨_, rfl, rfl⟩ | exact ⟨_, _, rfl⟩
theorem ArithmeticFrame : (aluShape (.sel 3 1 2) = some ([1, 2, 3], 3) ∧ (Instr.sel 3 1 2).wf = true ∧ (one tile0).t.ReadyX [1, 2, 3] [3] ∧
    ∃ s', exec (.sel 3 1 2) (one tile0) = .next s') ∧
    aluShape (.add 3 1 2) = some ([1, 2], 3) ∧ (3 : XReg) ∉ [1, 2] ∧ (3 : XReg) ≠ 28 ∧ (3 : XReg) ≠ 29 ∧
    (let s := one { tile0 with loads := [⟨7, .remote, some 3, 8, false, 0, 1, none, 0⟩] }
     s.t.SourcesReady [1, 2] [3] ∧ s.t.busy 3 = true) ∧
    (let s := one { tile0 with fe := { tile0.fe with res := [⟨7, [.x 3 5], 0, false, none, 9⟩] } }
     s.t.SourcesReady [1, 2] [3] ∧ s.t.busy 3 = true) := by
  refine ⟨⟨rfl, rfl, ?_, _, rfl⟩, ?_⟩
  all_goals (try unfold Tile.SourcesReady)
  all_goals (try unfold Tile.ReadyX)
  all_goals (try unfold Tile.ReadyY)
  all_goals (try dsimp only)
  all_goals (repeat' apply And.intro)
  all_goals first | decide +kernel | rfl | exact ⟨_, rfl⟩ | exact ⟨_, rfl, rfl⟩ | exact ⟨_, _, rfl⟩

/-! ## Scalar memory -/

/-- The last doubleword of the scratchpad. -/
theorem SelfLoad : let s := one (xs [(1, 0x200_001F_FFF0)])
    loadOf (.ld 2 1 8) = some (2, 1, 8, 8, false) ∧ s.t.ReadyX [1] [2] ∧ region ((s.t.popX 1).1 + 8) = some (.self 0x1F_FFF8 0 0 0) ∧
    ((s.t.popX 1).1 + 8).toNat % 8 = 0 ∧ (s.t.popX 1).2.behind (.self 0x1F_FFF8 0 0 0) = false := by
  all_goals (try unfold Tile.ReadyX)
  all_goals (try unfold Tile.ReadyY)
  all_goals (try dsimp only)
  all_goals (repeat' apply And.intro)
  all_goals first | decide +kernel | rfl | exact ⟨_, rfl⟩ | exact ⟨_, rfl, rfl⟩ | exact ⟨_, _, rfl⟩
/-- The highest thread of the gang (logical index 15); the first frame of global memory. -/
theorem FarLoads :
    (let s := one (xs [(1, 0x400_7800_0000)])
     loadOf (.ld 2 1 0) = some (2, 1, 0, 8, false) ∧ s.t.ReadyX [1] [2] ∧ region ((s.t.popX 1).1 + 0) = some (.remote 15 0 0 0) ∧
     ((s.t.popX 1).1 + 0).toNat % 8 = 0 ∧ s.t.gang = some 0 ∧ s.hasIndex (s.t.popX 1).2 15 = true ∧ s.t.task.region = false ∧
     (s.t.popX 1).2.behind (.remote 15 0 0 0) = false) ∧
    (let s := one (xs [(1, 0x10_FFF8)])
     s.t.ReadyX [1] [2] ∧ ∃ u, s.checkScalar (s.t.popX 1).2 ((s.t.popX 1).1 + 0) 8 false = (.ok (.global 0x10_FFF8, (List.range 8).map (0x1_FFF8 + ·)), u) ∧
       u.behind (.global 0x10_FFF8) = false) := by
  all_goals (try unfold Tile.ReadyX)
  all_goals (try unfold Tile.ReadyY)
  all_goals (try dsimp only)
  all_goals (repeat' apply And.intro)
  all_goals first | decide +kernel | rfl | exact ⟨_, rfl⟩ | exact ⟨_, rfl, rfl⟩ | exact ⟨_, _, rfl⟩
/-- The last doubleword below the schedule-table region, in U mode with a table. -/
theorem SelfStore : let s := one { xs [(1, 0x200_001D_FFF8)] with task := { TaskSt.reset with hasSched := true }, spad := [(0, 1)] }
    storeOf (.sd 2 1 0) = some (2, 1, 0, 8) ∧ s.t.ReadyX [1, 2] [] ∧ region ((s.t.popX 1).1 + 0) = some (.self 0x1D_FFF8 0 0 0) ∧
    ((s.t.popX 1).1 + 0).toNat % 8 = 0 ∧ s.t.schedHit 0x1D_FFF8 8 = false ∧ Memory.wf s.t.spad = true ∧
    ((s.t.popX 1).2.popX 2).2.behind (.self 0x1D_FFF8 0 0 0) = false := by
  all_goals (try unfold Tile.ReadyX)
  all_goals (try unfold Tile.ReadyY)
  all_goals (try dsimp only)
  all_goals (repeat' apply And.intro)
  all_goals first | decide +kernel | rfl | exact ⟨_, rfl⟩ | exact ⟨_, rfl, rfl⟩ | exact ⟨_, _, rfl⟩
/-- All journal entries but the last taken. -/
def full31 (t : Tile) : Tile := { t with ni := { t.ni with journal := (List.range 31).map fun n => ⟨n, n, 1, 0⟩ } }
/-- A tile with an open task. -/
def task1 : Task := { Task.background with ts := 7, pos := 0, bg := false }
def opened (t : Tile) : Tile := { t with task := { t.task with hasSched := true, opened := true, tasks := [task1] } }
theorem FarStores :
    (let s := one (full31 (xs [(1, 0x400_0800_0000)]))
     storeOf (.sd 2 1 0) = some (2, 1, 0, 8) ∧ s.t.ReadyX [1, 2] [] ∧ region ((s.t.popX 1).1 + 0) = some (.remote 1 0 0 0) ∧
     ((s.t.popX 1).1 + 0).toNat % 8 = 0 ∧ s.t.gang = some 0 ∧ s.hasIndex ((s.t.popX 1).2.popX 2).2 1 = true ∧ s.t.task.region = false ∧
     ((s.t.popX 1).2.popX 2).2.behind (.remote 1 0 0 0) = false ∧ s.t.freeEntry = some 31) ∧
    (let s := one (opened (xs [(1, 0x10_FFF8)]))
     s.t.ReadyX [1, 2] [] ∧ (∃ u, s.checkScalar ((s.t.popX 1).2.popX 2).2 ((s.t.popX 1).1 + 0) 8 true =
       (.ok (.global 0x10_FFF8, (List.range 8).map (0x1_FFF8 + ·)), u) ∧ u.behind (.global 0x10_FFF8) = false) ∧
     (s.t.task.opened = true → s.t.task.tasks ≠ [])) := by
  all_goals (try unfold Tile.ReadyX)
  all_goals (try unfold Tile.ReadyY)
  all_goals (try dsimp only)
  all_goals (repeat' apply And.intro)
  all_goals first | decide +kernel | rfl | exact ⟨_, rfl⟩ | exact ⟨_, rfl, rfl⟩ | exact ⟨_, _, rfl⟩
theorem MisalignedTraps : let s := one (xs [(1, 0x200_0000_0001)])
    loadOf (.lh 2 1 0) = some (2, 1, 0, 2, true) ∧ storeOf (.sh 2 1 0) = some (2, 1, 0, 2) ∧ s.t.ReadyX [1] [2] ∧ s.t.ReadyX [1, 2] [] ∧
    ((s.t.popX 1).1 + 0).toNat % 2 ≠ 0 := by
  all_goals (try unfold Tile.ReadyX)
  all_goals (try unfold Tile.ReadyY)
  all_goals (try dsimp only)
  all_goals (repeat' apply And.intro)
  all_goals first | decide +kernel | rfl | exact ⟨_, rfl⟩ | exact ⟨_, rfl, rfl⟩ | exact ⟨_, _, rfl⟩
/-- A PLANE window may have a plane number, the others may not. -/
theorem SplitForms : let s := one (xs [(1, 0x200_381F_FFF8), (3, 0x200_001F_FFF8)])
    (loadYOf (.ldY 2 3 0) = some (2, 3, 0, 8, false) ∧ s.t.ReadyX [3] [] ∧ s.t.ReadyY [] [2] ∧ s.t.fe.xq = [] ∧ s.t.fe.res = [] ∧
     region ((s.t.popX 3).1 + 0) = some (.self 0x1F_FFF8 0 0 0) ∧ ((s.t.popX 3).1 + 0).toNat % 8 = 0) ∧
    (region ((one (xs [(1, 0x200_383F_FFF8)])).t.xval 1) = some (.self 0x1F_FFF8 1 0 7)) ∧
    storeYOf (.sdY 2 3 0) = some (2, 3, 0, 8) ∧ s.t.ReadyY [2] [] ∧ Memory.wf s.t.spad = true ∧ s.t.schedHit 0x1F_FFF8 8 = false := by
  all_goals (try unfold Tile.ReadyX)
  all_goals (try unfold Tile.ReadyY)
  all_goals (try dsimp only)
  all_goals (repeat' apply And.intro)
  all_goals first | decide +kernel | rfl | exact ⟨_, rfl⟩ | exact ⟨_, rfl, rfl⟩ | exact ⟨_, _, rfl⟩

/-! ## Control flow -/

/-- Both levels armed over the same body. -/
def nested (c0 c1 : Word) : Tile := { tile0 with regs := { tile0.regs with loop := ⟨⟨c0, 0x10_0000, 0x10_0010⟩, ⟨c1, 0x10_0008, 0x10_0010⟩, []⟩ } }
theorem LoopRules :
    (((nested 2 2).regs.loop.get .one).lc ≠ 0 ∧ (0x10_0004 : Word).toNat < ((nested 2 2).regs.loop.get .one).ls.toNat) ∧
    (((nested 2 2).regs.loop.get .one).le.toNat < (0x10_0014 : Word).toNat) ∧
    (((nested 2 2).regs.loop.get .one).ls.toNat ≤ (0x10_0010 : Word).toNat ∧ (0x10_0010 : Word).toNat ≤ ((nested 2 2).regs.loop.get .one).le.toNat) ∧
    ((0x10_0010 : Word) = ((nested 2 2).regs.loop.get .one).le ∧ ((nested 2 2).regs.loop.get .one).lc ≠ 1) ∧
    (((nested 2 1).regs.loop.get .one).lc = 1 ∧ ((nested 2 1).regs.loop.get .zero).lc ≠ 0 ∧
      (0x10_0010 : Word) = ((nested 2 1).regs.loop.get .zero).le ∧ ((nested 2 1).regs.loop.get .zero).lc ≠ 1) ∧
    (((nested 1 1).regs.loop.get .one).lc = 1 ∧ ((nested 1 1).regs.loop.get .zero).lc = 1) ∧ (0x10_000C : Word) ≠ ((nested 1 1).regs.loop.get .one).le := by
  all_goals (try unfold Tile.ReadyX)
  all_goals (try unfold Tile.ReadyY)
  all_goals (try dsimp only)
  all_goals (repeat' apply And.intro)
  all_goals first | decide +kernel | rfl | exact ⟨_, rfl⟩ | exact ⟨_, rfl, rfl⟩ | exact ⟨_, _, rfl⟩
theorem BranchForms : let s := one (xs [(1, 0x1FE), (4, 2), (5, 1)])
    s.t.ReadyX [1, 4] [] ∧ s.t.ReadyX [] [1] ∧ s.t.ReadyX [1] [1] ∧ ((s.t.popX 1).1 + 2).toNat % 4 = 0 ∧ ((s.t.popX 1).1 + 3).toNat % 4 ≠ 0 ∧
    s.t.ReadyX [1] [] ∧ (0x10_0000 + (0x1_0000 : BitVec 17).signExtend 64 * 4 : Word).toNat % 4 = 0 := by
  all_goals (try unfold Tile.ReadyX)
  all_goals (try unfold Tile.ReadyY)
  all_goals (try dsimp only)
  all_goals (repeat' apply And.intro)
  all_goals first | decide +kernel | rfl | exact ⟨_, rfl⟩ | exact ⟨_, rfl, rfl⟩ | exact ⟨_, _, rfl⟩
/-- A word in the body of level 0 and not yet in that of level 1; a delayed write. -/
theorem LoopForms : (let s := one { nested 2 2 with fe := { (nested 2 2).fe with ipc := 0x10_0004 } }
    let l := s.t.regs.loop
    s.t.ReadyX [1] [] ∧ ((l.get .zero).lc ≠ 0 ∧ (l.get .zero).ls.toNat ≤ s.t.fe.ipc.toNat ∧ s.t.fe.ipc.toNat ≤ (l.get .zero).le.toNat) ∧
      ¬((l.get .one).lc ≠ 0 ∧ (l.get .one).ls.toNat ≤ s.t.fe.ipc.toNat ∧ s.t.fe.ipc.toNat ≤ (l.get .one).le.toNat)) ∧
    ({ (nested 2 2).regs.loop with lw := [⟨.one, .le, 0x10_0014, 4⟩] } : Loops).lw = [⟨.one, .le, 0x10_0014, 4⟩] := by
  all_goals (try unfold Tile.ReadyX)
  all_goals (try unfold Tile.ReadyY)
  all_goals (try dsimp only)
  all_goals (repeat' apply And.intro)
  all_goals first | decide +kernel | rfl | exact ⟨_, rfl⟩ | exact ⟨_, rfl, rfl⟩ | exact ⟨_, _, rfl⟩

/-! ## Vectors -/

/-- The last 64 bytes of the scratchpad. -/
theorem VectorLoad : let s := one (xs [(1, 0x200_001F_FF80)])
    s.t.vloadOf (.vld .i32 0 3 1 1) = some (.i32, 0, 3, 0x200_001F_FFC0, .unit, [1]) ∧ s.t.ReadyX [1] [] ∧ s.t.fe.xq = [] ∧ s.t.fe.xl = [] ∧ s.t.fe.res = [] ∧
    region 0x200_001F_FFC0 = some (.self 0x1F_FFC0 0 0 0) ∧ selfOk .unit .i32 0 0 0x1F_FFC0 s.t.ur.pstride := by
  unfold selfOk
  all_goals (try unfold Tile.ReadyX)
  all_goals (try unfold Tile.ReadyY)
  all_goals (try dsimp only)
  all_goals (repeat' apply And.intro)
  all_goals first | decide +kernel | rfl | exact ⟨_, rfl⟩ | exact ⟨_, rfl, rfl⟩ | exact ⟨_, _, rfl⟩
/-- Whether the pieces of the lanes are apart: those of two lanes, and those of one. -/
def lanesApart (s : State) (f : VForm) (ty : LTy) (fmt pln off span : Nat) : Bool :=
  let ps := fun k => lanePieces f ty fmt pln off s.t.ur.pstride k (s.t.idx ty f k)
  let pl := fun (p : Piece) => placeOf span s.t.sr.bhkey p.off
  let apart := fun (p r : Piece) => decide (pl p ≠ pl r ∨ p.bit + p.n ≤ r.bit ∨ r.bit + r.n ≤ p.bit)
  (List.range (lanesOf ty)).all fun k => (List.range (lanesOf ty)).all fun j =>
    if k = j then decide ((ps k).Pairwise fun p r => apart p r = true) else (ps k).all fun p => (ps j).all fun r => apart p r
/-- Whether a lane lies in the schedule table's region. -/
def laneBarred (s : State) (f : VForm) (ty : LTy) (fmt pln off k : Nat) : Bool :=
  s.t.user && s.t.task.hasSched && (lanePieces f ty fmt pln off s.t.ur.pstride k (s.t.idx ty f k)).any fun p => decide (Config.schedBase ≤ p.off)
/-- The last 64 bytes of the scratchpad; over eight planes; 4-bit elements. -/
theorem VectorStore : let s := one { xs [(1, 0x200_001F_FFC0), (2, 0x200_3820_0000), (4, 0x200_0040_0001)] with ur := { tile0.ur with pstride := 64 } }
    s.t.vstoreOf (.vst .i32 0 3 1 0) = some (.i32, 0, 3, 0x200_001F_FFC0, .unit, [1]) ∧ s.t.ReadyX [1] [] ∧ s.t.fe.xq = [] ∧ s.t.fe.xl = [] ∧
    s.t.fe.res = [] ∧ Memory.wf s.t.spad = true ∧ region 0x200_001F_FFC0 = some (.self 0x1F_FFC0 0 0 0) ∧
    selfOk .unit .i32 0 0 0x1F_FFC0 s.t.ur.pstride ∧ laneBarred s .unit .i32 0 0 0x1F_FFC0 15 = false ∧ lanesApart s .unit .i32 0 0 0x1F_FFC0 0 = true ∧
    s.t.vstoreOf (.vst .i32 0 3 2 0) = some (.i32, 0, 3, 0x200_3820_0000, .unit, [2]) ∧ region 0x200_3820_0000 = some (.self 0 1 0 7) ∧
    selfOk .unit .i32 1 7 0 s.t.ur.pstride ∧ lanesApart s .unit .i32 1 7 0 0 = true ∧
    s.t.vstoreOf (.vst .f32 0 3 4 0) = some (.f32, 0, 3, 0x200_0040_0001, .unit, [4]) ∧ region 0x200_0040_0001 = some (.self 1 2 0 0) ∧
    selfOk .unit .f32 2 0 1 s.t.ur.pstride ∧ lanesApart s .unit .f32 2 0 1 0 = true := by
  unfold selfOk
  all_goals (try unfold Tile.ReadyX)
  all_goals (try unfold Tile.ReadyY)
  all_goals (try dsimp only)
  all_goals (repeat' apply And.intro)
  all_goals first | decide +kernel | rfl | exact ⟨_, rfl⟩ | exact ⟨_, rfl, rfl⟩ | exact ⟨_, _, rfl⟩
/-- A store and a scatter into the schedule table's region. -/
theorem VectorStore_2 : let s := one { xs [(1, 0x200_001D_FFC4)] with task := { TaskSt.reset with hasSched := true } }
    s.t.vstoreOf (.vst .i32 0 3 1 0) = some (.i32, 0, 3, 0x200_001D_FFC4, .unit, [1]) ∧ region 0x200_001D_FFC4 = some (.self 0x1D_FFC4 0 0 0) ∧
    selfOk .unit .i32 0 0 0x1D_FFC4 s.t.ur.pstride ∧ laneBarred s .unit .i32 0 0 0x1D_FFC4 14 = false ∧ laneBarred s .unit .i32 0 0 0x1D_FFC4 15 = true ∧
    (let s := one { xs [(1, 0x200_001E_0000)] with task := { TaskSt.reset with hasSched := true } }
     s.t.vstoreOf (.vscatter .i32 0 3 1 2) = some (.i32, 0, 3, 0x200_001E_0000, .index 2, [1]) ∧ region 0x200_001E_0000 = some (.self 0x1E_0000 0 0 0) ∧
     selfOk (.index 2) .i32 0 0 0x1E_0000 s.t.ur.pstride ∧ s.on .i32 0 0 = true ∧ laneBarred s (.index 2) .i32 0 0 0x1E_0000 0 = true ∧
     (lanePieces (.index 2) .i32 0 0 0x1E_0000 s.t.ur.pstride 0 (s.t.idx .i32 (.index 2) 0)).head?.map (·.off) = some 0x1E_0000 ∧
     s.t.ni.refusals.length < Config.refusalDepth) := by
  unfold selfOk
  all_goals (try unfold Tile.ReadyX)
  all_goals (try unfold Tile.ReadyY)
  all_goals (try dsimp only)
  all_goals (repeat' apply And.intro)
  all_goals first | decide +kernel | rfl | exact ⟨_, rfl⟩ | exact ⟨_, rfl, rfl⟩ | exact ⟨_, _, rfl⟩
/-- Whether a check answers the global address va and its bytes. -/
def isGlobal (r : Except Cause (Region × List Nat) × Tile) (va : Nat) : Bool :=
  match r.1 with
  | .ok (.global a, _) => a == va
  | _ => false
theorem VectorFar :
    (let s := one (full31 (xs [(1, 0x400_0800_0000)]))
     s.t.vloadOf (.vld .i32 0 3 1 0) = some (.i32, 0, 3, 0x400_0800_0000, .unit, [1]) ∧
     s.t.vstoreOf (.vst .i32 0 3 1 0) = some (.i32, 0, 3, 0x400_0800_0000, .unit, [1]) ∧ s.t.ReadyX [1] [] ∧ s.t.fe.xq = [] ∧ s.t.fe.xl = [] ∧ s.t.fe.res = [] ∧ s.t.gang = some 0 ∧
     region 0x400_0800_0000 = some (.remote 1 0 0 0) ∧ s.hasIndex s.t 1 = true ∧ extentOk .unit .i32 0 0 0 0 = true ∧ 0 % (winBits 0 .i32 / 8) = 0 ∧
     s.t.task.region = false ∧ s.t.freeEntry = some 31) ∧
    (∀ v, VForm.unit ≠ .index v) ∧
    (let s := one (opened (xs [(1, 0x10_FFC0)]))
     s.t.ReadyX [1] [] ∧ s.t.fe.xq = [] ∧ s.t.fe.xl = [] ∧ s.t.fe.res = [] ∧ s.t.vloadOf (.vld .i32 0 3 1 0) = some (.i32, 0, 3, 0x10_FFC0, .unit, [1]) ∧
     isGlobal (s.checkVec (s.t.popXs [1]) 0x10_FFC0 .unit .i32 false) 0x10_FFC0 = true ∧
     s.t.vstoreOf (.vst .i32 0 3 1 0) = some (.i32, 0, 3, 0x10_FFC0, .unit, [1]) ∧
     isGlobal (s.checkVec (s.t.popXs [1]) 0x10_FFC0 .unit .i32 true) 0x10_FFC0 = true ∧
     (s.t.task.opened = true → s.t.task.tasks ≠ [])) := by
  refine ⟨?_, (fun _ h => nomatch h), ?_⟩
  all_goals (try unfold Tile.ReadyX)
  all_goals (try unfold Tile.ReadyY)
  all_goals (try dsimp only)
  all_goals (repeat' apply And.intro)
  all_goals first | decide +kernel | rfl | exact ⟨_, rfl⟩ | exact ⟨_, rfl, rfl⟩ | exact ⟨_, _, rfl⟩
/-- A gather of a remote window, a scatter of global memory. -/
theorem VectorFar_2 : (let s := one (xs [(1, 0x400_0800_0000), (4, 0x10_FFC0)])
    s.t.ReadyX [1] [] ∧ s.t.vloadOf (.vgather .i32 0 3 1 2) = some (.i32, 0, 3, 0x400_0800_0000, .index 2, [1]) ∧
    region 0x400_0800_0000 = some (.remote 1 0 0 0) ∧ s.t.vstoreOf (.vscatter .i32 0 3 4 2) = some (.i32, 0, 3, 0x10_FFC0, .index 2, [4]) ∧
    region 0x10_FFC0 = some (.global 0x10_FFC0)) := by
  all_goals (try unfold Tile.ReadyX)
  all_goals (try unfold Tile.ReadyY)
  all_goals (try dsimp only)
  all_goals (repeat' apply And.intro)
  all_goals first | decide +kernel | rfl | exact ⟨_, rfl⟩ | exact ⟨_, rfl, rfl⟩ | exact ⟨_, _, rfl⟩
theorem VectorPermute : (one (ports 1 0 0 0)).t.ReadyY [14] [] ∧ (one tile0).t.ReadyY [2] [] := by
  all_goals (try unfold Tile.ReadyX)
  all_goals (try unfold Tile.ReadyY)
  all_goals (try dsimp only)
  all_goals (repeat' apply And.intro)
  all_goals first | decide +kernel | rfl | exact ⟨_, rfl⟩ | exact ⟨_, rfl, rfl⟩ | exact ⟨_, _, rfl⟩
theorem VectorReduce : LTy.isInt .i64 = true ∧ LTy.isInt .f64 = false := by
  all_goals (try unfold Tile.ReadyX)
  all_goals (try unfold Tile.ReadyY)
  all_goals (try dsimp only)
  all_goals (repeat' apply And.intro)
  all_goals first | decide +kernel | rfl | exact ⟨_, rfl⟩ | exact ⟨_, rfl, rfl⟩ | exact ⟨_, _, rfl⟩
theorem LaneMovesAndMasks : (one (ports 2 0 0 0)).t.ReadyY [14, 14] [] ∧ (one (ports 1 0 7 0)).t.ReadyY [14] [12] ∧ (one tile0).t.ReadyY [1] [] ∧
    (one (ports 0 0 0 7)).t.ReadyY [] [13] := by
  all_goals (try unfold Tile.ReadyX)
  all_goals (try unfold Tile.ReadyY)
  all_goals (try dsimp only)
  all_goals (repeat' apply And.intro)
  all_goals first | decide +kernel | rfl | exact ⟨_, rfl⟩ | exact ⟨_, rfl, rfl⟩ | exact ⟨_, _, rfl⟩
theorem ScalarFloat : (one (ports 1 1 7 0)).t.ReadyY [14, 15] [12] ∧ (one tile0).t.ReadyY [1, 2, 3] [3] ∧ (one (ports 1 0 0 0)).t.ReadyY [14] [1] := by
  all_goals (try unfold Tile.ReadyX)
  all_goals (try unfold Tile.ReadyY)
  all_goals (try dsimp only)
  all_goals (repeat' apply And.intro)
  all_goals first | decide +kernel | rfl | exact ⟨_, rfl⟩ | exact ⟨_, rfl, rfl⟩ | exact ⟨_, _, rfl⟩
theorem VectorFrame : vecShape (.vadd .i8 0 1 2 3) = some (some 1, none) ∧ vecShape (.mnot 1 2) = some (none, some 1) ∧
    (∃ s', exec (.vadd .i8 0 1 2 3) (one tile0) = .next s') ∧ ∃ s', exec (.mnot 1 2) (one tile0) = .next s' := by
  all_goals (try unfold Tile.ReadyX)
  all_goals (try unfold Tile.ReadyY)
  all_goals (try dsimp only)
  all_goals (repeat' apply And.intro)
  all_goals first | decide +kernel | rfl | exact ⟨_, rfl⟩ | exact ⟨_, rfl, rfl⟩ | exact ⟨_, _, rfl⟩
theorem ScalarFrame : scalarShape (.fmadd .f32 1 14 15) = some ([14, 15, 1], some 1, none) ∧ (Instr.fmadd .f32 1 14 15).wf = true ∧
    (one (ports 1 1 0 0)).t.ReadyY [14, 15, 1] [1] ∧ ∃ s', exec (.fmadd .f32 1 14 15) (one (ports 1 1 0 0)) = .next s' := by
  all_goals (try unfold Tile.ReadyX)
  all_goals (try unfold Tile.ReadyY)
  all_goals (try dsimp only)
  all_goals (repeat' apply And.intro)
  all_goals first | decide +kernel | rfl | exact ⟨_, rfl⟩ | exact ⟨_, rfl, rfl⟩ | exact ⟨_, _, rfl⟩

/-! ## Engines -/

/-- Seven commands in each FIFO. -/
def mxc : MxCmd := ⟨.mrot, 0, 0, 0, 0, 0, 0, [], false, 0, 1, none⟩
def scc : ScCmd := ⟨.slocal, 0, 0, 0, 0, 0, 1⟩
def evc : EnvCmd := ⟨.eclr 0, 0, 256, 0, 0, 0, .reset, 0, .eclr 0, none⟩
def seven (t : Tile) : Tile := { t with
  mx := { t.mx with fifo := .replicate 7 mxc }, envq := .replicate 7 evc, scan := { t.scan with fifo := .replicate 7 scc } }
/-- A 32 x 32 pass of K 8 over BF16 rows of 64 bytes; a latch load of K_b 256, the most for BF16; a read-out of 32 x 32. -/
def shape : Word := 32 + 32 * 2 ^ 6 + 8 * 2 ^ 12 + 64 * 2 ^ 32
def win5 : Word := 0x200_00A0_0000
def accWord : Word := 32 + 32 * 2 ^ 6 + 256 * 2 ^ 32
/-- The scratchpad with 64 scale words 1.0 at its start. -/
def ones32 : Memory := (List.range 64).flatMap fun k => [(4 * k + 2, 0x80), (4 * k + 3, 0x3F)]
theorem MatrixPushes :
    (let s := one (seven (ys [(1, shape), (2, win5), (3, 256), (4, accWord), (5, 0x200_0000_0000), (6, 1)]))
     s.t.mx.fifo.length < Config.fifoDepth ∧ s.t.ReadyY [] [] ∧ s.t.ReadyY [1] [] ∧ s.t.ReadyY [1, 2] [] ∧ s.t.mcfgCheck 4 = none ∧
     s.t.mcfgCheck 5 = some (cIllegal 0) ∧ s.t.mcfgCheck 0x1F_FFF8_0104 = some (cAddress 0x200_001F_FFF8) ∧
     s.t.mcfgCheck 0x1F_FF80_0104 = none ∧ mmaCheck shape win5 s.t.ur.pstride = none ∧ mmaCheck (shape + 1) win5 s.t.ur.pstride = some cMatrixShape ∧
     mmaCheck shape (win5 + 0x1F_F860) s.t.ur.pstride = some (cAddress (win5 + 0x1F_F860)) ∧ mldbCheck win5 256 s.t.ur.pstride = none ∧
     mldbCheck win5 257 s.t.ur.pstride = some cMatrixShape ∧ s.t.accCheck accWord 0x200_0000_0000 true = none ∧
     s.t.accCheck (accWord + 1) 0x200_0000_0000 true = some cMatrixShape ∧ s.t.accCheck accWord 0x200_0000_0000 false = none ∧
     s.t.mscaleCheck 0x200_0000_0000 0 = .error cMatrixShape) := by
  all_goals (try unfold Tile.ReadyX)
  all_goals (try unfold Tile.ReadyY)
  all_goals (try dsimp only)
  all_goals (repeat' apply And.intro)
  all_goals first | decide +kernel | rfl | exact ⟨_, rfl⟩ | exact ⟨_, rfl, rfl⟩ | exact ⟨_, _, rfl⟩
theorem MatrixPushes_scale : ((one { tile0 with spad := ones32 }).t.mscaleCheck 0x200_0000_0000 1).toOption.isSome = true := by
  all_goals (try unfold Tile.ReadyX)
  all_goals (try unfold Tile.ReadyY)
  all_goals (try dsimp only)
  all_goals (repeat' apply And.intro)
  all_goals first | decide +kernel | rfl | exact ⟨_, rfl⟩ | exact ⟨_, rfl, rfl⟩ | exact ⟨_, _, rfl⟩
theorem MatrixPushes_command :
    (let s := one (full31 (ys [(1, 0x200_0000_0000)]))
     let w := fun k => BitVec.ofNat 64 (s.t.spadNat 0 s.t.sr.bhkey (0 + 8 * k) 8)
     s.t.ReadyY [1] [] ∧ selfParts (s.t.popY 1).1 = some (0, 0, 0, 0) ∧ s.t.task.region = false ∧ s.t.gang = some 0 ∧
     s.hasIndex s.t (bitsOf (w 3) 10 0) = true ∧ s.t.freeEntry = some 31) ∧
    (let t := { tile0 with mx := { tile0.mx with cf := [7] } }
     t.ReadyY [] [1] ∧ t.mx.cf = [7]) ∧ tile0.mx.cf = [] ∧ tile0.mx.owed = 0 ∧ { tile0.mx with owed := 1 }.owed ≠ 0 := by
  all_goals (try unfold Tile.ReadyX)
  all_goals (try unfold Tile.ReadyY)
  all_goals (try dsimp only)
  all_goals (repeat' apply And.intro)
  all_goals first | decide +kernel | rfl | exact ⟨_, rfl⟩ | exact ⟨_, rfl, rfl⟩ | exact ⟨_, _, rfl⟩
/-- A count of 256 lines, the most, ending at the last byte of the scratchpad. -/
theorem EnvelopePushes : let s := one (seven (ys [(1, 0x200_001F_EFF0), (2, 256), (3, 257)]))
    s.t.envq.length < Config.fifoDepth ∧ s.t.ReadyY [] [] ∧ s.t.ReadyY [] [4] ∧ s.t.ReadyY [1] [4] ∧ s.t.ReadyY [1] [] ∧ s.t.ReadyY [1, 2] [] ∧
    selfParts (s.t.popY 1).1 = some (0x1F_EFF0, 0, 0, 0) ∧ 0x1F_EFF0 % 16 = 0 ∧ 0x1F_EFF0 + 4112 ≤ Config.scratchBytes ∧
    s.t.schedHit (bitsOf (s.t.popY 1).1 20 0) 4112 = false ∧ (s.t.popY 2).1.toNat ≤ 256 ∧ 0x1F_EFF0 + (16 + 16 * (s.t.popY 2).1.toNat) ≤ Config.scratchBytes ∧
    256 < (s.t.popY 3).1.toNat := by
  all_goals (try unfold Tile.ReadyX)
  all_goals (try unfold Tile.ReadyY)
  all_goals (try dsimp only)
  all_goals (repeat' apply And.intro)
  all_goals first | decide +kernel | rfl | exact ⟨_, rfl⟩ | exact ⟨_, rfl, rfl⟩ | exact ⟨_, _, rfl⟩
/-- EST into the schedule table, at an address that is none of its own, and with the FIFO full. -/
theorem EnvelopePushes_2 :
    (let s := one { ys [(1, 0x200_001D_FFF0)] with task := { TaskSt.reset with hasSched := true } }
     s.t.ReadyY [1] [] ∧ selfParts (s.t.popY 1).1 = some (0x1D_FFF0, 0, 0, 0) ∧ 0x1D_FFF0 % 16 = 0 ∧ 0x1D_FFF0 + 4112 ≤ Config.scratchBytes ∧
       s.t.schedHit (bitsOf (s.t.popY 1).1 20 0) 4112 = true) ∧
    selfParts (0x200_00A0_0000 : Word) = some (0, 5, 0, 0) ∧ selfParts (0x400_0000_0000 : Word) = none ∧
    (let s := one { tile0 with envq := .replicate 8 evc }
     s.t.envq.length = Config.fifoDepth ∧ s.t.ReadyY [] [] ∧ s.t.ReadyY [] [1] ∧ s.t.ReadyY [1] [2] ∧ s.t.ReadyY [1, 2] []) := by
  all_goals (try unfold Tile.ReadyX)
  all_goals (try unfold Tile.ReadyY)
  all_goals (try dsimp only)
  all_goals (repeat' apply And.intro)
  all_goals first | decide +kernel | rfl | exact ⟨_, rfl⟩ | exact ⟨_, rfl, rfl⟩ | exact ⟨_, _, rfl⟩
/-- 16 lanes of FP32 sums, the most; the tail of a chain. -/
def chain (head : Bool) (t : Tile) : Tile := { t with
  ir := { t.ir with chainpos := if head then 0x3800 else 0x3000 }, ur := { t.ur with scancfg := 16 * 64 }, scan := { t.scan with everSpass := true, spassPushed := true } }
theorem ScanPushes : let s := one (seven (chain true (ys [(1, 0x200_0000_0000), (2, 8 + 0x1000 * 2 ^ 32)])))
    s.t.ReadyY [1] [] ∧ scBad (16 * 64) = false ∧ scBad (17 * 64) = true ∧ s.t.scan.fifo.length < Config.fifoDepth ∧ s.t.ReadyY [1, 2] [] ∧
    s.t.scCheck (s.t.popY 1).1 (s.t.popY 2).1 false = none ∧ s.t.scCheck (s.t.popY 1).1 (s.t.popY 2).1 true = none ∧
    s.t.spassCheck (s.t.popY 1).1 = none ∧ s.t.ReadyY [] [] ∧ s.t.task.region = false ∧ s.t.chMemb = true ∧ s.t.chTail = true ∧
    s.t.scan.spassPushed = true ∧ s.t.user = true := by
  all_goals (try unfold Tile.ReadyX)
  all_goals (try unfold Tile.ReadyY)
  all_goals (try dsimp only)
  all_goals (repeat' apply And.intro)
  all_goals first | decide +kernel | rfl | exact ⟨_, rfl⟩ | exact ⟨_, rfl, rfl⟩ | exact ⟨_, _, rfl⟩

/-! ## Messages, copies, synchronisation -/

/-- 15 packets unacknowledged; a binding to queue 2 of index 1 with k free slots. -/
def sender (k : Nat) (t : Tile) : Tile := { t with ni := { t.ni with
  replay := .replicate 15 (1, 0, 0), streams := [⟨1, 2, k⟩] } }
theorem SendForms :
    (let s := one (sender 1 (xs [(1, 1), (2, 5), (3, 0x2001), (4, 0x3001)]))
     s.t.ReadyX [1, 2] [] ∧ s.t.task.region = false ∧ s.t.opened = none ∧ s.headerFault s.t (s.t.popX 1).1 = none ∧ hdrLen (s.t.popX 1).1 = 0 ∧
     s.t.stream (hdrDest (s.t.popX 1).1) (hdrQueue (s.t.popX 1).1) = none ∧
     s.t.ni.replay.length + (s.t.ni.opens.toList.filter (·.isSome)).length < Config.replayDepth ∧ s.t.gang = some 0 ∧
     s.headerFault s.t (s.t.popX 3).1 = none ∧ hdrLen (s.t.popX 3).1 ≠ 0 ∧ s.t.stream (hdrDest (s.t.popX 3).1) (hdrQueue (s.t.popX 3).1) = none ∧
     s.headerFault s.t (s.t.popX 4).1 = none ∧ hdrLen (s.t.popX 4).1 ≠ 0 ∧ hdrNote (s.t.popX 4).1 = false ∧
     s.t.stream (hdrDest (s.t.popX 4).1) (hdrQueue (s.t.popX 4).1) = some ⟨1, 2, 1⟩ ∧
     (one (sender 0 tile0)).t.stream 1 2 = some ⟨1, 2, 0⟩) ∧
    (let s := one { tile0 with ni := { tile0.ni with opens := tile0.ni.opens.set 0 (some ⟨0x2001, 5, [1, 2]⟩) } }
     s.t.opened = some ⟨0x2001, 5, [1, 2]⟩ ∧ [1, 2].length + 2 = 4 * hdrLen 0x2001 ∧ ([] : List Word).length + 2 ≠ 4 * hdrLen 0x2001) := by
  all_goals (try unfold Tile.ReadyX)
  all_goals (try unfold Tile.ReadyY)
  all_goals (try dsimp only)
  all_goals (repeat' apply And.intro)
  all_goals first | decide +kernel | rfl | exact ⟨_, rfl⟩ | exact ⟨_, rfl, rfl⟩ | exact ⟨_, _, rfl⟩
/-- Queue 3 of 2^16 bytes with one packet. -/
def receiver (l : List RqEnt) (t : Tile) : Tile := { t with
  ur := { t.ur with rqsize := t.ur.rqsize.set 3 16 }, ni := { t.ni with rq := t.ni.rq.set 3 ⟨false, 64, l, none⟩ } }
/-- The same as a stream queue with a delivered packet. -/
def streamer (l : List RqEnt) (t : Tile) : Tile := { t with
  ur := { t.ur with rqsize := t.ur.rqsize.set 3 16 }, ni := { t.ni with rq := t.ni.rq.set 3 ⟨true, 64, l, some ⟨0, 32, 1⟩⟩ } }
theorem ReceiveForms :
    (let s := one (receiver [⟨0, 32, 1⟩] tile0)
     s.t.ReadyX [] [2] ∧ s.t.task.region = false ∧ s.t.rqLog (3 : QNum).toNat ≠ 0 ∧ (s.t.rq (3 : QNum).toNat).stream = false ∧
     (s.t.rq (3 : QNum).toNat).ents = [⟨0, 32, 1⟩]) ∧
    (let s := one (streamer [⟨32, 32, 1⟩] tile0)
     s.t.ReadyX [] [2] ∧ s.t.rqLog (3 : QNum).toNat ≠ 0 ∧ (s.t.rq (3 : QNum).toNat).stream = true ∧ (s.t.rq (3 : QNum).toNat).delivered = some ⟨0, 32, 1⟩ ∧
       s.t.gang = some 0) ∧ ((one (streamer [] tile0)).t.rq (3 : QNum).toNat).ents = [] ∧ ((one (receiver [] tile0)).t.rq (3 : QNum).toNat).ents = [] ∧
    (one { tile0 with ni := { tile0.ni with mbox := [(1, 2)] } }).t.ni.mbox = [(1, 2)] ∧ (one tile0).t.ni.mbox = [] ∧ (one tile0).t.ReadyX [] [2, 3] := by
  all_goals (try unfold Tile.ReadyX)
  all_goals (try unfold Tile.ReadyY)
  all_goals (try dsimp only)
  all_goals (repeat' apply And.intro)
  all_goals first | decide +kernel | rfl | exact ⟨_, rfl⟩ | exact ⟨_, rfl, rfl⟩ | exact ⟨_, _, rfl⟩
/-- A copy of the whole scratchpad's last row; 31 copies outstanding. -/
def copier (len rows : Word) (t : Tile) : Tile := { t with
  cp := ⟨0x200_001F_FF00, 0x200_0000_0000, len, rows, 0, 0, 1⟩, copies := .replicate 31 ⟨9, .reset, true, 0, none, 0, 0, .waiting, 0, [], 0, 0, 0⟩ }
theorem CopyForms :
    (let s := one (copier 256 1 (xs [(1, 0xFFFF), (2, 0x1_0000), (3, 9)]))
     s.t.ReadyX [1] [] ∧ s.t.ReadyX [] [2] ∧ s.t.task.region = false ∧ s.copyFault s.t s.t.cp = none ∧ s.t.copies.length < Config.copyDepth ∧ s.t.cp.clen ≠ 0 ∧
     s.t.cp.crows ≠ 0 ∧ s.t.ReadyX [1] [2] ∧ 2 ^ 16 ≤ (s.t.popX 2).1.toNat ∧ (s.t.popX 1).1.toNat < 2 ^ 16 ∧
     (∀ c ∈ s.t.copies, c.id ≠ (s.t.popX 1).1.toNat) ∧ (s.t.popX 3).1.toNat < 2 ^ 16 ∧
     s.t.copies.find? (fun c => c.id == (s.t.popX 3).1.toNat) = some ⟨9, .reset, true, 0, none, 0, 0, .waiting, 0, [], 0, 0, 0⟩) ∧
    (let s := one (copier 0 1 tile0)
     s.copyFault s.t s.t.cp = none ∧ s.t.cp.clen = 0 ∧ s.t.ni.held = [] ∧ s.t.ni.mbox.length < Config.mailboxDepth) := by
  all_goals (try unfold Tile.ReadyX)
  all_goals (try unfold Tile.ReadyY)
  all_goals (try dsimp only)
  all_goals (repeat' apply And.intro)
  all_goals first | decide +kernel | rfl | exact ⟨_, rfl⟩ | exact ⟨_, rfl, rfl⟩ | exact ⟨_, _, rfl⟩
/-- A gang boundary armed for both members of a gang of one die. -/
def cueB : Cue := ⟨0, 0, true, 0, 0, true, false, false, false, false, 0, 0xFFFF, false⟩
def gangB (e : Cue) : Gang := { gang0 with bmus := [⟨0, 1, 1, [], [e], [], []⟩], l2p := [(0, 0), (1, 1)] }
def withGang (g : Gang) (s : State) : State := { s with gangs := [g] }
/-- The package with the gang at a stage; what stands to be shown of the gang. -/
def stage (st : GStat) (f : Gang → Gang) (s : State) : State := withGang (f { gang0 with stat := st }) s
def isG (s : State) (p : Gang → Bool) : Bool := (s.gang? 0).any p
theorem WaitForms :
    (let s := one (xs [(1, 5)])
     s.t.user = true ∧ s.t.opened = none ∧ s.t.task.opened = false ∧ s.t.task.region = false ∧ s.t.fe.xq = [] ∧ s.gangOf s.t = some gang0 ∧
     s.t.ReadyX [1] [2]) ∧
    (one (superv tile0)).t.user = false ∧
    (one { tile0 with ni := { tile0.ni with opens := tile0.ni.opens.set 0 (some ⟨0x2001, 5, []⟩) } }).t.opened ≠ none ∧
    (let s := withGang (gangB cueB) (one (opened tile0))
     s.t.user = true ∧ s.t.opened = none ∧ s.t.task.opened = true ∧ s.atBoundary s.t = true) := by
  all_goals (try unfold Tile.ReadyX)
  all_goals (try unfold Tile.ReadyY)
  all_goals (try dsimp only)
  all_goals (repeat' apply And.intro)
  all_goals first | decide +kernel | rfl | exact ⟨_, rfl⟩ | exact ⟨_, rfl, rfl⟩ | exact ⟨_, _, rfl⟩
/-- Every token but the last held. -/
def tok7 : Vector Token 8 := (.replicate 8 ⟨8190, true, false, []⟩ : Vector Token 8).set 7 ⟨8191, false, false, []⟩
theorem FenceForms :
    (one tile0).t.ReadyX [] [0] ∧ (∀ c ∈ (one tile0).t.covers 15, (one tile0).uncovered (one tile0).t c = false) ∧
    (let s := one (full31 tile0)
     ∃ c ∈ s.t.covers 2, s.uncovered s.t c = true) ∧
    (let s := one { xs [(1, 8190 * 8)] with tokens := tok7 }
     (2 : XReg) ≠ 0 ∧ s.t.ReadyX [] [2] ∧ (s.t.tokens[7]).held = false ∧ (∀ m : Fin 8, m < 7 → (s.t.tokens[m]).held = true) ∧ s.t.ReadyX [1] [] ∧
     s.t.token 7 = none ∧ s.t.token (8190 * 8) = some 0 ∧ s.tokenDone s.t 0 = true) ∧
    (let s := one { full31 tile0 with tokens := tok7.set 0 ⟨5, true, false, [.access 3]⟩ }
     s.t.token 40 = some 0 ∧ s.tokenDone s.t 0 = false) := by
  all_goals (try unfold Tile.ReadyX)
  all_goals (try unfold Tile.ReadyY)
  all_goals (try dsimp only)
  all_goals (repeat' apply And.intro)
  all_goals first | decide +kernel | rfl | exact ⟨_, rfl⟩ | exact ⟨_, rfl, rfl⟩ | exact ⟨_, _, rfl⟩
theorem AtomicForms :
    (let s := one (xs [(1, 0x10_FFF8), (2, 5)])
     s.t.gang = some 0 ∧ amoOf (.amocas .w64 3 1 2) = some (.cas, .w64, 3, 1, 2) ∧ s.t.ReadyX [1, 2, 3] [3] ∧ s.t.ReadyX [1, 2] [3] ∧
     (s.checkAtomic ((s.t.popX 1).2.popX 2).2 .cas .w64 3 (s.t.popX 1).1).1.toOption = some 0x1_FFF8 ∧
     damoOf (.damomax .w64 3 1 2) = some (.max, .w64, 3, 1, 2) ∧ (s.t.popX 1).1.toNat < Config.globalTop ∧ (s.t.popX 1).1.toNat % wBytes .w64 = 0 ∧
     (s.translate ((s.t.popX 1).2.popX 2).2 (s.t.popX 1).1.toNat .write s.t.user).1.toOption = some 0x1_FFF8 ∧
     s.areaFits ((s.t.popX 1).2.popX 2).2 16 = true) ∧
    (let s := one { tile0 with task := { TaskSt.reset with area := 48 } }
     s.areaFits s.t 16 = true) := by
  all_goals (try unfold Tile.ReadyX)
  all_goals (try unfold Tile.ReadyY)
  all_goals (try dsimp only)
  all_goals (repeat' apply And.intro)
  all_goals first | decide +kernel | rfl | exact ⟨_, rfl⟩ | exact ⟨_, rfl, rfl⟩ | exact ⟨_, _, rfl⟩
/-- An unconditional entry of timestamp 5 at position 4095, the last of the table, with its code at 0x10_0040. -/
def tasked (n : Nat) (sp : Memory) : Tile := { tile0 with
  task := { TaskSt.reset with hasSched := true }, ur := { tile0.ur with cursor := n }, spad := sp }
theorem TaskForms :
    (let s := one (opened tile0)
     s.t.task.opened = true ∧ s.t.taskCopies = false ∧ s.t.task.tasks.getLast? = some task1) ∧ (one tile0).t.task.opened = false ∧
    (let s := one { opened tile0 with copies := [⟨1, { CpRegs.reset with csrc := 0x10_0000 }, true, 0, some 0, 0, 0, .waiting, 0, [], 0, 0, 0⟩] }
     s.t.task.opened = true ∧ s.t.taskCopies = true) ∧
    (let s := one (tasked 4096 [])
     s.t.ReadyX [] [26, 27] ∧ s.t.nextReady = true ∧ s.t.task.opened = false ∧ s.t.atEnd = true) ∧
    (let s := one (tasked 4095 [(0x1F_FFE0, 5), (0x1F_FFE8, 0x40), (0x1F_FFEA, 0x10)])
     s.t.ReadyX [] [26, 27] ∧ s.t.nextReady = true ∧ s.t.atEnd = false ∧ (s.t.entry s.t.ur.cursor).bad = false ∧ (s.t.entry s.t.ur.cursor).cond = false ∧
     (s.t.entry s.t.ur.cursor).ts = 5 ∧ (s.t.entry s.t.ur.cursor).pc = 0x10_0040 ∧
     s.serialHold s.t (s.t.entry s.t.ur.cursor).ts s.t.ur.cursor = false) := by
  all_goals (try unfold Tile.ReadyX)
  all_goals (try unfold Tile.ReadyY)
  all_goals (try dsimp only)
  all_goals (repeat' apply And.intro)
  all_goals first | decide +kernel | rfl | exact ⟨_, rfl⟩ | exact ⟨_, rfl, rfl⟩ | exact ⟨_, _, rfl⟩

/-! ## Special registers, traps, privilege -/

theorem SpecialRegisters : (one tile0).cur < Config.tiles ∧ (one (superv (xs [(1, 0x3F), (2, 0x8)]))).t.ReadyX [] [1] ∧ (one (superv tile0)).t.user = false ∧ (one (superv tile0)).t.sr.minting = none ∧
    (one tile0).t.ReadyX [1] [] ∧ bitsOf (4 : Word) 3 2 < 2 ∧ 2 ≤ bitsOf (8 : Word) 3 2 ∧ (one tile0).t.ReadyY [] [1] ∧ (one tile0).t.ReadyY [1] [] ∧
    (0x7FFF_FFFF_FFFF_FFFF : Word).getLsbD 63 = false ∧ 1 ≤ (256 : Word).toNat ∧ (256 : Word).toNat ≤ 256 ∧ 256 < (257 : Word).toNat := by
  all_goals (try unfold Tile.ReadyX)
  all_goals (try unfold Tile.ReadyY)
  all_goals (try dsimp only)
  all_goals (repeat' apply And.intro)
  all_goals first | decide +kernel | rfl | exact ⟨_, rfl⟩ | exact ⟨_, rfl, rfl⟩ | exact ⟨_, _, rfl⟩
/-- Queue 0 of 2^19 bytes, which would reach the schedule table from its base on; a gang of DET. -/
def wide : Tile := { tile0 with task := { TaskSt.reset with hasSched := true }, ur := { tile0.ur with rqsize := tile0.ur.rqsize.set 0 19 } }
theorem SpecialRegisters_2 :
    (let t := { nested 2 2 with fe := { (nested 2 2).fe with ipc := 0x10_0010, loops := (nested 2 2).regs.loop } }
     let r := t.fe.loops.get .zero
     r.lc ≠ 0 ∧ r.ls.toNat ≤ t.fe.ipc.toNat ∧ t.fe.ipc.toNat ≤ r.le.toNat ∧ (tile0.fe.loops.get .one).lc = 0) ∧
    ((one wide).t.rqOverlap (bitsOf (0x17_FFFF : Word) 20 0) ((one wide).t.rqLog (0 : QNum).toNat) = false ∧
      (one wide).t.rqOverlap (bitsOf (0x18_0000 : Word) 20 0) ((one wide).t.rqLog (0 : QNum).toNat) = true) ∧
    ((10 ≤ bitsOf (10 : Word) 4 0 ∧ bitsOf (10 : Word) 4 0 ≤ 19) ∧ (one wide).t.rqOverlap (one wide).t.ur.rqbase[0].toNat (bitsOf (10 : Word) 4 0) = false ∧
      ¬(bitsOf (9 : Word) 4 0 = 0 ∨ (10 ≤ bitsOf (9 : Word) 4 0 ∧ bitsOf (9 : Word) 4 0 ≤ 19))) ∧
    (∀ k, k < 4 → bitsOf (0x924 : Word) (3 * k + 2) (3 * k) ≤ 4) ∧ ¬(∀ k, k < 4 → bitsOf (5 : Word) (3 * k + 2) (3 * k) ≤ 4) ∧
    (one (superv tile0)).det (one (superv tile0)).t = false ∧ (withGang { gang0 with det := true } (one (superv tile0))).det (superv tile0) = true ∧
    (12 ≤ bitsOf (24 : Word) 4 0 ∧ bitsOf (24 : Word) 4 0 ≤ 24) ∧ ¬(bitsOf (25 : Word) 4 0 = 0 ∨ (12 ≤ bitsOf (25 : Word) 4 0 ∧ bitsOf (25 : Word) 4 0 ≤ 24)) ∧
    (one (superv tile0)).capBad (superv tile0) 0x3_8000 = false ∧ (one (superv tile0)).capBad (superv tile0) 0x3_8FFF = true ∧
    (one (superv { tile0 with sr := { tile0.sr with minting := some 0x2000 } })).t.sr.minting ≠ none := by
  all_goals (try unfold Tile.ReadyX)
  all_goals (try unfold Tile.ReadyY)
  all_goals (try dsimp only)
  all_goals (repeat' apply And.intro)
  all_goals first | decide +kernel | rfl | exact ⟨_, rfl⟩ | exact ⟨_, rfl, rfl⟩ | exact ⟨_, _, rfl⟩
theorem PrivilegeTraps : (one tile0).t.ReadyX [] [1] ∧ (one tile0).t.ReadyX [1] [] ∧ (one tile0).t.user = true ∧ 0x100 ≤ (0x100 : BitVec 12).toNat ∧
    (sprOf (0x100 : BitVec 12).toNat).isSome = true ∧ 0xF00 ≤ (0xF00 : BitVec 12).toNat := by
  all_goals (try unfold Tile.ReadyX)
  all_goals (try unfold Tile.ReadyY)
  all_goals (try dsimp only)
  all_goals (repeat' apply And.intro)
  all_goals first | decide +kernel | rfl | exact ⟨_, rfl⟩ | exact ⟨_, rfl, rfl⟩ | exact ⟨_, _, rfl⟩
/-- What tile 0 held before an X word, and the tile when that word, the seventh, has gone ahead of a stalled A word: it has read an A to X port and filled
an X to A port. -/
def found : Before := ⟨tile0.regs.y, tile0.regs.v, tile0.regs.m, 3, [7], [], 1, 0⟩
def wentAhead : Tile := { ports 7 8 1 0 with fe := { tile0.fe with iseq := 5, ahead := [⟨3, 0x10_0004, none⟩, ⟨7, 0x10_0008, some found⟩] } }
theorem TrapEntry : (cPremature 31).code < 256 ∧ (cPremature 31).detail < 2 ^ 32 ∧ tile0.mode < 3 ∧ (superv tile0).mode < 3 ∧
    (∀ a ∈ wentAhead.fe.ahead, a.seq ≤ 7) ∧
    wentAhead.fe.ahead.filter (fun a => decide (5 < a.seq)) = [⟨7, 0x10_0008, some found⟩] ∧ wentAhead.fe.res = [] ∧ found.push0 ≤ wentAhead.regs.qxa0.length ∧
    found.push1 ≤ wentAhead.regs.qxa1.length ∧ wentAhead.regs.qax0.length + found.pop0.length ≤ 8 ∧ wentAhead.regs.qax1.length + found.pop1.length ≤ 8 := by
  all_goals (try unfold Tile.ReadyX)
  all_goals (try unfold Tile.ReadyY)
  all_goals (try dsimp only)
  all_goals (repeat' apply And.intro)
  all_goals first | decide +kernel | rfl | exact ⟨_, rfl⟩ | exact ⟨_, rfl, rfl⟩ | exact ⟨_, _, rfl⟩
/-- The last member of a gang of one to halt. -/
def ending : State := withGang { gang0 with l2p := [(0, 0)] } (one { tile0 with ctl := { tile0.ctl with passedTerm := true } })
theorem SystemForms :
    (one tile0).t.mode = 0 ∧ (one (superv tile0)).t.mode = 1 ∧ (one (superv tile0)).t.drained (one (superv tile0)).t.fe.iseq = true ∧
    (one { tile0 with sr := { tile0.sr with status := 2 } }).t.mode = 2 ∧ bitsOf ((one { tile0 with sr := { tile0.sr with tickcmp := 0 } }).t.pending 0) 13 0 ≠ 0 ∧
    bitsOf ((one tile0).t.pending 0) 13 0 = 0 ∧ (one (superv tile0)).t.user = false ∧ (one (superv tile0)).t.ReadyX [1] [] ∧
    ((one (superv (xs [(1, 0x7F_FFFF_FFFF)]))).t.popX 1).1.toNat < Config.globalTop ∧ (one (superv tile0)).gangOf (one (superv tile0)).t = some gang0 ∧
    (one tile0).t.ctl.passedTerm = false ∧
    (ending.t.mode < 2 ∧ ending.t.ctl.passedTerm = true ∧ ending.t.task.opened = false ∧ ending.t.opened = none ∧ ending.t.haltReady = true ∧
      ending.gangOf ending.t = some { gang0 with l2p := [(0, 0)] } ∧
      (let u := ending.setT { ending.t with ctl := { ending.t.ctl with stat := .halted }, fe := { ending.t.fe with flow := .wait } }
       (u.allHalted { gang0 with l2p := [(0, 0)] } && u.haltAgreed { gang0 with l2p := [(0, 0)] } ending.cur) = true)) ∧
    ((one tile0).setT { (one tile0).t with ctl := { (one tile0).t.ctl with stat := .halted } }).allHalted gang0 = false := by
  all_goals (try unfold Tile.ReadyX)
  all_goals (try unfold Tile.ReadyY)
  all_goals (try dsimp only)
  all_goals (repeat' apply And.intro)
  all_goals first | decide +kernel | rfl | exact ⟨_, rfl⟩ | exact ⟨_, rfl, rfl⟩ | exact ⟨_, _, rfl⟩

/-! ## Events of a tile's registers and waits -/

theorem RegisterEvents : (0 : Nat) < Config.tiles ∧ 1535 < Config.tiles ∧ Config.tiles ≤ 1536 ∧
    (let s := one { tile0 with sr := { tile0.sr with minting := some 0x2000 } }
     (∃ c, s.capBad (s.tile 0) c = false) ∧ (∃ c, s.capBad (s.tile 0) c = true) ∧ (s.tile 0).sr.minting = some 0x2000 ∧
       s.gangOf (s.tile 0) = some gang0 ∧ (s.tile 0).gang = some 0) := by
  refine ⟨?_, ?_, ?_, ⟨0x3_8000, ?_⟩, ⟨0x3_8FFF, ?_⟩, ?_, ?_, ?_⟩ <;> decide +kernel
/-- The regions of R41 that an event may write and those that R36 and R53 keep it from: by size, and by place in U mode with a schedule table. -/
theorem RegisterEvents_region :
    (let bad := fun (t : Tile) (size : Bool) (val : Word) =>
       let k := if size then bitsOf val 4 0 else t.rqLog 3
       let b := if size then (t.ur.rqbase[3]'(by decide)).toNat else bitsOf val 20 0
       decide ((size = true ∧ ¬(k = 0 ∨ (10 ≤ k ∧ k ≤ 19))) ∨ (t.user = true ∧ t.task.hasSched = true ∧ k ≠ 0 ∧ Config.schedBase < b - b % 2 ^ k + 2 ^ k))
     let w := { tile0 with task := { TaskSt.reset with hasSched := true }, ur := { tile0.ur with rqsize := tile0.ur.rqsize.set 3 16 } }
     bad tile0 true 9 = true ∧ bad tile0 true 20 = true ∧ bad tile0 true 10 = false ∧ bad tile0 true 19 = false ∧ bad tile0 true 0 = false ∧
       bad tile0 false 0x1F_0000 = false ∧ bad w false 0x1F_0000 = true ∧ bad w false 0x1C_0000 = false ∧ bad (superv w) false 0x1F_0000 = false) ∧
    (one (streamer [⟨32, 64, 1⟩] tile0)).t.gang = some 0 ∧ ((one (streamer [⟨32, 64, 1⟩] tile0)).t.rq 3).stream = true := by
  all_goals (try unfold Tile.ReadyX)
  all_goals (try unfold Tile.ReadyY)
  all_goals (try dsimp only)
  all_goals (repeat' apply And.intro)
  all_goals first | decide +kernel | rfl | exact ⟨_, rfl⟩ | exact ⟨_, rfl, rfl⟩ | exact ⟨_, _, rfl⟩
/-- The thread waits. -/
def waits (w : Wait) (t : Tile) : Tile := { t with ctl := { t.ctl with stat := .waiting w } }
/-- Every source enabled with interrupts on, in U mode. -/
def taking (pend : Word) (w : Option Wait) : Tile := { tile0 with
  sr := { tile0.sr with status := 0x10, inten := 0x3FFF, intpend := pend, tickcmp := 0 }, ni := { tile0.ni with refusals := [⟨5, 0, true, false⟩] }
  ctl := { tile0.ctl with stat := (w.map Stat.waiting).getD .running } }
theorem WaitEvents_take :
    (let t := (one (taking 0 none)).tile 0
     t.takeable 0 = some 8 ∧ t.ctl.stat = .running ∧ (one (taking 0 none)).slotOn 0 = true ∧ t.drained t.nextA = true ∧ t.owing = false ∧ (∀ c ∈ t.envq, c.op.holdsX = false) ∧ t.discards = none ∧ t.ni.refusals ≠ []) ∧
    (let t := (one (taking 0x2000 (some .wmsg))).tile 0
     t.takeable 0 = some 13 ∧ t.ctl.stat = .waiting .wmsg ∧ t.drained t.nextA = true ∧ t.owing = false ∧ t.discards = none ∧ Wait.wmsg.interruptible = true) ∧
    (let t := (one { taking 0 none with ni := tile0.ni }).tile 0
     t.takeable 0 = some 0) := by
  all_goals (try unfold Tile.ReadyX)
  all_goals (try unfold Tile.ReadyY)
  all_goals (try dsimp only)
  all_goals (repeat' apply And.intro)
  all_goals first | decide +kernel | rfl | exact ⟨_, rfl⟩ | exact ⟨_, rfl, rfl⟩ | exact ⟨_, _, rfl⟩
/-- An envelope of one line. -/
def env1 : Env := ⟨true, 0x8000_0000_0000_0000, 0x7FFF_FFFF_FFFF_FFFF, [(1, 0)], []⟩
/-- A command is in progress, the last word that issued, when a source is pending. -/
def midway (c : EnvOp) : Tile := { taking 0x2000 none with
  envq := [{ evc with op := c, seq := 6, pc := 0x10_0004 }], fe := { tile0.fe with seq := 7 }, env := tile0.env.set 1 env1 }
theorem WaitEvents_discard :
    (let t := (one (midway (.eeval 1 1 5))).tile 0
     let c : EnvCmd := { evc with op := .eeval 1 1 5, seq := 6, pc := 0x10_0004 }
     t.takeable 0 = some 13 ∧ t.ctl.stat = .running ∧ t.envq = c :: [] ∧ c.op.holdsX = true ∧ t.fe.xq = [] ∧ t.fe.xl = [] ∧ t.fe.ahead = [] ∧ t.nextA = c.seq + 1 ∧
       (one (midway (.eeval 1 1 5))).slotOn 0 = true ∧ t.envFaults c = false) ∧
    (let t := (one (midway (.eeval 1 1 0x8000_0000_0000_0000))).tile 0
     let c : EnvCmd := { evc with op := .eeval 1 1 0x8000_0000_0000_0000, seq := 6, pc := 0x10_0004 }
     t.takeable 0 = some 13 ∧ t.envq = c :: [] ∧ c.op.holdsX = true ∧ t.nextA = c.seq + 1 ∧ t.envFaults c = true) ∧
    (let t := (one (midway (.eclr 7))).tile 0
     let c : EnvCmd := { evc with op := .eclr 7, seq := 6, pc := 0x10_0004 }
     t.takeable 0 = some 13 ∧ t.envq = c :: [] ∧ c.op.holdsX = false ∧ t.nextA = c.seq + 1 ∧ t.envFaults c = false) ∧
    (let s := one { tile0 with sr := { tile0.sr with tickcmp := 40 } }
     (∀ d ∈ s.dues, s.tick < d → 40 ≤ d) ∧ (s.tile 0).sr.tickcmp.toNat = 40) ∧
    (let s := (one { tile0 with sr := { tile0.sr with tickcmp := 9000 } }).onDie 0 fun d => { d with ramp := some 650, mv := 655 }
     ∃ d ∈ s.dues, s.tick < d ∧ d < 9000) := by
  all_goals (try unfold Tile.ReadyX)
  all_goals (try unfold Tile.ReadyY)
  all_goals (try dsimp only)
  all_goals (repeat' apply And.intro)
  all_goals first | decide +kernel | rfl | exact ⟨_, rfl⟩ | exact ⟨_, rfl, rfl⟩ | exact ⟨_, _, rfl⟩
/-- Tile 1 waits for tile 0 to acknowledge an invalidation. -/
def invalidating : State := { one tile0 with tiles := [(0, tile0), (1, waits (.inval 0x100_0000 [0]) { tile0 with lidx := 1 })] }
theorem WaitEvents :
    (let s := one (waits .idle { tile0 with sr := { tile0.sr with tickcmp := 0 } })
     s.slotOn 0 = true ∧ (s.tile 0).ctl.stat = .waiting .idle ∧ bitsOf ((s.tile 0).pending s.tick) 13 0 ≠ 0) ∧
    (let s := one (waits .wmsg { tile0 with ni := { tile0.ni with mbox := [(1, 2)] } })
     (s.tile 0).ctl.stat = .waiting .wmsg ∧ (s.tile 0).ni.mbox ≠ []) ∧
    (let s := one (waits (.fwait 0) { tile0 with tokens := tile0.tokens.set 0 ⟨3, true, false, []⟩ })
     (s.tile 0).ctl.stat = .waiting (.fwait 0) ∧ s.tokenDone (s.tile 0) 0 = true) ∧
    (let s := one (waits (.rcv 3 2) (receiver [⟨0, 32, 1⟩, ⟨32, 64, 1⟩] tile0))
     (s.tile 0).ctl.stat = .waiting (.rcv 3 2) ∧ ((s.tile 0).rq (3 : QNum).toNat).ents = ⟨0, 32, 1⟩ :: [⟨32, 64, 1⟩]) ∧
    (invalidating.quietAt 0 = true ∧ (invalidating.tiles.filter (fun e => e.2.awaits 0) =
        [(1, waits (.inval 0x100_0000 [0]) { tile0 with lidx := 1 })]) ∧
      (waits (.inval 0x100_0000 [0]) { tile0 with lidx := 1 }).ctl.stat = .waiting (.inval 0x100_0000 [0])) ∧
    (let s : State := { one (waits (.barrier none 0) { tile0 with sr := { tile0.sr with bwlimit := 1 } }) with tick := 2 }
     (s.tile 0).ctl.stat = .waiting (.barrier none 0) ∧ (s.tile 0).ctl.raised = false ∧ bitsOf (s.tile 0).sr.bwlimit 31 0 ≠ 0 ∧
       (s.tile 0).ctl.since + bitsOf (s.tile 0).sr.bwlimit 31 0 < s.tick) ∧
    (let s : State := { one (waits (.stream 1 2) { tile0 with sr := { tile0.sr with rslimit := 0xFFFF_FFFF } }) with tick := 0x1_0000_0000 }
     (s.tile 0).ctl.stat = .waiting (.stream 1 2) ∧ (s.tile 0).ctl.raised = false ∧ bitsOf (s.tile 0).sr.rslimit 31 0 ≠ 0 ∧
       (s.tile 0).ctl.since + bitsOf (s.tile 0).sr.rslimit 31 0 < s.tick) := by
  all_goals (try unfold Tile.ReadyX)
  all_goals (try unfold Tile.ReadyY)
  all_goals (try dsimp only)
  all_goals (repeat' apply And.intro)
  all_goals first | decide +kernel | rfl | exact ⟨_, rfl⟩ | exact ⟨_, rfl, rfl⟩ | exact ⟨_, _, rfl⟩

/-! ## Events of the engines -/

def mxWith (t : Tile) (f : Matrix → Matrix) : State := one { t with mx := f t.mx }
def rotc : MxCmd := { mxc with op := .mrot, mring := 3 }
def runOf (c : MxCmd) : MxRun := ⟨c, false, false, false, 0, [], false, [], [], 0, false⟩
def flight (src dst : Nat) (m : Msg) : Flight := ⟨0, src, dst, m, 0, false, 0, 1⟩
/-- The package with one item of tile 1's on the way, and what stands to be shown of its arrival. -/
def withNet (l : List Flight) (s : State) : State := { s with net := l }
def arrives (s : State) (k : Nat) (p : Flight → State → Bool) : Bool := (s.arrival k).any fun e => p e.1 e.2
theorem MatrixUnitEvents :
    (let s := mxWith tile0 fun m => { m with fifo := [mxc], remote := [], lastRemote := false }
     (s.tile 0).mx.run = none ∧ (s.tile 0).mx.fifo = mxc :: [] ∧ (s.tile 0).mx.remote = [] ∧ (mxc.rot = true → ringLen mxc.mring = 1)) ∧
    (let s := mxWith tile0 fun m => { m with fifo := [mxc], remote := [mxc], lastRemote := false }
     (s.tile 0).mx.run = none ∧ (s.tile 0).mx.remote = mxc :: [] ∧ (s.tile 0).mx.lastRemote = false) ∧
    (let s := mxWith tile0 fun m => { m with fifo := [rotc] }
     (s.tile 0).mx.run = none ∧ (s.tile 0).mx.fifo = rotc :: [] ∧ rotc.rot = true ∧ 1 < ringLen rotc.mring ∧ (s.tile 0).mx.credit = true ∧
       (s.tile 0).gang = some 0) ∧
    (let s := one { tile0 with scan := { tile0.scan with fifo := [{ scc with op := .spass }] } }
     (s.tile 0).scan.run = none ∧ (s.tile 0).scan.fifo = { scc with op := .spass } :: [] ∧ (s.tile 0).scan.spassDone = false) ∧
    (let c : MxCmd := { mxc with op := .mma, word := 0x1000_0000 }
     let r : MxRun := { runOf c with computed := true }
     let s := mxWith tile0 fun m => { m with run := some r, cf := .replicate 7 0 }
     (s.tile 0).mx.run = some r ∧ r.computed = true ∧ (r.cmd.rot = true → r.swapped = true) ∧ r.cmd.sender = none ∧ r.cmd.notify = 1 ∧
       (s.tile 0).mx.cf.length < 8) ∧
    (let r : MxRun := { runOf { mxc with op := .mma } with computed := true }
     r.cmd.notify = 0 ∧ (r.cmd.rot = true → r.swapped = true)) ∧
    (let s := withNet [flight 1 0 (.ring .empty 3)] (mxWith tile0 fun m => { m with ring := 3 })
     s.ringItem (s.tile 0) = some 0 ∧ arrives s 0 (fun f s1 => f.msg == .ring .empty 3 && s1.flightTile f f.src == some 1 && s1.tick == 0) = true ∧
       3 = bitsOf (s.tile 0).mx.ring 2 0) ∧
    (let r : MxRun := { runOf rotc with computed := true }
     let s := mxWith tile0 fun m => { m with run := some r, sent := true, backIn := true }
     (s.tile 0).mx.run = some r ∧ r.cmd.rot = true ∧ r.computed = true ∧ r.swapped = false ∧ (s.tile 0).mx.sent = true ∧ (s.tile 0).mx.backIn = true) ∧
    (let s := withNet [flight 1 0 .credit] (one tile0)
     s.net.findIdx? (fun f => some f.g == (s.tile 0).gang && f.dst == (s.tile 0).lidx && f.msg == .credit) = some 0 ∧
       arrives s 0 (fun _ _ => true) = true ∧ (s.tile 0).mx.sending = false) := by
  all_goals (try unfold Tile.ReadyX)
  all_goals (try unfold Tile.ReadyY)
  all_goals (try dsimp only)
  all_goals (repeat' apply And.intro)
  all_goals first | decide +kernel | rfl | exact ⟨_, rfl⟩ | exact ⟨_, rfl, rfl⟩ | exact ⟨_, _, rfl⟩
/-- The slot is enabled, and the ring register is read in a remote command's place. -/
theorem MatrixUnitEvents_2 :
    (one tile0).slotOn 0 = true ∧ ({ one tile0 with tick := 0xFFFF } : State).slotOn 1535 = true ∧
    (let r : MxRun := { runOf mxc with computed := true, out := [⟨0, 0xFF, 5⟩], errs := [(1, 0, 0)] }
     r.cmd.notify = 0 ∧ r.cmd.sender = none ∧ r.out ≠ []) ∧
    (let r : MxRun := { runOf { rotc with mring := 0 } with computed := true }
     r.cmd.rot = true ∧ r.swapped = false ∧ ringLen r.cmd.mring = 1) := by
  all_goals (try unfold Tile.ReadyX)
  all_goals (try unfold Tile.ReadyY)
  all_goals (try dsimp only)
  all_goals (repeat' apply And.intro)
  all_goals first | decide +kernel | rfl | exact ⟨_, rfl⟩ | exact ⟨_, rfl, rfl⟩ | exact ⟨_, _, rfl⟩
/-- A pass of 1 x 2 by 2 x 1 over BF16 elements. -/
def passc (zero : Bool) : MxCmd := { mxc with
  op := .mma, acc := 7, addr := win5, word := if zero then 0x200_2041 else 0x2041 }
def halfB : Half := ⟨2, some .bf16, none, [(0, 0x3F80), (32, 0x4000)]⟩
/-- A record whose capability names tile 0, every accumulator and BF16 operands, with seven held; one with another tile's; one at a full queue. -/
theorem MatrixUnitEvents_record :
    (∃ capV : Word, let c := passc false
     let m : Msg := .mcmd 3 4 capV c true
     let s := withNet [flight 1 0 m] (mxWith tile0 fun x => { x with remote := .replicate 7 mxc })
     s.arrival 0 = some (flight 1 0 m, { s with net := [] }) ∧ ({ s with net := [] } : State).flightTile (flight 1 0 m) 0 = some 0 ∧
       (s.tile 0).gang = some 0 ∧ s.gang? 0 = some gang0 ∧ anyWin c.addr = some (5, 0) ∧ mxFmt 5 0 = some .bf16 ∧ (s.tile 0).mx.remote.length < 8 ∧
       (∀ b ∈ [mint (({ s with net := [] } : State).keyOf gang0.part) capV == capV, bitsOf capV 10 0 == (s.tile 0).lidx,
         decide (bitsOf capV 13 11 ≤ c.acc.toNat ∧ c.acc.toNat ≤ bitsOf capV 16 14), capV.getLsbD (17 + LFmt.bf16.group),
         true && (mmaCheck c.word c.addr (s.tile 0).ur.pstride).isNone, (s.tile 0).ctl.stat != .halted], b = true)) ∧
    ([true, bitsOf (0x3_C001 : Word) 10 0 == 0].findIdx? (fun b => !b) = some 1) ∧
    8 ≤ (mxWith tile0 fun x => { x with remote := .replicate 8 mxc }).t.mx.remote.length := by
  obtain ⟨capV, hm, h⟩ : ∃ c : Word, mint 0 c = c ∧ c.toNat % 2 ^ 24 = 0x3_C000 := ⟨mint 0 0x3_C000, mint_mint 0 _, mint_low 0 _⟩
  refine ⟨⟨capV, rfl, rfl, rfl, rfl, rfl, rfl, Nat.lt_of_le_of_lt (Nat.le_of_eq rfl) (by decide : 7 < 8), ?_⟩, by decide +kernel, by decide +kernel⟩
  simp only [List.forall_mem_cons, List.not_mem_nil, false_imp_iff, implies_true, and_true, beq_iff_eq, decide_eq_true_eq]
  refine ⟨hm, ?_, ⟨?_, ?_⟩, ?_, ?_, ?_⟩
  · show capV.toNat / 2 ^ 0 % 2 ^ 11 = 0
    omega
  · show capV.toNat / 2 ^ 11 % 2 ^ 3 ≤ 7
    omega
  · show 7 ≤ capV.toNat / 2 ^ 14 % 2 ^ 3
    omega
  · show capV.toNat.testBit 17 = true
    rw [Nat.testBit_eq_decide_div_mod_eq, decide_eq_true_eq]
    omega
  · rfl
  · rfl
theorem MatrixEffects :
    (let r := runOf { mxc with op := .mzero }
     let s := mxWith tile0 fun m => { m with run := some r }
     s.slotOn 0 = true ∧ (s.tile 0).mx.run = some r ∧ r.computed = false ∧ r.out = [] ∧ r.fault = false ∧ r.cmd.sender = none ∧ r.cmd.op = .mzero) ∧
    (let r := runOf { mxc with op := .mscale }
     r.cmd.op = .mscale ∧ r.cmd.notify = 0 ∧ r.cmd.sender = none) ∧ (runOf { mxc with op := .mcfg }).cmd.op = .mcfg ∧
    (let c := passc false
     let s := mxWith tile0 fun m => { m with run := some (runOf c), front := halfB }
     s.slotOn 0 = true ∧ (s.tile 0).mx.run = some (runOf c) ∧ (runOf c).computed = false ∧ (runOf c).out = [] ∧ (runOf c).fault = false ∧ c.op = .mma ∧ c.notify = 0 ∧ shRot c.word = false ∧ c.sender = none ∧
       selfParts c.addr = some (0, 5, 0, 0) ∧ mxFmt 5 0 = some .bf16 ∧ (s.tile 0).mx.front.fmt = some .bf16 ∧ 0 < shM c.word ∧ shM c.word ≤ 32 ∧
       0 < shN c.word ∧ shN c.word ≤ 32 ∧ 0 < shK c.word) := by
  all_goals (try unfold Tile.ReadyX)
  all_goals (try unfold Tile.ReadyY)
  all_goals (try dsimp only)
  all_goals (repeat' apply And.intro)
  all_goals first | decide +kernel | rfl | exact ⟨_, rfl⟩ | exact ⟨_, rfl, rfl⟩ | exact ⟨_, _, rfl⟩
def envT (c : EnvOp) (lim : Word) (es : Env) : State := one { tile0 with
  envq := [{ evc with op := c, elimit := lim }], env := tile0.env.set 1 es }
theorem EnvelopeEffects :
    (let s := envT (.eclr 7) 256 env1
     (s.tile 0).envq = { evc with op := .eclr 7, elimit := 256 } :: [] ∧ (s.tile 0).isStopped = false) ∧
    (let c : EnvCmd := { evc with op := .eins 7 2 3, elimit := 256 }
     (((envT c.op 256 env1).tile 0).envResult c).any (fun r => r.1 == 7 && (match r.2 with
       | .ok _ => true
       | _ => false)) = true) ∧
    (let c : EnvCmd := { evc with op := .eins 1 2 3, elimit := 1 }
     let s := envT c.op 1 env1
     let t := { s.tile 0 with fe := { (s.tile 0).fe with seq := 1 } }
     t.envResult c = some (1, .capacity 2) ∧ t.envFirst c = true ∧ (s.tile 0).envFaults c = true ∧ (s.tile 0).nextA ≤ c.seq) ∧
    (let c : EnvCmd := { evc with op := .eins 1 0x7FFF_FFFF_FFFF_FFFF 3, elimit := 1 }
     let s := envT c.op 1 env1
     let t := { s.tile 0 with fe := { (s.tile 0).fe with seq := 1 } }
     t.envResult c = some (1, .range) ∧ t.envFirst c = true) ∧
    (({ evc with op := .ecnt 11 1 } : EnvCmd).op = .ecnt 11 1) ∧
    (envEval env1 5).isSome = true ∧ (({ evc with op := .eeval 11 1 5 } : EnvCmd).op = .eeval 11 1 5) ∧
    (({ evc with op := .est 1 0x200_0000_0000 } : EnvCmd).op = .est 1 0x200_0000_0000) := by
  all_goals (try unfold Tile.ReadyX)
  all_goals (try unfold Tile.ReadyY)
  all_goals (try dsimp only)
  all_goals (repeat' apply And.intro)
  all_goals first | decide +kernel | rfl | exact ⟨_, rfl⟩ | exact ⟨_, rfl, rfl⟩ | exact ⟨_, _, rfl⟩
/-- An improper result, an evaluation at an infinity code, and the two parts of a stored image. -/
theorem EnvelopeEffects_2 :
    (one tile0).slotOn 0 = true ∧ (one tile0).t.switched = false ∧
    (let c : EnvCmd := { evc with op := .einf 7 2 3, elimit := 256 }
     ((envT c.op 256 env1).tile 0).envResult c = some (7, .improper)) ∧
    envEval env1 0x8000_0000_0000_0000 = none ∧ (({ evc with op := .eeval 11 1 0x8000_0000_0000_0000 } : EnvCmd).op = .eeval 11 1 0x8000_0000_0000_0000) ∧
    (({ evc with op := .est 1 0x200_0000_0000, out := some [⟨5, 0xFF, 1⟩] } : EnvCmd).out = some [⟨5, 0xFF, 1⟩]) ∧ ({ evc with op := .est 1 0 } : EnvCmd).out = none := by
  all_goals (try unfold Tile.ReadyX)
  all_goals (try unfold Tile.ReadyY)
  all_goals (try dsimp only)
  all_goals (repeat' apply And.intro)
  all_goals first | decide +kernel | rfl | exact ⟨_, rfl⟩ | exact ⟨_, rfl, rfl⟩ | exact ⟨_, _, rfl⟩
/-- The only tile of a chain, head and tail, at SWAIT. -/
def closing : State := { one (waits (.swait 3) (chain true { tile0 with scan := { tile0.scan with sclosed := true, spassDone := true, closedAt := 4 } })) with tick := 5 }
theorem ScanEvents :
    (let c : ScCmd := { scc with op := .sapply, word := 8 }
     let s := one { tile0 with scan := { tile0.scan with run := some c } }
     (s.tile 0).scan.run = some c ∧ c.word.getLsbD 17 = false ∧ c.op = .sapply) ∧
    (let s := withNet [flight 0 1 (.carry 1024 [5])] (one tile0)
     arrives s 0 (fun f s1 => f.msg == .carry 1024 [5] && s1.flightTile f f.dst == some 1) = true) ∧
    (let c : ScCmd := { scc with op := .spass, cfg := 64 }
     let s := one { tile0 with scan := { tile0.scan with run := some c, carryIn := some (0, [7]) } }
     (s.tile 0).scan.run = some c ∧ c.op = .spass ∧ (s.tile 0).spassIn c = some ([0], true) ∧ (s.tile 0).gang = some 0 ∧ s.gang? 0 = some gang0) ∧
    (let c : ScCmd := { scc with op := .sclose }
     let s := one { tile0 with scan := { tile0.scan with run := some c, spassDone := true } }
     (s.tile 0).scan.run = some c ∧ c.op = .sclose ∧ (s.tile 0).scan.spassDone = true) ∧
    (closing.gang? 0 = some gang0 ∧ gang0.phys 0 = some 0 ∧ closing.chainFrom gang0 1536 0 = [0] ∧ (closing.tile 0).chTail = true ∧
      (closing.tile 0).scan.sclosed = true ∧ (closing.tile 0).scan.spassDone = true ∧ (∀ p ∈ [0], (closing.tile p).atSwait = true) ∧
      (closing.tile 0).ctl.stat = .waiting (.swait 3)) := by
  all_goals (try unfold Tile.ReadyX)
  all_goals (try unfold Tile.ReadyY)
  all_goals (try dsimp only)
  all_goals (repeat' apply And.intro)
  all_goals first | decide +kernel | rfl | exact ⟨_, rfl⟩ | exact ⟨_, rfl, rfl⟩ | exact ⟨_, _, rfl⟩

/-- A result whose second part stands out; a chain whose release is a tick away, and one over two dies. -/
theorem ScanEvents_2 :
    (let s := one { tile0 with scan := { tile0.scan with run := some { scc with op := .sapply, word := 8 }, ready := true, out := [⟨3, 0xFF, 7⟩] } }
     s.slotOn 0 = true ∧ (s.tile 0).scan.ready = true) ∧ (one tile0).t.scan.ready = false ∧ Memory.wf ([(3, 7), (9, 1)] : Memory) = true ∧ (∀ e ∈ [((3 : Nat), (0xFF : Byte)), (9, 0xFF)], e.2 = 0xFF) ∧
    (let u := closing.tile 0
     [0].foldl (fun a p => max a (closing.tile p).ctl.since) u.scan.closedAt + (if [0].all (fun p => p / 192 == 0 / 192) then 8 else 64) = 12) ∧
    closing.tick < 12 ∧ 12 ≤ ({ closing with tick := 12 } : State).tick ∧ [0, 192].all (fun p => p / 192 == 0) = false := by
  all_goals (try unfold Tile.ReadyX)
  all_goals (try unfold Tile.ReadyY)
  all_goals (try dsimp only)
  all_goals (repeat' apply And.intro)
  all_goals first | decide +kernel | rfl | exact ⟨_, rfl⟩ | exact ⟨_, rfl, rfl⟩ | exact ⟨_, _, rfl⟩
/-! ## Events of barriers and of the gang boundary -/

/-- Slots 0 and 1 of the die have arrived at an entry over both that asks for a vote; 31 entries stand in the window. -/
def cueP (dies : BitVec 8) : Cue := ⟨0, 0, true, 9, 2, false, true, false, false, false, dies, 3, false⟩
def bmuP (win : List Cue) : Bmu := ⟨0x10_0000, 40, 31, [], win, [(0, some 1), (1, some 2)], []⟩
def arrivedG (win : List Cue) : State := withGang { gang0 with bmus := [bmuP win] } (one (waits (.barrier (some 2) 1) tile0))
/-- Every slot of the gang has arrived at its boundary. -/
def bmuG (dies : BitVec 8) : Bmu := ⟨0x10_0000, 1, 1, [], [{ cueB with dies := dies }], (List.range 16).map fun n => (n, none), []⟩
def gangG : Gang := { gang0 with bmus := [bmuG 0] }
def boundary (t : Tile) (g : Gang) : State := { withGang g (one t) with
  tiles := [(0, waits (.barrier none 0) t), (1, waits (.barrier none 0) { tile0 with lidx := 1, task := { tile0.task with bg := { tile0.task.bg with merged := true } } })] }
def firedP (pkg rep : Bool) : Fired := ⟨[(0, 3)], 7, true, true, pkg, rep, false, 50⟩
def releasing (pkg rep : Bool) : State := { withGang { gang0 with fired := [firedP pkg rep] } (one tile0) with
  tiles := [(0, waits (.barrier (some 2) 1) tile0), (1, waits (.barrier none 0) { tile0 with lidx := 1 })] }
theorem BarrierEvents :
    (let s := arrivedG (.replicate 31 (cueP 0))
     ∃ g b, s.gang? 0 = some g ∧ g.bmu 0 = some b ∧ g.sealed = false ∧ b.next < b.count ∧ b.win.length < 32 ∧
       ∀ k, k < 4 → (s.sysPa g.part (b.base.toNat + 32 * b.next + 8 * k) .read).isSome = true) ∧
    (let s := arrivedG [cueP 0]
     let g : Gang := { gang0 with bmus := [bmuP [cueP 0]] }
     s.gang? 0 = some g ∧ g.bmu 0 = some (bmuP [cueP 0]) ∧ (bmuP [cueP 0]).win[0]? = some (cueP 0) ∧ (cueP 0).dies = 0 ∧
       s.localReady g 0 (bmuP [cueP 0]) (cueP 0) = true ∧ g.commit = none ∧ g.goes s.tick = true ∧ g.rolling = none ∧ s.heldBySends g [(0, cueP 0)] = false ∧
       g.isBoundary (cueP 0) = false) ∧
    (let s := boundary tile0 gangG
     s.gang? 0 = some gangG ∧ gangG.bmu 0 = some (bmuG 0) ∧ (bmuG 0).win[0]? = some cueB ∧ s.localReady gangG 0 (bmuG 0) cueB = true ∧
       gangG.commit = none ∧ gangG.goes s.tick = true ∧ gangG.rolling = none ∧ s.heldBySends gangG [(0, cueB)] = false ∧
       gangG.isBoundary cueB = true ∧ gangG.bcause = 0) ∧
    (let s := arrivedG [cueP 1]
     let g : Gang := { gang0 with bmus := [bmuP [cueP 1]] }
     s.gang? 0 = some g ∧ (bmuP [cueP 1]).win[0]? = some (cueP 1) ∧ (cueP 1).dies ≠ 0 ∧ (cueP 1).reported = false ∧
       s.localReady g 0 (bmuP [cueP 1]) (cueP 1) = true ∧ g.goes s.tick = true) ∧
    (let r : Report := ⟨1, cueP 3, [0], 8⟩
     let s := withNet [flight 1 0 (.ready r)] (arrivedG [cueP 0])
     arrives s 0 (fun f s1 => f.msg == .ready r && s1.gang? f.g == some { gang0 with bmus := [bmuP [cueP 0]] } && f.dst == 0) = true ∧
       ∀ e ∈ (bmuP [cueP 0]).win, e.matches r.cue = false) ∧
    (let g : Gang := { gang0 with fired := [firedP false false] }
     let s := releasing false false
     s.gang? 0 = some g ∧ g.fired[0]? = some (firedP false false) ∧ (firedP false false).boundary = false ∧ s.allWait g (firedP false false) = true ∧
       (firedP false false).pkg = false ∧ g.goes (max s.tick 50) = true) ∧
    (let g : Gang := { gang0 with fired := [firedP true true] }
     let s := releasing true true
     s.gang? 0 = some g ∧ s.allWait g (firedP true true) = true ∧ g.fired.findIdx? (fun f => f.pkg && f.reportedPkg) = some 0 ∧
       (firedP true true).due + 4096 ≤ 4146 ∧ s.tick ≤ 4146 ∧ g.goes 4146 = true) ∧
    (let g : Gang := { gang0 with fired := [firedP true false] }
     (releasing true false).gang? 0 = some g ∧ g.fired[0]? = some (firedP true false) ∧
       g.fired.findIdx? (fun f => f.pkg && !f.reportedPkg) = some 0) := by
  refine ⟨⟨_, _, rfl, rfl, rfl, ?_⟩, ?_⟩
  all_goals (try unfold Tile.ReadyX)
  all_goals (try unfold Tile.ReadyY)
  all_goals (try dsimp only)
  all_goals (repeat' apply And.intro)
  all_goals first | decide +kernel | rfl | exact ⟨_, rfl⟩ | exact ⟨_, rfl, rfl⟩ | exact ⟨_, _, rfl⟩
theorem BarrierEvents_2 :
    (let s := releasing true true
     s.tick < (firedP true true).due ∧ (50 : Nat) < 50 + 4096) ∧
    (let s : State := { releasing false false with tick := 50 }
     s.allWait { gang0 with fired := [firedP false false] } (firedP false false) = true ∧ ({ gang0 with fired := [firedP false false] } : Gang).goes s.tick = true ∧
       (firedP false false).due ≤ s.tick) ∧
    (let s : State := { releasing true false with tick := 50 }
     (firedP true false).due ≤ s.tick ∧ (releasing true false).tick < (firedP true false).due) := by
  all_goals (try unfold Tile.ReadyX)
  all_goals (try unfold Tile.ReadyY)
  all_goals (try dsimp only)
  all_goals (repeat' apply And.intro)
  all_goals first | decide +kernel | rfl | exact ⟨_, rfl⟩ | exact ⟨_, rfl, rfl⟩ | exact ⟨_, _, rfl⟩
/-- A DAMO to be performed at the next boundary. -/
def damoP : Damo := ⟨5, 0, 0x1_0000, .w64, .add, 1, 2, false, 0⟩
/-- An entry over two dies, reported by both, and the gang whose units have both reports; the same as a boundary. -/
def cueX : Cue := { cueP 3 with reported := true }
def cueY : Cue := { cueB with dies := 3, reported := true }
def bothG (e : Cue) : Gang := { gang0 with dies := [0, 1], bmus := List.replicate 2 ⟨0x10_0000, 40, 31, [], [e], [(0, some 1), (1, some 2)],
  [⟨0, e, [1, 2], 8⟩, ⟨1, e, [5], 9⟩]⟩ }
/-- A boundary entry that has fired. -/
def firedB : Fired := { firedP false false with boundary := true }
theorem BarrierEvents_3 :
    (let e := cueX
     let g := bothG e
     let s := withGang g (one (waits (.barrier (some 2) 1) tile0))
     let ds := (List.range 8).filter fun i => e.dies.getLsbD i
     s.gang? 0 = some g ∧ (g.bmu 0).any (fun b => b.win[0]? == some e) = true ∧ e.dies ≠ 0 ∧ e.dies.getLsbD 0 = true ∧ e.ok = true ∧ e.reported = true ∧
       g.commit = none ∧ g.goes s.tick = true ∧ g.rolling = none ∧ [(0, e), (1, e)].map (·.1) = ds ∧
       ([(0, e), (1, e)].all fun x => (g.bmu x.1).any fun b' => (b'.win.find? fun y => y.ok && y.reported && y.matches e && y.agrees e) == some x.2 &&
         (ds.all fun i => b'.reports.any fun r => r.die == i && r.cue.matches e) && (slotsOf x.2.member).all fun j => !(s.slotTile g x.1 j).migrating) = true ∧
       s.heldBySends g [(0, e), (1, e)] = false ∧ g.isBoundary e = false) ∧
    (let e := cueY
     let g := bothG e
     let s := withGang g (one (waits (.barrier none 0) tile0))
     (g.bmu 1).any (fun b => (b.win.find? fun y => y.ok && y.reported && y.matches e && y.agrees e) == some e) = true ∧
       s.heldBySends g [(0, e), (1, e)] = false ∧ g.isBoundary e = true ∧ g.bcause = 0) ∧
    (let g : Gang := { gang0 with fired := [firedB] }
     let s : State := withGang g (releasing false false)
     s.gang? 0 = some g ∧ g.fired[0]? = some firedB ∧ firedB.boundary = true ∧ s.allWait g firedB = true ∧ firedB.pkg = false ∧ g.goes s.tick = true ∧
       (g.firedTiles firedB).Nodup ∧ s.tick < firedB.due) ∧
    (let g : Gang := { gang0 with fired := [firedB] }
     let s : State := { withGang g (releasing false false) with tick := 50, tiles :=
       [(0, { waits (.barrier (some 2) 1) tile0 with damos := [damoP] }), (1, waits (.barrier none 0) { tile0 with lidx := 1 })] }
     s.allWait g firedB = true ∧ g.goes s.tick = true ∧ firedB.due ≤ s.tick ∧ damoP.rd ≠ 28 ∧ damoP.rd ≠ 29) := by
  all_goals (try unfold Tile.ReadyX)
  all_goals (try unfold Tile.ReadyY)
  all_goals (try dsimp only)
  all_goals (repeat' apply And.intro)
  all_goals first | decide +kernel | rfl | exact ⟨_, rfl⟩ | exact ⟨_, rfl, rfl⟩ | exact ⟨_, _, rfl⟩
theorem VoteResults : (0x8000_0000 : Word) ∈ [0x7FFF_FFFF, (0x8000_0000 : Word)] := by
  all_goals (try unfold Tile.ReadyX)
  all_goals (try unfold Tile.ReadyY)
  all_goals (try dsimp only)
  all_goals (repeat' apply And.intro)
  all_goals first | decide +kernel | rfl | exact ⟨_, rfl⟩ | exact ⟨_, rfl, rfl⟩ | exact ⟨_, _, rfl⟩
/-- A final task that wrote one byte of memory. -/
def task2 : Task := { task1 with final := true, gsb := [(0x1_0040, 0x10_0040, 7)] }
theorem BoundaryEvents :
    (let s := boundary tile0 gangG
     (gangG.bmus.zipIdx.findSome? fun b => (b.1.win.find? fun e => gangG.isBoundary e).map fun e => (b.2, b.1, e)) = some (0, bmuG 0, cueB) ∧
       cueB.dies = 0 ∧ s.localReady gangG 0 (bmuG 0) cueB = true ∧ s.heldBySends gangG [(0, cueB)] = false) ∧
    (let g : Gang := { gangG with commit := some ⟨[(0, 0)], false⟩ }
     let s := boundary { tile0 with task := { tile0.task with tasks := [task2] } } g
     ∃ k, s.gang? 0 = some g ∧ g.commit.isSome = true ∧ s.nextMerge g = some k ∧ k.task = task2 ∧ (k.task.gsb.map (·.1)).Nodup ∧
       ∀ e ∈ g.l2p, (s.tile e.2).firstRead (k.idx.isSome && e.2 == k.p) k.key.2.2 (linesOf
         ((k.task.gsb.filter fun b => (k.task.nextSlices s.steps).contains (sliceOf b.1)).map (·.1))) = none) ∧
    (let c : Ckpt := ⟨0x10_0010, 26, tile0.regs, tile0.ur, 0, [], [], [], 0, tile0.env, .empty, .empty, 0, 0, [], [], [], 0⟩
     let t : Tile := { tile0 with task := { tile0.task with tasks := [{ task2 with ck := 0 }], cks := [c] } }
     t.task.tasks[0]? = some { task2 with ck := 0 } ∧ t.task.cks[0]? = some c) ∧
    (let s := withNet [flight 0 0 (.damo 5)] (one { tile0 with damos := [damoP] })
     arrives s 0 (fun f s1 => f.msg == .damo 5 && s1.flightTile f f.src == some 0) = true) ∧
    (let g : Gang := { gangG with commit := some ⟨[(0, 0)], false⟩, staged := [(0x1_0040, 7)] }
     let s := boundary { tile0 with damos := [{ damoP with recorded := true }], task := { tile0.task with bg := { tile0.task.bg with merged := true } } } g
     s.gang? 0 = some g ∧ g.commit = some ⟨[(0, 0)], false⟩ ∧ s.publishReady g = true ∧ g.det = false ∧ g.poison = false ∧ g.serial = 0 ∧
       g.endAtBoundary = false ∧ s.svc.moves = [] ∧ (g.l2p.map (·.2)).Nodup ∧ ((s.damoRun g.l2p g.staged).1.map (·.1)).Nodup ∧ Memory.wf s.mem = true ∧
       g.commitEntries ⟨[(0, 0)], false⟩ ≠ []) := by
  refine ⟨?_, ⟨⟨(7, 0, 0), 0, some 0, task2⟩, ?_⟩, ?_, ?_, ?_⟩
  all_goals (try unfold Tile.ReadyX)
  all_goals (try unfold Tile.ReadyY)
  all_goals (try dsimp only)
  all_goals (repeat' apply And.intro)
  all_goals first | decide +kernel | rfl | exact ⟨_, rfl⟩ | exact ⟨_, rfl, rfl⟩ | exact ⟨_, _, rfl⟩
theorem task2_slices (seed : Nat) : task2.nextSlices seed = [0] := by
  have hl : ((task2.gsb.map fun b => sliceOf b.1).eraseDups).filter (fun n => !task2.sliced.contains n) = [0] := by decide +kernel
  unfold Task.nextSlices
  rw [hl]
  cases Config.choice seed 0 - 1 with
  | zero => exact ite_self _
  | succ n => rfl
/-- Tile 1, with no room left for undo, has read the line that tile 0's task merges; a thread has met a bad element; a serial run has ended. -/
theorem BoundaryEvents_2 :
    (let g : Gang := { gangG with commit := some ⟨[(0, 0)], false⟩ }
     let s := boundary { tile0 with task := { tile0.task with tasks := [task2] } } g
     let t1 := waits (.barrier none 0) { tile0 with lidx := 1, undo := { tile0.undo with full := true }, task := { tile0.task with tasks := [{ task1 with pos := 1, reads := [0x401] }] } }
     let s := { s with tiles := [(0, s.tile 0), (1, t1)] }
     g.serial = 0 ∧ s.nextMerge g = some ⟨(7, 0, 0), 0, some 0, task2⟩ ∧
       ((s.tile 1).firstRead false 0 (linesOf ((task2.gsb.filter fun b => ([0] : List Nat).contains (sliceOf b.1)).map (·.1)))).isSome = true ∧
       (s.tile 1).undo.full = true) ∧
    (let g : Gang := { gangG with commit := some ⟨[(0, 0)], false⟩, poison := true }
     let s := boundary { tile0 with ctl := { tile0.ctl with poisoned := true }, task := { tile0.task with bg := { tile0.task.bg with merged := true } } } g
     s.gang? 0 = some g ∧ s.publishReady g = true ∧ g.poison = true ∧ g.poisonRolled = false ∧ (s.tile 0).ctl.poisoned = true ∧ g.det = false ∧ g.top ≠ 5) ∧
    (let g : Gang := { gangG with commit := some ⟨[(0, 0)], true⟩, poison := true, poisonRolled := true, serial := 2 }
     let s := boundary { tile0 with ctl := { tile0.ctl with failed := true }, task := { tile0.task with bg := { tile0.task.bg with merged := true } } } g
     s.publishReady g = true ∧ g.serial ≠ 0 ∧ (s.tile 0).ctl.failed = true) := by
  all_goals (try unfold Tile.ReadyX)
  all_goals (try unfold Tile.ReadyY)
  all_goals (try dsimp only)
  all_goals (repeat' apply And.intro)
  all_goals first | decide +kernel | rfl | exact ⟨_, rfl⟩ | exact ⟨_, rfl, rfl⟩ | exact ⟨_, _, rfl⟩
/-- The partition of these packages. -/
def part0 : Partition := ⟨0, .groups 0 1, [0], 0, [], 0, 0, 0⟩
/-- A package whose tables map the page at 0x10_0000 to the frame at 0x1_0000, for S too. -/
structure Mapped (s : State) : Prop where
  part : s.part? 0 = some part0
  still : s.svc.moves = []
  canon : Memory.wf s.mem = true
  top : s.pte part0 1 0 = .ok 0x1001
  mid : s.pte part0 2 0x1000 = .ok 0x2001
  leaf : s.pte part0 3 0x2080 = .ok 0x1_003F
theorem Mapped.puts {s : State} (h : Mapped s) (k : Nat) (bs : List Byte) : Mapped (s.memPuts (0x1_0000 + k) bs) := by
  have hm := State.memPuts_mem s (0x1_0000 + k) bs h.still
  have hp : ∀ level a, a ∈ [0, 0x1000, 0x2080] → (s.memPuts (0x1_0000 + k) bs).pte part0 level a = s.pte part0 level a := by
    intro level a ha
    refine State.pte_memPuts s part0 level a _ bs h.still (Or.inl ?_)
    have : (part0.grant (a / 65536)).pfn * 65536 + a % 65536 + 8 ≤ 0x1_0000 := by
      simp only [List.mem_cons, List.not_mem_nil, or_false] at ha
      rcases ha with rfl | rfl | rfl <;> decide +kernel
    omega
  exact ⟨by rw [hm]; exact h.part, by rw [hm]; exact h.still, State.memPuts_wf _ _ _ h.canon, by rw [hp 1 0 (by simp)]; exact h.top,
    by rw [hp 2 0x1000 (by simp)]; exact h.mid, by rw [hp 3 0x2080 (by simp)]; exact h.leaf⟩
theorem Mapped.sysPa {s : State} (h : Mapped s) (k : Nat) (hk : k < 0x200) (need : Access) (hn : need = .read ∨ need = .write) :
    s.sysPa 0 (0x10_0000 + k) need = some (0x1_0000 + k) := by
  have h1 : ptAddr1 part0 (0x10_0000 + k) = 0 := by
    show 0 + 8 * ((0x10_0000 + k) / 2 ^ 33 % 64) = 0
    omega
  have h2 : ptAddr2 0x1001 (0x10_0000 + k) = 0x1000 := by
    show 0x1000 + 8 * ((0x10_0000 + k) / 2 ^ 24 % 512) = 0x1000
    omega
  have h3 : ptAddr3 0x2001 (0x10_0000 + k) = 0x2080 := by
    show 0x2000 + 8 * ((0x10_0000 + k) / 2 ^ 16 % 256) = 0x2080
    omega
  have hl : s.leaf [] part0 (0x10_0000 + k) = .ok ⟨3, 0x1_003F⟩ := by
    unfold State.leaf
    rw [h1, show s.pteBy [] part0 1 0 = .ok 0x1001 from h.top]
    dsimp only
    rw [h2, show s.pteBy [] part0 2 0x1000 = .ok 0x2001 from h.mid]
    dsimp only
    rw [h3, show s.pteBy [] part0 3 0x2080 = .ok 0x1_003F from h.leaf]
    rfl
  have hw : s.walk [] part0 (0x10_0000 + k) need false = .ok ⟨(0x10_0000 + k) / 65536, 1, 1, 1, true, true, true, true⟩ := by
    revert hl
    generalize 0x10_0000 + k = x
    intro hl
    unfold State.walk
    rw [hl]
    have hg : s.grantBy [] part0 1 = ⟨1, true, false, false, 0⟩ := rfl
    have hb : ∀ i, i ∈ [2, 3, 4, 5] → (0x1_003F : Nat).testBit i = true := by decide
    have hp : ptePa 0x1_003F / 65536 = 1 := rfl
    rcases hn with rfl | rfl <;> simp [permits, hg, hb, hp]
  unfold State.sysPa
  rw [h.part]
  dsimp only
  rw [hw]
  simp only [TlbEnt.pa, Option.some.injEq]
  omega
/-- Entries written to the table stand there, and nothing below them has changed. -/
theorem Mapped.writeHall (g : Gang) (hg : g.part = 0) (ht : g.htab = 0x10_0000) : ∀ (es : List (List Byte)) (i : Nat) {s : State}, Mapped s →
    (∀ e ∈ es, e.length = 32) → 32 * (i + es.length) ≤ 0x200 →
    ∃ m, let v : State := { s with mem := m }
      s.writeHall g i es = some v ∧ Mapped v ∧ (∀ a n, a + n ≤ 0x1_0000 + 32 * i → v.memNat a n = s.memNat a n) ∧
      ∀ j e, es[j]? = some e → ∀ o n, o + n ≤ 32 → v.memNat (0x1_0000 + 32 * (i + j) + o) n = leNat ((e.drop o).take n)
  | [], i, s, h, _, _ => ⟨s.mem, rfl, h, fun _ _ _ => rfl, fun j e he => by simp at he⟩
  | e :: es, i, s, h, hl, hi => by
    have hp := h.sysPa (32 * i) (by simp at hi; omega) .write (Or.inr rfl)
    have he := hl e List.mem_cons_self
    obtain ⟨m, hv, hm, hb, hr⟩ := Mapped.writeHall g hg ht es (i + 1) (h.puts (32 * i) e) (fun x hx => hl x (List.mem_cons_of_mem _ hx))
      (by simp at hi; omega)
    have hs : ({ s.memPuts (0x1_0000 + 32 * i) e with mem := m } : State) = { s with mem := m } := by rw [State.memPuts_mem _ _ _ h.still]
    rw [hs] at hv hm hb hr
    refine ⟨m, ?_, hm, fun a n ha => ?_, fun j x hx o n ho => ?_⟩
    · unfold State.writeHall
      rw [hg, ht, show (0x10_0000 : Word).toNat + 32 * i = 0x10_0000 + 32 * i from rfl, hp]
      exact hv
    · rw [hb a n (by omega), State.memNat_memPuts_ne _ _ _ _ _ h.still (Or.inl ha)]
    · cases j with
      | zero =>
        cases Option.some.inj hx
        rw [hb _ _ (by omega)]
        exact State.memNat_memPuts s (0x1_0000 + 32 * i) e o n h.still h.canon (by omega)
      | succ j =>
        rw [show 0x1_0000 + 32 * (i + (j + 1)) + o = 0x1_0000 + 32 * (i + 1 + j) + o by omega]
        exact hr j x hx o n ho
theorem Mapped.readHall (g : Gang) (hg : g.part = 0) (ht : g.htab = 0x10_0000) {v : State} (h : Mapped v) (j ts l step : Nat) (gt : Bool) (hm : Word)
    (hj : 32 * (j + 1) ≤ 0x200) (hs : step < 2 ^ 64)
    (hr : ∀ o n, o + n ≤ 32 → v.memNat (0x1_0000 + 32 * j + o) n = leNat (((hallEntry ts l gt hm step).drop o).take n)) :
    v.readHall g j = some ((ts % 2 ^ 48 + l * 2 ^ 48 + (if gt then 2 ^ 63 else 0)) % 256 ^ 8, hm, step) := by
  unfold State.readHall
  rw [hg, ht, show (0x10_0000 : Word).toNat + 32 * j = 0x10_0000 + 32 * j from rfl, h.sysPa (32 * j) (by omega) .read (Or.inl rfl)]
  dsimp only
  rw [show v.memNat (0x1_0000 + 32 * j) 8 = _ from hr 0 8 (by omega), hr 8 8 (by omega), hr 16 8 (by omega)]
  rw [show ((hallEntry ts l gt hm step).drop 0).take 8 = leBytes 8 (ts % 2 ^ 48 + l * 2 ^ 48 + (if gt then 2 ^ 63 else 0)) from rfl,
    show ((hallEntry ts l gt hm step).drop 8).take 8 = leBytes 8 hm.toNat from rfl,
    show ((hallEntry ts l gt hm step).drop 16).take 8 = leBytes 8 step from rfl]
  simp only [leNat_leBytes]
  rw [show hm.toNat % 256 ^ 8 = hm.toNat from Nat.mod_eq_of_lt hm.isLt, Nat.mod_eq_of_lt (show step < 256 ^ 8 from hs), BitVec.ofNat_toNat]
  simp
/-- What a boundary of tasks ks has recorded is what it reads back. -/
theorem Mapped.stretch (g : Gang) (hg : g.part = 0) (ht : g.htab = 0x10_0000) {v : State} (h : Mapped v) (hm : TaskAt → Word) (last : Word)
    (ks : List TaskAt) : ∀ i n : Nat, ks.length < n → 32 * (i + ks.length + 1) ≤ 0x200 → (∀ k ∈ ks, k.key.2.1 < 2 ^ 11) →
    (∀ j e, (ks.map (fun k => hallEntry k.key.1 k.key.2.1 false (hm k) 1) ++ [hallEntry 0 0 true last 1])[j]? = some e →
      ∀ o n, o + n ≤ 32 → v.memNat (0x1_0000 + 32 * (i + j) + o) n = leNat ((e.drop o).take n)) →
    v.hallStretch g 1 n i = some (ks.map fun k => (k.key.1 % 2 ^ 48 + k.key.2.1 * 2 ^ 48, hm k)) := by
  induction ks with
  | nil =>
    intro i n hn hi _ hr
    obtain ⟨n, rfl⟩ : ∃ m, n = m + 1 := ⟨n - 1, by simp at hn; omega⟩
    unfold State.hallStretch
    rw [Mapped.readHall g hg ht h i 0 0 1 true last (by simp at hi; omega) (by decide) (hr 0 _ rfl)]
    have hb : ((0 % 2 ^ 48 + 0 * 2 ^ 48 + (if true then 2 ^ 63 else 0)) % 256 ^ 8 : Nat).testBit 63 = true := by decide +kernel
    dsimp only
    rw [hb, if_pos (Or.inr rfl)]
    rfl
  | cons k ks ih =>
    intro i n hn hi hk hr
    rw [List.length_cons] at hn hi
    obtain ⟨n, rfl⟩ : ∃ m, n = m + 1 := ⟨n - 1, by omega⟩
    have hl := hk k List.mem_cons_self
    have h0 := hr 0 (hallEntry k.key.1 k.key.2.1 false (hm k) 1) (by rw [List.map_cons, List.cons_append, List.getElem?_cons_zero])
    have ih := ih (i + 1) n (by omega) (by omega) (fun x hx => hk x (List.mem_cons_of_mem _ hx)) (fun j e he o n ho => by
      rw [show i + 1 + j = i + (j + 1) by omega]
      refine hr (j + 1) e ?_ o n ho
      rw [List.map_cons, List.cons_append, List.getElem?_cons_succ]
      exact he)
    unfold State.hallStretch
    rw [Mapped.readHall g hg ht h i k.key.1 k.key.2.1 1 false (hm k) (by omega) (by decide) h0, ih, List.map_cons]
    have h1 : k.key.1 % 2 ^ 48 + k.key.2.1 * 2 ^ 48 < 2 ^ 63 := by omega
    generalize k.key.1 % 2 ^ 48 + k.key.2.1 * 2 ^ 48 = a at h1
    have h2 : a % 256 ^ 8 = a := Nat.mod_eq_of_lt (Nat.lt_trans h1 (by decide))
    rw [if_neg Bool.false_ne_true, Nat.add_zero, h2]
    dsimp only
    rw [if_neg (by rw [Nat.testBit_lt_two_pow h1]; exact fun h => h.elim (fun h => h rfl) Bool.false_ne_true)]
    rfl
/-- A task whose entry stands first, as recorded, is no mismatch. -/
theorem firstMismatch_head (key : BitVec 128) (k : TaskAt) (ks : List TaskAt) (a : Nat) (es : List (Nat × Word)) (hl : k.key.2.1 < 2 ^ 11)
    (ha : k.key.1 % 2 ^ 48 + k.key.2.1 * 2 ^ 48 = a) : firstMismatch key (k :: ks) ((a, k.task.hallmark key) :: es) = firstMismatch key ks es := by
  have hw : a % 2 ^ 59 = a := Nat.mod_eq_of_lt (by omega)
  have hf : (((a, k.task.hallmark key) :: es).findIdx? fun e => e.1 % 2 ^ 59 == k.key.1 % 2 ^ 48 + k.key.2.1 * 2 ^ 48) = some 0 := by
    rw [ha, List.findIdx?_cons]
    dsimp only
    rw [hw, beq_self_eq_true]
    rfl
  rw [firstMismatch, hf]
  exact if_pos rfl
theorem firstMismatch_same (key : BitVec 128) : ∀ ks : List TaskAt, (∀ k ∈ ks, k.key.2.1 < 2 ^ 11) →
    firstMismatch key ks (ks.map fun k => (k.key.1 % 2 ^ 48 + k.key.2.1 * 2 ^ 48, k.task.hallmark key)) = none
  | [], _ => rfl
  | k :: ks, hk => by
    rw [List.map_cons, firstMismatch_head key k ks _ _ (hk k List.mem_cons_self) rfl]
    exact firstMismatch_same key ks fun x hx => hk x (List.mem_cons_of_mem _ hx)
/-- A DET gang at a boundary with a merged task, its hallmark table in the frame at 0x1_0000. -/
def hallG (n : Nat) (htab : Word) : Gang := { gangG with commit := some ⟨[(0, 0)], false⟩, det := true, hsub := n, htab := htab }
def hallS (n : Nat) (htab : Word) : State := boundary { tile0 with task := { tile0.task with
  tasks := [{ task2 with merged := true }], bg := { tile0.task.bg with merged := true } } } (hallG n htab)
theorem one_mapped : Mapped (one tile0) := ⟨by decide +kernel, rfl, by decide +kernel, rfl, rfl, rfl⟩
theorem hall_mapped (n : Nat) (htab : Word) : Mapped (hallS n htab) :=
  ⟨one_mapped.part, one_mapped.still, one_mapped.canon, one_mapped.top, one_mapped.mid, one_mapped.leaf⟩
/-- The entries of the boundary can be written (RECORD); a gang that reads them back finds no mismatch (VERIFY). -/
theorem BoundaryEvents_hall (n : Nat) (hn : n = 1 ∨ n = 2) :
    let g := hallG n 0x10_0000
    let s := hallS n 0x10_0000
    let key := Config.gangKey g.key
    let ks := s.allTasks g
    let es := ks.map (fun k => hallEntry k.key.1 k.key.2.1 false (k.task.hallmark key) (g.step + 1)) ++ [hallEntry 0 0 true (gangHallmark key ks) (g.step + 1)]
    s.gang? 0 = some g ∧ s.publishReady g = true ∧ g.endAtBoundary = false ∧ g.poison = false ∧ (∀ e ∈ g.l2p, (s.tile e.2).damos = []) ∧ g.det = true ∧ ∃ m, let v : State := { s with mem := m }
      s.writeHall g g.hcount es = some v ∧ v.gang? 0 = some g ∧ v.publishReady g = true ∧ v.svc.moves = [] ∧ v.damoRun g.l2p g.staged = ([], [[], []]) ∧ v.allTasks g = ks ∧ Memory.wf v.mem = true ∧
        (∀ e ∈ g.l2p, (v.tile e.2).damos = []) ∧ ∃ xs, v.hallStretch g (g.step + 1) 6300000 g.hcount = some xs ∧ firstMismatch key ks xs = none := by
  intro g s key ks es
  have hk : ∀ k ∈ ks, k.key.2.1 < 2 ^ 11 := by rcases hn with rfl | rfl <;> decide +kernel
  have hl : ks.length = 3 := rfl
  have he : ∀ e ∈ es, e.length = 32 := by
    intro e h
    rcases List.mem_append.1 h with h | h
    · obtain ⟨k, _, rfl⟩ := List.mem_map.1 h
      rfl
    · rw [List.mem_singleton.1 h]
      rfl
  have hes : es.length = 4 := by simp [es, hl]
  obtain ⟨m, hw, hm, _, hr⟩ := Mapped.writeHall g rfl rfl es 0 (hall_mapped n 0x10_0000) he (by omega)
  refine ⟨rfl, ?_, rfl, rfl, ?_, rfl, m, hw, rfl, ?_, rfl, rfl, rfl, hm.canon, ?_, _,
    Mapped.stretch g rfl rfl hm (fun k => k.task.hallmark key) _ ks 0 6300000 (by omega) (by omega) hk hr, firstMismatch_same key ks hk⟩
  · rcases hn with rfl | rfl <;> decide +kernel
  · rcases hn with rfl | rfl <;> decide +kernel
  · show s.publishReady g = true
    rcases hn with rfl | rfl <;> decide +kernel
  · show ∀ e ∈ g.l2p, (s.tile e.2).damos = []
    rcases hn with rfl | rfl <;> decide +kernel
/-- An empty table, and one in a page that is not mapped. -/
theorem BoundaryEvents_hall_2 :
    (∃ k, (hallS 2 0x10_0000).hallStretch (hallG 2 0x10_0000) 1 6300000 0 = some [] ∧
      firstMismatch (Config.gangKey 0) ((hallS 2 0x10_0000).allTasks (hallG 2 0x10_0000)) [] = some k) ∧
    (∀ es, (hallS 1 0x20_0000).writeHall (hallG 1 0x20_0000) 0 (es ++ [hallEntry 0 0 true 0 1]) = none) ∧
    (hallS 2 0x20_0000).hallStretch (hallG 2 0x20_0000) 1 6300000 0 = none ∧ (hallS 2 0x20_0000).publishReady (hallG 2 0x20_0000) = true := by
  refine ⟨⟨_, ?_, rfl⟩, fun es => ?_, ?_, ?_⟩
  · decide +kernel
  · cases es <;> rfl
  · decide +kernel
  · decide +kernel

/-! ## Events of the network and of memory -/

/-- A packet of 32 payload bytes for queue 3, number 5 of its sequence. -/
def pkt (q n : Nat) : Pkt := ⟨1, q, false, 0, n, 9, [1, 2, 3, 4]⟩
def expecting (t : Tile) : Tile := { t with ni := { t.ni with expect := [((pkt 3 5).key, 5), ((pkt 4 5).key, 5)] } }
/-- Queue 3 with 2^16 - k bytes in use. -/
def filled (k : Nat) : Tile := expecting (receiver [⟨0, 2 ^ 16 - k, 1⟩] tile0)
def has (s : State) (k p : Nat) (m : Msg) : Bool := arrives s k fun f s1 => f.msg == m && s1.flightTile f f.dst == some p
theorem NetworkEvents :
    (let s := withNet [flight 1 0 (.packet (pkt 3 5))] (one (filled 64))
     has s 0 0 (.packet (pkt 3 5)) = true ∧ (pkt 3 5).queue < 4 ∧ (pkt 3 5).seq = smGet 0 (pkt 3 5).key (s.tile 0).ni.expect ∧ (s.tile 0).ni.reorder = [] ∧
       (s.tile 0).ctl.stat ≠ .halted ∧ (s.tile 0).rqLog 3 ≠ 0 ∧ (s.tile 0).sr.ovfstat.getLsbD 3 = false ∧
       ((s.tile 0).rq 3).used + 64 ≤ 2 ^ (s.tile 0).rqLog 3 ∧ (s.tile 0).gang = some 0) ∧
    (let t := filled 32
     (t.rq 3).stream = false ∧ 2 ^ t.rqLog 3 < (t.rq 3).used + 64) ∧
    (let t := filled 64
     (pkt 3 6).seq ≠ smGet 0 (pkt 3 6).key t.ni.expect ∧ t.ni.reorder.length < Config.reorderDepth) ∧
    (let t := { filled 64 with ni := { (filled 64).ni with reorder := .replicate Config.reorderDepth (pkt 3 7) } }
     (pkt 3 6).seq ≠ smGet 0 (pkt 3 6).key t.ni.expect ∧ Config.reorderDepth ≤ t.ni.reorder.length) ∧
    (let t := expecting { tile0 with ni := { tile0.ni with mbox := .replicate 31 (0, 0) } }
     (pkt 4 5).seq = smGet 0 (pkt 4 5).key t.ni.expect ∧ t.ni.reorder = [] ∧ t.ctl.stat ≠ .halted ∧ t.sr.ovfstat.getLsbD 4 = false ∧
       t.ni.mbox.length < Config.mailboxDepth) ∧
    (let s := withNet [flight 1 0 (.retry (pkt 3 5)), flight 1 0 (.ack 3 5), flight 1 0 (.slotBack 2 none), flight 1 0 (.mail 1 2)] (one tile0)
     has s 0 0 (.retry (pkt 3 5)) = true ∧ has s 1 0 (.ack 3 5) = true ∧ has s 2 0 (.slotBack 2 none) = true ∧ has s 3 0 (.mail 1 2) = true ∧
       s.net[3]? = some (flight 1 0 (.mail 1 2)) ∧ (flight 1 0 (.mail 1 2)).parked = false ∧ s.mayWait (flight 1 0 (.mail 1 2)) = true ∧
       s.flightTile (flight 1 0 (.mail 1 2)) 1 = some 1) ∧
    (waits (.stream 1 2) tile0).ctl.stat = .waiting (.stream 1 2) ∧ (∀ n, tile0.ctl.stat ≠ .waiting (.stream 1 n)) ∧
    (let t := { tile0 with ni := { tile0.ni with held := [(1, 2)], mbox := .replicate 31 (0, 0) } }
     (0 : Nat) < Config.tiles ∧ t.ni.held = (1, 2) :: [] ∧ t.ni.mbox.length < Config.mailboxDepth) := by
  refine ⟨?_, ?_, ?_, ?_, ?_, ?_, ?_, (fun n h => nomatch h), ?_⟩
  all_goals (try unfold Tile.ReadyX)
  all_goals (try unfold Tile.ReadyY)
  all_goals (try dsimp only)
  all_goals (repeat' apply And.intro)
  all_goals first | decide +kernel | rfl | exact ⟨_, rfl⟩ | exact ⟨_, rfl, rfl⟩ | exact ⟨_, _, rfl⟩
/-- An outstanding global load of two bytes, one of them held in the task's store buffer at issue. -/
def gload : Load := ⟨7, .global [(0x1_0000, some 5), (0x1_0001, none)] (some 0), some 3, 2, true, 0x10_0000, 1, none, 0⟩
/-- A matrix command comes back; a sender is stopped or moves at a full stream; an item has waited 1,024 ticks, the least timeout, and one tick more. -/
theorem NetworkEvents_2 :
    (let m : Msg := .retryCmd 3 4 0x2000 mxc true
     has (withNet [flight 1 0 m] (one tile0)) 0 0 m = true) ∧
    ({ tile0 with ctl := { tile0.ctl with stat := .stopped (some (.stream 1 2)) } } : Tile).ctl.stat = .stopped (some (.stream 1 2)) ∧
    ({ tile0 with ctl := { tile0.ctl with stat := .moving (some (.stream 1 2)) } } : Tile).ctl.stat = .moving (some (.stream 1 2)) ∧
    (let f := flight 1 0 (.damo 5)
     let s : State := { withNet [f] (one tile0) with tick := 1024 }
     s.net[0]? = some f ∧ f.parked = false ∧ s.mayWait f = true ∧ s.flightTile f f.src = some 1 ∧ (∀ d, d < 8 →
       s.tick ≤ f.since + max 64 (s.die d).dltimeout.toNat ∧ f.since + max 64 (s.die d).dltimeout.toNat < ({ s with tick := 1025 } : State).tick) ∧
       f.msg.isRequest = true) ∧
    (let f := flight 1 0 (.retry (pkt 3 5))
     let s := withNet [f] (one tile0)
     s.mayWait f = true ∧ f.msg.isRequest = false ∧ (s.tiles.map (·.1)).Pairwise (· < ·) ∧ 1 ∈ s.tiles.map (·.1)) ∧
    (let s := one { tile0 with loads := [{ gload with since := 8 }] }
     s.net.length ≤ 1 ∧ (s.farRequests[0]?).any (fun w => w.request && w.p == 0 && w.since == 8) = true ∧ (s.farRequests[1]?).any (fun w => !w.request && w.p == 0) = true) ∧
    ({ flight 1 0 (.mail 1 2) with parked := true } : Flight).parked = true := by
  all_goals (try unfold Tile.ReadyX)
  all_goals (try unfold Tile.ReadyY)
  all_goals (try dsimp only)
  all_goals (repeat' apply And.intro)
  all_goals first | decide +kernel | rfl | exact ⟨_, rfl⟩ | exact ⟨_, rfl, rfl⟩ | exact ⟨_, _, rfl⟩
/-- Tile 0 grants stores and loads to its cluster; a schedule stands in its scratchpad. -/
def granting : Tile := { tile0 with ir := { tile0.ir with permit := 0x09 }, task := { tile0.task with hasSched := true } }
theorem RemoteAccessEvents :
    (let ws := byteWrites 0x1D_FFF8 8 77
     let m : Msg := .store 3 1 0x400_001D_FFF8 0 ws false false
     let s := withNet [flight 1 0 m] (one granting)
     has s 0 0 m = true ∧ s.remoteBehind 0 (flight 1 0 m) = false ∧
       (s.tile 0).gang = some 0 ∧ (s.tile 0).grants 5 3 1 = true ∧ (s.tile 0).grants 2 0 1 = true ∧ (s.tile 0).ctl.stat ≠ .halted ∧
       (s.tile 0).task.hasSched = true ∧ 0x1D_FFF8 + 8 ≤ Config.schedBase ∧ [1, 2, 4, 8].contains 8 = true ∧ 0x1D_FFF8 % 8 = 0 ∧ Memory.wf (s.tile 0).spad = true) ∧
    (let ws := byteWrites 0x1F_FFF0 8 77 ++ byteWrites 0x1F_FFC8 8 78
     let m : Msg := .store 3 1 0x400_001F_FFC0 0 ws false false
     let m' : Msg := .store 3 1 0x400_001F_FFC0 0 ws false true
     let s := withNet [flight 1 0 m] (one { granting with task := TaskSt.reset })
     let s' := withNet [flight 1 0 m'] (one tile0)
     has s 0 0 m = true ∧ (s.tile 0).grants 5 3 1 = true ∧ (s.tile 0).ctl.stat ≠ .halted ∧ (s.tile 0).task.hasSched = false ∧
       has s' 0 0 m' = true ∧ (s'.tile 0).grants 5 3 1 = false ∧ s'.remoteBehind 0 (flight 1 0 m') = false) ∧
    tile0.grants 5 3 1 = false ∧ tile0.grants 2 0 1 = false ∧
    (let m : Msg := .load 4 0x400_0000_0000 0 [[⟨0, 0, 8⟩]] 0 []
     let s := withNet [flight 1 0 m] (one granting)
     has s 0 0 m = true ∧ s.remoteBehind 0 (flight 1 0 m) = false ∧ leftOf (([[⟨0, 0, 8⟩]] : List (List Piece)).flatMap fun l => l.map fun q => placeOf (spanOf 0x400_0000_0000) 0 q.off) [] = [0]) ∧
    (let m : Msg := .load 4 0x400_0000_0000 0 [[⟨15, 0, 8⟩], [⟨16, 0, 8⟩], [⟨47, 0, 8⟩]] 0 [(15, 7)]
     let s := withNet [flight 1 0 m] (one tile0)
     has s 0 0 m = true ∧ s.remoteBehind 0 (flight 1 0 m) = false ∧ leftOf (([[⟨15, 0, 8⟩], [⟨16, 0, 8⟩], [⟨47, 0, 8⟩]] : List (List Piece)).flatMap fun l => l.map fun q => placeOf (spanOf 0x400_0000_0000) 0 q.off) [(15, 7)] = [16, 47]) ∧
    (let s := withNet [flight 1 0 (.storeAck 3), flight 1 0 (.refusal ⟨5, 3, false, false⟩ (some 3) none), flight 1 0 (.loadResp 7 [9] true),
        flight 1 0 (.amoResp 7 0 9)] (one { tile0 with loads := [{ gload with kind := .remote }] })
     has s 0 0 (.storeAck 3) = true ∧ has s 1 0 (.refusal ⟨5, 3, false, false⟩ (some 3) none) = true ∧ has s 2 0 (.loadResp 7 [9] true) = true ∧
       has s 3 0 (.amoResp 7 0 9) = true ∧ (s.tile 0).findLoad 7 = some { gload with kind := .remote } ∧ gload.rd = some 3 ∧
       (s.tile 0).ni.refusals.length < Config.refusalDepth) ∧
    Config.refusalDepth ≤ (List.replicate Config.refusalDepth (⟨5, 3, false, false⟩ : Refusal')).length ∧
    (let t := opened { tile0 with loads := [gload] }
     t.findLoad 7 = some gload ∧ gload.lanes = 1 ∧ (one t).amoBefore t gload.id [0x1_0000, 0x1_0001] = false ∧ 0 < t.task.tasks.length ∧
       (t.getTask (some 0)).bg = false ∧ t.gang = some 0 ∧ (one t).ejected 0 = false ∧ t.maskAwaited gload.id = false) ∧
    (let s := withNet [flight 0 0 (.amo 7 0x1_0008 .w64 .cas 0 4)] (one tile0)
     arrives s 0 (fun f s1 => f.msg == .amo 7 0x1_0008 .w64 .cas 0 4 && s1.flightTile f f.src == some 0) = true ∧ (s.tile 0).gang = some 0 ∧
       (s.tile 0).undo.replay = [] ∧ s.net.take 0 = [] ∧ s.svc.moves = [] ∧ Memory.wf s.mem = true) := by
  all_goals (try unfold Tile.ReadyX)
  all_goals (try unfold Tile.ReadyY)
  all_goals (try dsimp only)
  all_goals (repeat' apply And.intro)
  all_goals first | decide +kernel | rfl | exact ⟨_, rfl⟩ | exact ⟨_, rfl, rfl⟩ | exact ⟨_, _, rfl⟩
/-- A load whose rd a later word has written, whose pages have no late fault; no earlier AMO of the thread. -/
theorem RemoteAccessEvents_2 :
    (let t := { tile0 with loads := [{ gload with dead := some 9 }] }
     t.findLoad 7 = some { gload with dead := some 9 } ∧ ({ gload with dead := some 9 } : Load).dead ≠ none ∧ gload.dead = none) ∧ tile0.fe.late = [] ∧
    (one tile0).amoAhead 0 (flight 0 0 (.amo 7 0x1_0008 .w64 .cas 0 4)) 0x1_0008 = false ∧
    (let s := withNet [{ flight 0 0 (.amo 7 0x1_0008 .w64 .cas 0 4) with g := 5 }] (withGang { gang0 with id := 5, stat := .ended } (one tile0))
     arrives s 0 (fun f s1 => s1.flightTile f f.src == some 0 && (s1.tile 0).gang != some f.g) = true) := by
  all_goals (try unfold Tile.ReadyX)
  all_goals (try unfold Tile.ReadyY)
  all_goals (try dsimp only)
  all_goals (repeat' apply And.intro)
  all_goals first | decide +kernel | rfl | exact ⟨_, rfl⟩ | exact ⟨_, rfl, rfl⟩ | exact ⟨_, _, rfl⟩
/-- A RAW copy of one row of 256 bytes within the scratchpad, its ends touching. -/
def copyC (st : CpState) (status : Nat) : Copy := ⟨9, ⟨0x200_0000_0000, 0x200_0000_0100, 256, 1, 0, 0, 1⟩, true, 0, none, 5, 1, st, 0, [], status, 0, 0⟩
/-- A copy of one byte. -/
def cp1 (got : SMap Nat) : Copy := ⟨9, ⟨0x200_0000_0000, 0x200_0000_0100, 1, 1, 0, 0, 1⟩, true, 0, none, 5, 1, .moving, 0, got, 0, 0, 0⟩
/-- A copy of one byte reads nothing ahead once it has the byte; before, it does so by a free choice. -/
theorem CopyAndWalkEvents_2 : (cp1 [(0, 5)]).reads 0 = [] ∧ (Config.choice 0 18 ≠ 0 → (cp1 []).reads 0 ≠ []) := by
  have h (got : SMap Nat) : (cp1 got).reads 0 = if Config.choice 0 18 = 0 then [] else [0].filter fun e => (smFind e got).isNone := by
    have ht : (cp1 got).total = 1 := rfl
    have hu : (cp1 got).unitRun (cp1 got).regs.csrc (cp1 got).regs.csstr (copyBits (cp1 got).regs.csrc (cp1 got).regs.cdst).1 0 = (0, 1) := by
      exact (by decide +kernel : (cp1 []).unitRun (cp1 []).regs.csrc (cp1 []).regs.csstr (copyBits (cp1 []).regs.csrc (cp1 []).regs.cdst).1 0 = (0, 1))
    simp only [Copy.reads, ht]
    simp [show (cp1 got).moved = 0 from rfl, Nat.mod_one, hu, show (cp1 got).id = 9 from rfl, show (cp1 got).got = got from rfl]
  refine ⟨?_, fun n => ?_⟩ <;> rw [h]
  · split <;> rfl
  · rw [if_neg n]
    decide
/-- A split store to the own scratchpad that still waits for its data. -/
def storing (t : Tile) : Tile := { t with fe := { t.fe with xq := [⟨4, 0x10_0000, .reset, .part (.storeY 1 8 0 0 .self 0)⟩] } }
theorem CopyAndWalkEvents :
    (let t := { tile0 with copies := [copyC .waiting 0] }
     t.copies.findIdx? (fun c => c.id == 9 && c.state == .waiting) = some 0 ∧ t.copies[0]? = some (copyC .waiting 0) ∧ t.pair.partner = none ∧
       (one t).slotOn 0 = true ∧ (one t).ejected 0 = false ∧ t.storesBefore (copyC .waiting 0).place = false ∧ (storing t).storesBefore (copyC .waiting 0).place = true ∧ (one t).copyHeld 0 (copyC .waiting 0).regs = false) ∧
    (let c := { copyC .waiting 0 with regs := { (copyC .waiting 0).regs with cdst := 0x400_0800_0000 } }
     let s := { one { tile0 with copies := [c] } with tiles := [(0, { tile0 with copies := [c] }), (1, { tile0 with lidx := 1, ctl := { tile0.ctl with stat := .moving none, moveTo := some 5, moveEnd := some 9 } })] }
     s.copyHeld 0 c.regs = true) ∧
    (let t := { tile0 with copies := [copyC .moving 0] }
     let c := copyC .moving 0
     t.copies.find? (fun c => c.id == 9 && c.state == .moving) = some c ∧ t.mboxRoom = true ∧ c.moved = 0 ∧ c.flags = 0 ∧ t.copyWaits c = false ∧ (one t).copyHeld 0 c.regs = false ∧
       c.regs.csrc.toNat = Config.selfBase + 0 ∧ c.regs.cdst.toNat = Config.selfBase + 256 ∧ c.regs.crows = 1 ∧ c.moved < c.regs.clen.toNat ∧
       0 + c.regs.clen.toNat ≤ Config.scratchBytes ∧ 256 + c.regs.clen.toNat ≤ Config.scratchBytes ∧ 0 + c.regs.clen.toNat ≤ 256 ∧ Memory.wf t.spad = true) ∧
    (copyC .moving 1).status = 1 ∧ ((one tile0).onCluster 0 0 fun c => { c with pat := 0xFFFE }).slotOn 0 = false ∧
    ({ stage .stopped (fun g => { g with ts := 0 }) (one tile0) with tick := 4096 } : State).ejected 0 = true ∧
    (let s := one tile0
     s.gangOf (s.tile 0) = some gang0 ∧ (0x7F_FFFF_FFFF : Word).toNat < Config.globalTop ∧ (∀ e ∈ (s.tile 0).tlb, e.hits 0x7F_FFFF_FFFF = false) ∧
       (∀ w ∈ (s.die 0).walks, ¬(w.part = 0 ∧ w.vf = 16)) ∧ ((s.die 0).walks.filter fun w => w.vf / 256 % 4 == 0).length < 64) ∧
    (let s := (one tile0).onDie 0 fun d => { d with walks := .replicate 64 ⟨0, 17, []⟩ }
     (∀ w ∈ (s.die 0).walks, ¬(w.part = 0 ∧ w.vf = 16)) ∧ 64 ≤ ((s.die 0).walks.filter fun w => w.vf / 256 % 4 == 0).length) ∧
    (let s := (one tile0).onDie 0 fun d => { d with walks := [⟨0, 16, [(0, 0x10_0000, .read)]⟩] }
     (s.die 0).walks.findIdx? (fun w => w.part == 0 && w.vf == 16) = some 0 ∧ (s.die 0).walks = [⟨0, 16, [(0, 0x10_0000, .read)]⟩]) ∧
    (∀ p ∈ (one tile0).ackTiles 0, (one tile0).quietAt p = true) ∧
    (∃ p ∈ (one { tile0 with loads := [gload] }).ackTiles 0, (one { tile0 with loads := [gload] }).quietAt p = false) := by
  all_goals (try unfold Tile.ReadyX)
  all_goals (try unfold Tile.ReadyY)
  all_goals (try dsimp only)
  all_goals (repeat' apply And.intro)
  all_goals first | decide +kernel | rfl | exact ⟨_, rfl⟩ | exact ⟨_, rfl, rfl⟩ | exact ⟨_, _, rfl⟩
/-- A die whose one walk has one waiter. -/
def walking := (one tile0).onDie 0 fun d => { d with walks := [⟨0, 16, [(0, 0x10_0000, .read)]⟩] }
def walked := (walking.onDie 0 fun q => { q with walks := [] }).keepWalk 0 0 (16 * 65536)
/-- The walkers keep the upper entries that memory holds, so that the walk ends at the leaf of the map. -/
theorem walked_leaf : walked.leaf (walked.die 0).wcache part0 0x10_0000 = .ok ⟨3, 0x1_003F⟩ := by
  have h1 : walked.pteBy (walked.die 0).wcache part0 1 (ptAddr1 part0 0x10_0000) = .ok 0x1001 := State.pteBy_kept rfl rfl
  have h2 : walked.pteBy (walked.die 0).wcache part0 2 (ptAddr2 0x1001 0x10_0000) = .ok 0x2001 := State.pteBy_kept rfl rfl
  have h3 : walked.pteBy (walked.die 0).wcache part0 3 (ptAddr3 0x2001 0x10_0000) = .ok 0x1_003F := rfl
  unfold State.leaf
  rw [h1]
  dsimp only
  rw [h2]
  dsimp only
  rw [h3]
  rfl
theorem CopyAndWalkEvents_3 : (walked.translate (walking.tile 0) 0x10_0000 .read true).1 = .ok 0x1_0000 := by
  have hw : walked.walk (walked.die 0).wcache part0 0x10_0000 .read true = .ok ⟨16, 1, 1, 1, true, true, true, true⟩ := by
    unfold State.walk
    rw [walked_leaf]
    rfl
  show (match walked.walk (walked.die 0).wcache part0 0x10_0000 .read true with
        | .error k => ((.error k : Except Nat Nat), [])
        | .ok e => (.ok (e.pa 0x10_0000), [e])).1 = _
  rw [hw]
  rfl

/-! ## Events of gangs, errors, pairs -/

/-- A gang that waits for a place, and the gang it would displace. -/
def ctx0 : Context := {
  tiles := [(0, { tile0 with ctl := { tile0.ctl with stat := .stopped none } }), (1, { tile0 with lidx := 1 })], pats := [(0, 0xFFFF), (1, 0x7F7F)]
  follow := [], net := [⟨0, 0, 1, .mail 1 2, 0, true, 0, 1⟩], bmus := [], fired := [], step := 3, commit := none, staged := [], consumed := 2
  poisonRolled := false, serial := 1, bcause := 0, btake := [], suspect := 0, key := 0 }
def off (s : State) : State := { s with tiles := [] }
/-- A tenant's session and the operator's; a request of each, with partition 0 named. -/
def served (s : State) : State := { s with svc := { s.svc with boot := .up, sessions :=
  [⟨1, false, some 0, some 3, some ⟨⟨0x87, 1, 0, 64, 3, 1, 0⟩, 0, 0, []⟩, 0, 0⟩, ⟨2, true, none, none, none, 0, 0⟩] } }
def tenant (op sel : BitVec 8) : Request := ⟨⟨op, 1, 0, 65, 4, 1, 0⟩, sel, true⟩
def operator (op sel : BitVec 8) : Request := ⟨⟨op, 1, 0, 64, 0, 2, 0⟩, sel, true⟩
theorem GangEvents :
    (let s := stage .placed id (one tile0)
     isG s (fun g => g.stat == .placed && s.diesReady g.dies && g.t0 ≤ s.tick) = true) ∧
    (let s := stage .placed (fun g => { g with t0 := 1 }) (one tile0)
     isG s (fun g => g.stat == .placed && s.tick < g.t0) = true) ∧
    (let s : State := { one tile0 with gangs := [{ gang0 with stat := .placed }, { gang0 with id := 1, stat := .stopping, emerg := [0] }] }
     isG s (fun g => g.stat == .placed && g.t0 ≤ s.tick && g.dies.all (fun d => (s.die d).powered) && g.dies.any (s.dieSaving ·)) = true) ∧
    (let s := stage .stopping id (one { tile0 with ctl := { tile0.ctl with stat := .moving none, moveTo := some 5 } })
     isG s (fun g => g.ts ≤ s.tick && (g.l2p.map (·.2)).Nodup && (s.tile 0).ctl.stat == .moving none) = true) ∧
    (let s : State := { one tile0 with tick := 3600000, gangs := [gang0, { gang0 with id := 1, stat := .resuming, sealed := true }] }
     isG s (fun g => g.stat == .running && g.t1 + 3600000 ≤ s.tick && s.contended g) = true) ∧
    (let s := stage .stopping id (one { tile0 with envq := [{ evc with op := .eins 7 2 3 }] })
     isG s (fun g => g.stat == .stopping && g.ts ≤ s.tick && g.rolling.isNone && g.commit.isNone) = true ∧ (s.tile 0).holding.isSome = true) ∧
    (let s := stage .stopping (fun g => { g with commit := some ⟨[], false⟩ }) (one tile0)
     isG s (fun g => g.stat == .stopping && g.rolling.isNone && g.l2p.any fun e => !s.arrivedAt g e.1 e.2) = true) ∧
    (let s : State := { stage .stopped id (one { tile0 with ctl := { tile0.ctl with stat := .stopped (some .wmsg) } }) with tick := 4096 }
     isG s (fun g => g.stat == .stopped && !g.sealed && g.ts + 4096 ≤ s.tick && g.rolling.isNone && g.l2p.all fun e => !s.partReady e.2 && (s.tile e.2).engDrained) = true) ∧
    (let s := off (stage .resuming (fun g => { g with sealed := true, saved := some ctx0 }) (one tile0))
     isG s (fun g => g.stat == .resuming && g.sealed && g.saved == some ctx0 && s.replace g == some ([0], [(0, 0), (1, 1)]) && s.diesReady [0] &&
         s.gangsPresent 0 < 8 && (ctx0.tiles.all fun e => e.2.gang == some 0) && (s.putBack g ctx0 [(0, 0), (1, 1)]).isSome) = true ∧
       [0, 1].Nodup ∧ (smFind 0 ctx0.tiles).isSome = true) ∧
    (let s := stage .resuming (fun g => { g with sealed := false }) (one { tile0 with ctl := { tile0.ctl with stat := .stopped (some .wmsg) } })
     isG s (fun g => g.stat == .resuming && !g.sealed && g.wake.isNone && !s.patPending g) = true ∧ (∀ f ∈ s.net, f.g ≠ 0) ∧ (s.tile 0).loadParked = false ∧ (s.tile 1).loadParked = false) ∧
    (let rq : Request := ⟨⟨0x17, 1, 0, 65, 3, 1, 0⟩, 0, true⟩
     let s := served (stage .resuming (fun g => { g with sealed := false, asked := [rq] }) (one { tile0 with ctl := { tile0.ctl with stat := .stopped (some .wmsg) } }))
     isG s (fun g => g.stat == .resuming && !g.sealed && g.wake.isNone && !s.patPending g && g.asked == [rq]) = true ∧
       (s.session? rq.session).any (fun c => c.last == some rq.seq) = true) ∧
    (let s := stage .resuming (fun g => { g with sealed := false }) (one { tile0 with loads := [{ gload with kind := .global [(0x1_0000, some 5)] none }] })
     isG s (fun g => g.stat == .resuming && !g.sealed && g.wake.isNone) = true ∧ (s.tile 0).loadParked = true) ∧
    (let s : State := { stage .resuming (fun g => { g with sealed := false, wake := some 4096 }) (one { tile0 with ctl := { tile0.ctl with stat := .stopped (some .wmsg) } }) with tick := 4096 }
     isG s (fun g => g.stat == .resuming && !g.sealed && g.wake == some 4096) = true ∧ 4096 ≤ s.tick ∧ (s.tile 0).ctl.stat = .stopped (some .wmsg)) ∧
    (let s : State := { stage .running (fun g => { g with npkg := 1, slice := true, saved := some ctx0 }) (one tile0) with tick := 7200000 }
     isG s (fun g => g.saved == some ctx0 && g.top == 5 && g.stat == .running && g.slice && g.t1 + 7200000 ≤ s.tick) = true) ∧
    (let s : State := { stage .resuming (fun g => { g with npkg := 1, saved := some ctx0 }) (one tile0) with tick := 7200000 }
     isG s (fun g => g.saved == some ctx0 && g.top == 5 && g.stat == .resuming && !g.sealed && g.t1 + 7200000 ≤ s.tick) = true) := by
  all_goals (try unfold Tile.ReadyX)
  all_goals (try unfold Tile.ReadyY)
  all_goals (try dsimp only)
  all_goals (repeat' apply And.intro)
  all_goals first | decide +kernel | rfl | exact ⟨_, rfl⟩ | exact ⟨_, rfl, rfl⟩ | exact ⟨_, _, rfl⟩
def snapped (t : Tile) : Tile := t.takeSnap
/-- A pair whose leader has run n instructions. -/
def paired (n : Nat) (inbox : Option Word) (bad : Nat := 0) : State := { one tile0 with tiles :=
  [(0, { tile0 with pair := ⟨some 2, true, 5, n, n, 0, 5, 0, inbox, bad, false⟩ }), (1, { tile0 with lidx := 1 }), (2, { Tile.reset with pair := ⟨some 0, false, 6, n, n, 0, 6, 0, inbox, bad, false⟩ })] }
/-- A consumption in the undo region. -/
def undoing : Tile := { tile0 with undo := { tile0.undo with size := 65536, base := some 0x20_0000 } }
theorem RollbackEvents :
    (let s := one tile0
     s.gangAt 0 = some gang0 ∧ gang0.present = true ∧ (s.tile 0).operandError 0x40 .scratchpad = none ∧ gang0.rolling = none ∧ s.protected gang0 = true ∧
       gang0.consumed < 4 ∧ (s.tile 0).gang ≠ none ∧ (s.tile 0).ctl.stat = .running) ∧
    (tile0.operandError 0x40 .latch).isSome = true ∧
    (one { tile0 with undo := { tile0.undo with full := true } }).protected gang0 = false ∧ 4 ≤ ({ gang0 with consumed := 4 } : Gang).consumed ∧
    (let s := stage .stopping (fun g => { g with rolling := some (40, 1) }) (one tile0)
     (s.gangAt 0).any (fun g => g.stat == .stopping && g.rolling.isSome) = true) ∧
    (let s := stage .rolling (fun g => { g with rolling := some (40, 1) }) (one undoing)
     (s.gangAt 0).any (fun g => g.stat == .rolling) = true ∧ (s.tile 0).inUndo 0x20_FFFF = true) ∧
    (let s : State := { stage .running (fun g => { g with rolling := some (40, 1) }) (one (snapped tile0)) with tick := 40 }
     isG s (fun g => g.rolling == some (40, 1) && g.present && s.protected g && (s.undoBad g).isNone) = true ∧ 40 ≤ s.tick ∧
       (∀ e ∈ gang0.l2p, ∀ f ∈ gang0.l2p, (s.tile e.2).pair.partner ≠ some f.2) ∧ (s.tile 0).snap.isSome = true) ∧
    (let s : State := { stage .rolling (fun g => { g with rolling := some (40, 1) }) (one { tile0 with ctl := { tile0.ctl with stat := .stopped none } }) with tick := 40 }
     isG s (fun g => g.rolling == some (40, 1) && g.stat == .rolling) = true ∧ (s.tile 0).ctl.stat = .stopped none) ∧
    (let s := boundary tile0 { gangG with bcause := 0x60 }
     isG s (fun g => g.bcause == 0x60 && g.rolling.isNone && g.serial == 0 && g.l2p.all fun e => s.arrivedAt g e.1 e.2) = true) ∧
    (let s := boundary tile0 { gangG with bcause := 0x60, serial := 2 }
     isG s (fun g => g.bcause == 0x60 && g.rolling.isNone && 2 ≤ g.serial && g.l2p.all fun e => s.arrivedAt g e.1 e.2) = true) ∧
    (let s := paired 4096 none
     (s.tile 0).pair.partner = some 2 ∧ (s.tile 0).pair.leader = true ∧ (s.tile 0).pair.inbox = none ∧ s.exchangeDue (s.tile 0) = true) ∧
    (let s := paired 1 (some 5)
     (s.tile 0).pair.inbox = some 5 ∧ s.gangOf (s.tile 0) = some gang0 ∧ (s.tile 0).pair.due ≤ s.tick ∧ 5 = (s.tile 0).pair.sent) ∧
    (let s := paired 1 (some 6)
     (s.tile 0).pair.inbox = some 6 ∧ 6 ≠ (s.tile 0).pair.sent ∧ (s.tile 0).pair.bad = 0 ∧ gang0.rolling = none) ∧
    (let s := paired 1 (some 6) 1
     (s.tile 0).pair.bad ≠ 0 ∧ s.spareFor gang0 0 [2] = some 3) := by
  all_goals (try unfold Tile.ReadyX)
  all_goals (try unfold Tile.ReadyY)
  all_goals (try dsimp only)
  all_goals (repeat' apply And.intro)
  all_goals first | decide +kernel | rfl | exact ⟨_, rfl⟩ | exact ⟨_, rfl, rfl⟩ | exact ⟨_, _, rfl⟩
/-- A consumption while a rollback is named; a rollback that fails, by lost protection and by a bad undo record; a pair that breaks, with no spare;
a gang at its end. -/
theorem RollbackEvents_2 :
    (let s := stage .running (fun g => { g with rolling := some (40, 1) }) (one tile0)
     (s.gangAt 0).any (fun g => g.stat == .running && g.rolling.isSome) = true ∧ (s.tile 0).operandError 0x40 .memory = none) ∧
    (let s : State := { stage .running (fun g => { g with rolling := some (40, 1), ate := some (0, .memory, 8) })
       (one { tile0 with undo := { tile0.undo with full := true } }) with tick := 40 }
     isG s (fun g => g.rolling == some (40, 1) && !s.protected g && g.ate == some (0, .memory, 8)) = true) ∧
    (let s0 : State := { stage .running (fun g => { g with rolling := some (40, 1) })
       (one { tile0 with undo := { tile0.undo with base := some 0x10_0000, written := 65 } }) with tick := 40 }
     let s : State := { s0 with svc := { s0.svc with bad := [0x401] } }
     isG s (fun g => s.protected g && s.undoBad g == some (0, 0x10_0040)) = true) ∧
    (let s : State := { stage .running (fun g => { g with rolling := some (40, 2) }) (paired 1 none 2) with tick := 40 }
     isG s (fun g => s.protected g && (s.undoBad g).isNone && (g.l2p.all fun e => g.l2p.all fun f => (s.tile e.2).pair.partner != some f.2) &&
       (g.l2p.filter fun e => (s.tile e.2).pair.leader && decide (2 ≤ (s.tile e.2).pair.bad)) == [(0, 0)]) = true) ∧
    (let s : State := { paired 1 none with tiles := (paired 1 none).tiles ++ (List.range 189).map fun n =>
       (n + 3, { Tile.reset with assay := { Tile.reset.assay with temp := 86 } }) }
     (s.tile 0).pair.partner = some 2 ∧ s.spareFor gang0 0 [2] = none) ∧
    (paired 1 none).allHalted gang0 = false ∧ ((paired 1 none).tile 0).pair.split = false ∧
    (let stopped := fun (t : Tile) => { t with ctl := { t.ctl with stat := .halted } }
     let s := ((paired 1 (some 5)).onTile 0 stopped).onTile 1 stopped
     s.allHalted gang0 = true ∧ (s.tile 0).pair.inbox = some 5 ∧ 5 = (s.tile 0).pair.sent ∧ (s.tile 0).pair.upTo = (s.tile 0).pair.count ∧
       ∀ e ∈ gang0.l2p, e.2 ≠ 2 ∧ (e.2 = 0 ∨ (s.tile e.2).agreed = true)) := by
  all_goals (try unfold Tile.ReadyX)
  all_goals (try unfold Tile.ReadyY)
  all_goals (try dsimp only)
  all_goals (repeat' apply And.intro)
  all_goals first | decide +kernel | rfl | exact ⟨_, rfl⟩ | exact ⟨_, rfl, rfl⟩ | exact ⟨_, _, rfl⟩

/-! ## Events of clocks, wear and frames -/

def dieWith (f : Die → Die) : State := (one tile0).onDie 0 f
def hot (n : Nat) (t : Tile) : Tile := { t with assay := { t.assay with temp := n } }
/-- A partition of group 1 of die 0, whose frames leave the first of the stack free. -/
def away : State := { one tile0 with parts := [⟨0, .groups 0 1, [1], 0, [], 0, 0, 0⟩] }
def move0 (sw : Bool) : FrameMove := ⟨0, 3, 5, 9, (List.range 3), sw, sw, [(0, 0)], true⟩
theorem MachineEvents :
    (let s := dieWith fun d => { d with reqs := [⟨47, 0x7F7F, none, 1, false⟩] }
     (s.die 0).reqs.find? (fun r => r.cluster == 47) = some ⟨47, 0x7F7F, none, 1, false⟩ ∧ (s.die 0).ready ⟨47, 0x7F7F, none, 1, false⟩ = true ∧
       s.tick % 16 = 0 ∧ s.clocked = true ∧ tile0.fe.res = [] ∧ tile0.fe.fAt ≤ s.tick) ∧
    (let s := dieWith fun d => { d with reqs := [⟨0, 0x7F7F, some 0, 2, false⟩] }
     (s.die 0).reqs.find? (fun r => r.cluster == 0) = some ⟨0, 0x7F7F, some 0, 2, false⟩ ∧ s.gang? 0 = some gang0 ∧
       ∀ e ∈ s.gangReqs 0, (s.die e.1).ready e.2 = true) ∧
    (let s := dieWith fun d => { d with ramp := some 850 }
     s.clocked = true ∧ (s.die 0).ramp = some 850 ∧ (s.die 0).mv = 850 ∧ (∀ r ∈ (s.die 0).reqs, patNeed r.pat ≤ 850) ∧ 850 ≤ (s.die 0).need) ∧
    (let s : State := { dieWith fun d => { d with ramp := some 650, mv := 655 } with tick := 3600 }
     s.clocked = true ∧ (s.die 0).ramp = some 650 ∧ (s.die 0).rampAt + 3600 ≤ s.tick) ∧
    (let s := dieWith fun d => { d with ramp := some 700, mv := 700, reqs := [⟨47, 0x7F7F, none, 1, false⟩] }
     s.clocked = true ∧ (s.die 0).ramp = some 700 ∧ (s.die 0).mv = 700 ∧ ∃ r ∈ (s.die 0).reqs, 700 < patNeed r.pat) ∧
    ((one tile0).die 0).powered = true ∧ gang0 ∈ (one tile0).gangsOn 0 ∧ gang0.stat = .running ∧
    (isG (stage .stopping id (one tile0)) fun g => ((stage .stopping id (one tile0)).gangsOn 0).contains g && g.stat == .stopping) = true ∧
    (let s := dieWith fun d => { d with powered := false }
     (s.die 0).powered = false ∧ ∀ e ∈ s.tiles, e.1 / 192 = 0 → e.2.assay.temp < 85) ∧
    (let s : State := { one tile0 with tiles := (List.range 192).map fun p => (p, hot 106 { tile0 with lidx := p }) }
     s.gangOf (s.tile 0) = some gang0 ∧ gang0.det = false ∧ 105 < (s.tile 0).assay.temp ∧ s.spareFor gang0 0 = none ∧ s.throttling 0 0 = false ∧
       1 < slotCount (s.cluster 0 0).pat ∧ (s.tile 0).ctl.moveTo = none) ∧
    (let s := withGang { gang0 with det := true } (one (hot 106 tile0))
     s.gangOf (s.tile 0) = some { gang0 with det := true } ∧ 105 < (s.tile 0).assay.temp ∧ Gang.atS { gang0 with det := true } (s.tile 0) = false ∧
       s.throttling 0 0 = false ∧ 1 < slotCount (s.cluster 0 0).pat ∧ (s.tile 0).ctl.moveTo = none) ∧
    (let s := one (hot 106 tile0)
     gang0.stat = .running ∧ (s.tile 0).migrates = true ∧ s.spareFor gang0 0 = some 2 ∧ (s.tile 0).ctl.stat.move ≠ (s.tile 0).ctl.stat) ∧
    (let t := { tile0 with ctl := { tile0.ctl with stat := .moving (some .wmsg), moveTo := some 2 } }
     t.ctl.stat = .moving (some .wmsg) ∧ t.ctl.moveTo = some 2 ∧ (one t).spareStands 2 = true ∧ (one t).lockMissing gang0 0 2 = false ∧
       t.ctl.moveEnd = none ∧ (one t).moveReady 0 = true ∧ t.discards = none) ∧
    (let t := { tile0 with ctl := { tile0.ctl with stat := .moving (some .wmsg), moveTo := some 2, moveEnd := some 0 } }
     (one t).spareStands 2 = true ∧ (one t).lockMissing gang0 0 2 = false ∧ t.ctl.moveEnd = some 0 ∧ 0 ≤ (one t).tick) ∧
    tile0.assay.state ≠ .retired ∧ tile0.gang.isSome = true ∧ (let u := (paired 1 none).tile 2; u.gang = none ∧ u.pair.partner = some 0) ∧
    (wearFloor (some 16) 85 850).1 + 1 < 2 ^ 48 ∧
    (away.holderOf 5 = none ∧ away.svc.scrap.contains 5 = false ∧ away.svc.retired.contains 5 = false ∧ (∀ m ∈ away.svc.moves, m.old ≠ 5 ∧ m.new ≠ 5) ∧
      (away.svc.scrap.filter fun f => f / 2 ^ 20 == 5 / 2 ^ 20).length < 4096) ∧
    (away.holderOf 87296 = some (⟨0, .groups 0 1, [1], 0, [], 0, 0, 0⟩, 0) ∧ (∀ m ∈ away.svc.moves, m.old ≠ 87296 ∧ m.new ≠ 87296) ∧
      away.freeFrame (87296 / 2 ^ 20) = some 0) ∧
    ((let s : State := { one tile0 with svc := { Svc.reset with moves := [move0 false] } }
      s.svc.moves.find? (fun m => m.part == 0 && m.pfi == 3 && !m.switched) = some (move0 false) ∧ Memory.wf s.mem = true ∧ (s.part? 0).isSome = true) ∧
      (move0 false).old ≠ (move0 false).new ∧ ((List.range 1023).contains 1023 = false ∧ (List.range 1023).length = 1023)) ∧
    (let s : State := { withGang { gang0 with step := 1 } (one tile0) with svc := { Svc.reset with moves := [move0 true] } }
     s.svc.moves.find? (fun m => m.part == 0 && m.pfi == 3 && m.shot) = some (move0 true) ∧ isG s (fun g => 0 < g.step) = true) ∧
    ((one tile0).die 7).errlog.length < 256 := by
  all_goals (try unfold Tile.ReadyX)
  all_goals (try unfold Tile.ReadyY)
  all_goals (try dsimp only)
  all_goals (repeat' apply And.intro)
  all_goals first | decide +kernel | rfl | exact ⟨_, rfl⟩ | exact ⟨_, rfl, rfl⟩ | exact ⟨_, _, rfl⟩
/-- A placed gang of a hot die; failed reads of the monitors; whether a reading lies in range is free; a move that LOAD asked for. -/
theorem MachineEvents_2 :
    (isG (stage .placed id (one tile0)) fun g => ((stage .placed id (one tile0)).gangsOn 0).contains g && g.stat == .placed) = true ∧
    tile0.assay.misses < 2 ∧ 2 ≤ ({ tile0.assay with misses := 2 } : Assay).misses ∧
    (∀ b e, Config.calibrated b e = true ∨ Config.calibrated b e = false) ∧ (87296 : Nat) < 2 ^ 23 ∧
    (let m := { move0 true with scrap := false }
     let s : State := { withGang { gang0 with step := 1 } (one tile0) with svc := { Svc.reset with moves := [m] } }
     s.svc.moves.find? (fun m => m.part == 0 && m.pfi == 3 && m.shot) = some m ∧ m.scrap = false ∧
       ∀ k ∈ m.steps, k = (0, 0)) := by
  refine ⟨?_, ?_, ?_, (fun b e => by cases Config.calibrated b e <;> simp), ?_⟩
  all_goals (try unfold Tile.ReadyX)
  all_goals (try unfold Tile.ReadyY)
  all_goals (try dsimp only)
  all_goals (repeat' apply And.intro)
  all_goals first | decide +kernel | rfl | exact ⟨_, rfl⟩ | exact ⟨_, rfl, rfl⟩ | exact ⟨_, _, rfl⟩
/-- Two DET gangs with a cluster in common; clocks that stand; a thread that leaves with a command of the envelope unit in progress; the failure of the
frame that a LOAD moves; scrub errors at the bounds of R16 and R19. -/
theorem MachineEvents_3 :
    (let g : Gang := { gang0 with det := true }
     let h : Gang := { gang0 with id := 1, det := true, l2p := [(0, 2)] }
     let s : State := { one tile0 with gangs := [g, h] }
     g.locks = true ∧ h ∈ s.gangs ∧ h.locks = true ∧ (s.gangClusters g).any (s.gangClusters h).contains = true) ∧
    (let s : State := { dieWith fun d => { d with ramp := some 650 } with svc := { Svc.reset with frozen := some 0 } }
     (s.die 0).ramp = some 650 ∧ s.clocked = false) ∧
    (let t := { midway (.eeval 1 1 5) with ctl := { tile0.ctl with stat := .moving none, moveTo := some 2 } }
     (one t).spareStands 2 = true ∧ (one t).lockMissing gang0 0 2 = false ∧ t.ctl.moveEnd = none ∧ (one t).moveReady 0 = true ∧ t.discards.isSome = true) ∧
    (let s : State := { one tile0 with svc := { Svc.reset with moves := [move0 false] } }
     (5 : Nat) < 2 ^ 23 ∧ (∀ m ∈ s.svc.moves, m.new ≠ 5) ∧ ∃ m ∈ s.svc.moves, m.old = 5) ∧
    (let place := fun (d pidx : Nat) (kind : UcUnit) (addr : Word) => decide (d < 8 ∧ (pidx < 1536 ∨ pidx = 0x7FF) ∧
       (kind = .scratchpad → pidx < 1536 ∧ addr.toNat < 2 ^ 21) ∧ (kind = .memory → addr.toNat < 8 * 2 ^ 36))
     place 7 1535 .scratchpad 0x1F_FFFF = true ∧ place 7 0x7FF .memory 0x7F_FFFF_FFFF = true ∧ place 8 0 .scratchpad 0 = false ∧ place 0 1536 .scratchpad 0 = false ∧
       place 0 0x7FF .scratchpad 0 = false ∧ place 0 0 .scratchpad 0x20_0000 = false ∧ place 0 0x7FF .memory 0x80_0000_0000 = false) := by
  all_goals (try unfold Tile.ReadyX)
  all_goals (try unfold Tile.ReadyY)
  all_goals (try dsimp only)
  all_goals (repeat' apply And.intro)
  all_goals first | decide +kernel | rfl | exact ⟨_, rfl⟩ | exact ⟨_, rfl, rfl⟩ | exact ⟨_, _, rfl⟩

/-! ## The service -/

/-- An image of one logical die of one group: eight bytes of program at 0x20_0000, a stream of one cue entry over the whole gang that ends it. -/
def image : List Byte :=
  leBytes 8 (0x38435848 + 2 ^ 32 + 2 * 2 ^ 48) ++ leBytes 8 (2 ^ 8 + 16 * 2 ^ 20) ++ leBytes 8 0x20_0000 ++ leBytes 8 0 ++ leBytes 8 0 ++ leBytes 8 12 ++ leBytes 16 0 ++
  leBytes 8 2 ++ leBytes 4 96 ++ leBytes 4 16 ++ leBytes 8 6 ++ leBytes 4 112 ++ leBytes 4 32 ++
  leBytes 8 0x20_0000 ++ leBytes 8 0 ++ leBytes 8 (2 ^ 50) ++ leBytes 8 0xFFFF ++ leBytes 16 0
/-- The image stands at the fourth partition frame. -/
def loadedS : State := off { served (one tile0) with gangs := [], mem :=
  (one tile0).mem ++ (image.zipIdx.map fun b => (0x3_0000 + b.2, b.1)).filter fun c => c.2 != 0 }
def launchG : Option (State × Gang) :=
  let s := loadedS
  let q : Partition := ⟨0, .groups 0 1, [0], 0, [], 0, 0, 0⟩
  let bs := s.partBytes q 0x3_0000 144
  let m := imageOf bs
  let place := s.placeGang q (m.wanted bs) m.groups
  let at_ := place.getD (List.range m.ndie, [])
  let g := m.gang bs s 0 65536 0 0 at_.1 at_.2
  if (s.launchReason m bs g place 0 0).isNone && s.diesReady g.dies then s.launchWrite m bs g false else none
theorem ServiceRequests :
    (let s := served (one tile0)
     s.serving = true ∧ (s.session? (tenant 2 4).session).any (fun c => !c.operator && c.part == some (tenant 2 4).part && c.last == some 3 &&
         c.anyone (tenant 6 1) && c.reply.isSome) = true ∧ (tenant 2 4).authentic = true ∧ 3 < (tenant 2 4).seq ∧
       (s.session? (operator 2 1).session).any (fun c => c.operator && c.last.isNone) = true ∧
       s.svc.frozen = none ∧ s.part? (tenant 2 4).part = some ⟨0, .groups 0 1, [0], 0, [], 0, 0, 0⟩ ∧ (tenant 3 0).len = 65 ∧
       ([((2 : BitVec 8), (4 : BitVec 8)), (2, 5), (3, 0), (4, 0), (5, 1), (5, 2), (6, 1), (6, 2), (6, 3), (6, 4), (7, 0)].all fun k =>
         requestFits (tenant k.1 k.2) k.1.toNat k.2.toNat) = true ∧
       ([((2 : BitVec 8), (1 : BitVec 8)), (2, 2), (2, 3), (8, 0), (9, 0), (9, 1)].all fun k =>
         requestFits (operator k.1 k.2) k.1.toNat k.2.toNat) = true) ∧
    (let s := served (one tile0)
     shapeOk (.groups 7 12) = true ∧ (s.takeGroups 0xFFFF [] (.groups 7 12)).isSome = true ∧ s.svc.scrap = [] ∧ s.svc.retired = []) ∧
    (let s := served { one tile0 with gangs := [] }
     s.partBusy 0 = false ∧ s.partSaved 0 = false ∧ (s.takeGroups 0 [0] (.groups 0 2)).isSome = true ∧ s.tick < 1) ∧
    (let s := served (one tile0)
     (0x8000 : BitVec 16) ≠ 0 ∧ s.gang? 0 = some gang0 ∧ gang0.part = 0 ∧ gang0.sealed = false ∧ gang0.stat = .running ∧ gang0.det = false ∧
       gang0.physCluster 0 = some (0, 0)) ∧
    (let q : Partition := ⟨0, .groups 0 1, [0], 0, [], 0, 0, 0⟩
     (q.grant ((0x1_FFFF : Word).toNat / 65536)).gv = true ∧ (served (one tile0)).svc.moves = [] ∧ Memory.wf (served (one tile0)).mem = true) ∧
    (let q : Partition := ⟨0, .groups 0 1, [0], 0, [], 0, 0, 0⟩
     let bs := loadedS.partBytes q 0x2_0000 144
     (loadedS.launchReason (imageOf bs) bs gang0 none 0 0) = some 1) ∧
    launchG.isSome = true ∧
    (let s := stage .stopped (fun g => { g with sealed := true }) (one tile0)
     isG s (fun g => g.part == 0 && g.stat == .stopped && g.sealed) = true ∧ s.tick + 8192 ≤ 8192) ∧
    (let s := { served (one tile0) with svc := { (served (one tile0)).svc with attests := 2 ^ 20 - 1 } }
     s.serving = true ∧ s.svc.frozen = none ∧ s.svc.attests < 2 ^ 20 ∧ s.session? 0 = none ∧ s.session? (BitVec.ofNat 64 (s.svc.attests + 1)) = none ∧
       (let rq : Request := ⟨⟨1, 1, 0xFFFF, 64, 0, 0, 0⟩, 0, true⟩
        rq.part = 0xFFFF ∧ rq.session = 0 ∧ requestFits rq 1 0 = true)) ∧
    ((7 : Nat) < 8 ∧ 7 ∉ [0, 1, 2, 3, 4, 5, 6] ∧ ∀ e, e < 7 → e ∈ [0, 1, 2, 3, 4, 5, 6]) ∧ State.reset.svc.boot = .cold ∧ State.reset.svc.version ≤ 0 ∧
    (0 : Nat) < ({ Svc.reset with version := 1 } : Svc).version ∧ (let s : State := { State.reset with svc := { Svc.reset with frozen := some 0 } }
      s.svc.frozen = some 0 ∧ 0 ≤ s.tick) := by
  all_goals (try unfold Tile.ReadyX)
  all_goals (try unfold Tile.ReadyY)
  all_goals (try dsimp only)
  all_goals (repeat' apply And.intro)
  all_goals first | decide +kernel | rfl | exact ⟨_, rfl⟩ | exact ⟨_, rfl, rfl⟩ | exact ⟨_, _, rfl⟩
/-- Requests that fail a test on the way: no valid tag, a SEQ repeated or gone by, a form that is none, a frozen package; one for a partition that is
not there, a resumption before the gang is saved, a partition with a saved gang. -/
theorem ServiceRequests_2 :
    (let s := served (one tile0)
     let c := s.session? 1
     ({ tenant 3 0 with authentic := false } : Request).authentic = false ∧ c.any (fun c => c.last == some 3 && c.reply.isSome) = true ∧
       (2 : Nat) < 3 ∧ requestFits { tenant 3 0 with version := 2 } 3 0 = false ∧ requestFits (tenant 3 7) 3 0 = false ∧
       requestFits { tenant 3 0 with len := 2 ^ 20 + 65 } 3 0 = false ∧ (tenant 3 0).op ≠ 6 ∧ (tenant 3 0).op ≠ 7 ∧ (tenant 3 0).op ≠ 9) ∧
    ({ served (one tile0) with svc := { (served (one tile0)).svc with frozen := some 5 } } : State).svc.frozen ≠ none ∧
    (let s := { served (one tile0) with parts := [] }
     (s.session? 1).any (fun c => !c.operator && c.part == some (tenant 4 0).part) = true ∧ s.part? (tenant 4 0).part = none) ∧
    (let s := stage .stopping id (served (one tile0))
     isG s (fun g => g.part == 0 && g.stat == .stopping && !g.sealed) = true ∧ s.tick + 8192 ≤ 8192 ∧ (0 : Nat) ≤ s.tick) ∧
    (let s := stage .stopped (fun g => { g with sealed := true }) (served (one tile0))
     s.partBusy 0 = false ∧ s.partSaved 0 = true ∧ isG s (fun g => g.sealed && g.stat == .stopped) = true) ∧
    ({ Svc.reset with image := some [(3, tile0)] } : Svc).image = some [(3, tile0)] ∧ Svc.reset.image = none ∧ smFind (192 * 0 + 3) [(3, tile0)] = some tile0 ∧
    smFind (192 * 0 + 4) [(3, tile0)] = none ∧ (served (one tile0)).tenantOf 0 tile0 = some 0 ∧ (served (one tile0)).attestKey 0 = some 0 ∧
    (served (one tile0)).tenantOf 16 Tile.reset = none ∧
    (∀ d, d < 8 → ((one tile0).die d).powered = true) ∧ (one tile0).detOn 0 0 = none := by
  all_goals (try unfold Tile.ReadyX)
  all_goals (try unfold Tile.ReadyY)
  all_goals (try dsimp only)
  all_goals (repeat' apply And.intro)
  all_goals first | decide +kernel | rfl | exact ⟨_, rfl⟩ | exact ⟨_, rfl, rfl⟩ | exact ⟨_, _, rfl⟩

/-! ## Step, decoding, invariants -/

/-- ADD x3, x1, x2 stands at the pc of tile 0. -/
def fetching : State := { one (xs [(1, 5), (2, 6)]) with turns := [.thread 0], mem := (one tile0).mem ++ [(0x1_0000, 0x84), (0x1_0001, 0x81), (0x1_0002, 0x20)] }
theorem StepRunsDecoded : let s := fetching
    let s1 : State := { s with steps := s.steps + 1, turns := [], cur := 0 }
    let t := s.tile 0
    s.turns = .thread 0 :: [] ∧ s.dead = false ∧ ({ s with steps := s.steps + 1 } : State).urgentMove.isNone = true ∧
    s1.gangAt 0 = some gang0 ∧ s1.spots gang0 = [] ∧ s1.barred t = false ∧ s1.slotOn 0 = true ∧ t.ctl.stat = .running ∧ t.takeable s.tick = none ∧
    t.fe.aq = [] ∧ t.fe.xq = [] ∧ t.fe.xl = [] ∧ t.fe.skip = [] ∧ t.fe.res = [] ∧ t.envq = [] ∧ t.fe.aAt ≤ s.tick ∧ t.fe.xAt ≤ s.tick ∧ t.fe.fAt ≤ s.tick ∧
    (s1.die (0 / 192)).walks = [] ∧ vecMem (.add 3 1 2) = false ∧
    (let f := s1.fetchWord t t.fe.pc
     f.1 = some 0x0020_8184 ∧ decode 0x0020_8184 = .ok (.add 3 1 2) ∧ ∃ s2, exec (.add 3 1 2) (s1.setT (t.here f.2)) = .next s2) := by
  all_goals (try unfold Tile.ReadyX)
  all_goals (try unfold Tile.ReadyY)
  all_goals (try dsimp only)
  all_goals (repeat' apply And.intro)
  all_goals first | decide +kernel | rfl | exact ⟨_, rfl⟩ | exact ⟨_, rfl, rfl⟩ | exact ⟨_, _, rfl⟩
theorem DecodeOfEncode : (Instr.amocas .w64 27 1 2).wf = true ∧ (encode (.amocas .w64 27 1 2)).isSome = true := by
  all_goals (try unfold Tile.ReadyX)
  all_goals (try unfold Tile.ReadyY)
  all_goals (try dsimp only)
  all_goals (repeat' apply And.intro)
  all_goals first | decide +kernel | rfl | exact ⟨_, rfl⟩ | exact ⟨_, rfl, rfl⟩ | exact ⟨_, _, rfl⟩
theorem EncodeOfDecode : decode 0x0020_8184 = .ok (.add 3 1 2) := by
  all_goals (try unfold Tile.ReadyX)
  all_goals (try unfold Tile.ReadyY)
  all_goals (try dsimp only)
  all_goals (repeat' apply And.intro)
  all_goals first | decide +kernel | rfl | exact ⟨_, rfl⟩ | exact ⟨_, rfl, rfl⟩ | exact ⟨_, _, rfl⟩
def goesOn (o : Out) : Bool :=
  match o with
  | .next _ => true
  | _ => false
theorem StepKeepsSound : fetching.Sound ∧ goesOn (step fetching) = true := by
  have ht : fetching.tiles.all (fun e => e.2.spad.isEmpty && e.2.snap.isNone && e.2.task.cks.isEmpty && !e.2.task.opened) = true := by decide +kernel
  have hg : fetching.gangs.all (fun g => g.saved.isNone) = true := by decide +kernel
  refine ⟨⟨by decide +kernel, fun e he => ?_, fun g h ctx hc => ?_⟩, by decide +kernel⟩
  · have := List.all_eq_true.1 ht e he
    simp only [Bool.and_eq_true, List.isEmpty_iff, Option.isNone_iff_eq_none, Bool.not_eq_true'] at this
    exact ⟨by rw [this.1.1.1]; rfl, by simp [this.1.1.2], by simp [this.1.2], by simp [this.2]⟩
  · have := List.all_eq_true.1 hg g h
    rw [hc] at this
    cases this


end Sys2Proof.Witness
end

/-! PROOFS of the statements about the package as a whole: the registers after reset (O60), and the events of the matrix unit and of
the scan engine's starts (O41). Layers: what a state operation leaves, what the unit's own operations do, one lemma per event, the statements. -/

namespace Sys2Proof.Machine

/-! ## Reset (R7, R47, R52, R361) -/

/-- No tile is listed after reset, so each is one at reset. -/
@[simp] theorem State.tile_reset (p : Nat) : State.reset.tile p = Tile.reset := rfl

/-- A list of one repeated value answers with it, whether or not the index is in range. -/
theorem getD_replicate_self {α : Type} (n i : Nat) (v : α) : (List.replicate n v).getD i v = v := by
  rw [List.getD_eq_getElem?_getD, List.getElem?_replicate]
  split <;> rfl

@[simp] theorem State.die_reset (d : Nat) : State.reset.die d = Die.reset := getD_replicate_self 8 d _

@[simp] theorem State.cluster_reset (d c : Nat) : State.reset.cluster d c = ⟨0xFFFF, [], 0⟩ := by
  rw [State.cluster, State.die_reset]
  exact getD_replicate_self 48 c _

/-- The whole package is in canonical form after reset: it lists no byte, no tile and no gang. -/
theorem State.reset_sound : State.reset.Sound :=
  ⟨reset_mem_wf, fun _ h => (List.not_mem_nil h).elim, fun _ h => (List.not_mem_nil h).elim⟩

@[simp] theorem Tile.reset_xval (r : XReg) : Tile.reset.xval r = 0 := by
  simp [Tile.xval, Tile.reset, Regs.reset]
@[simp] theorem Tile.reset_yval (r : YReg) : Tile.reset.yval r = 0 := by
  simp [Tile.yval, Tile.reset, Regs.reset]
@[simp] theorem Tile.reset_vval (r : VReg) : Tile.reset.vval r = 0 := by
  simp [Tile.vval, Tile.reset, Regs.reset]
@[simp] theorem Tile.reset_mval (r : MReg) : Tile.reset.mval r = if r = 0 then ones64 else 0 := by
  simp [Tile.mval, Tile.reset, Regs.reset]
@[simp] theorem Tile.reset_jval (r : JReg) : Tile.reset.jval r = 0 := by
  simp [Tile.jval, Tile.reset, Regs.reset]
@[simp] theorem Tile.reset_loop (n : Level) : Tile.reset.regs.loop.get n = ⟨0, 0, 0⟩ := by
  cases n <;> rfl
@[simp] theorem Tile.reset_envGet (e : EReg) : Tile.reset.envGet e = .empty := by
  simp [Tile.envGet, Tile.reset]
@[simp] theorem Matrix.reset_word (a i j : Nat) : Matrix.reset.word a i j = 0 := rfl
/-- Every accumulator is in mode binary64 after reset (R50). -/
@[simp] theorem Matrix.reset_int (a : AccReg) : Matrix.reset.int a = false := by
  simp [Matrix.int, Matrix.reset]

/-- Settles O60: no tile and no gang is listed after reset, so every tile is `Tile.reset`, whose register files the lemmas above read;
a special register is a field of it. -/
theorem resetState : Obligations.ResetState := by
  unfold Obligations.ResetState
  refine ⟨State.reset_sound, rfl, rfl, rfl, rfl, rfl, fun p => ?_, fun d c => ?_⟩
  · rw [State.tile_reset]
    have zeros : ∀ n, n < 4 → (Vector.replicate 4 (0 : Word)).toList[n]? = some 0 := fun n h => List.getElem?_replicate_of_lt h
    exact ⟨Tile.reset_xval, Tile.reset_yval, Tile.reset_vval, Tile.reset_mval, Tile.reset_jval, Tile.reset_loop, Tile.reset_envGet,
      Matrix.reset_word, Matrix.reset_int,
      rfl, rfl, rfl, rfl, -- the ports
      rfl, rfl, fun n h => ⟨zeros n h, zeros n h⟩, rfl, rfl, rfl, rfl, rfl, rfl, -- R52, U range
      rfl, rfl, rfl, rfl, rfl, rfl, rfl, rfl, rfl, -- R52, what rollback leaves
      rfl, rfl, rfl, rfl, rfl, zeros, rfl, rfl, rfl, rfl, rfl, rfl, rfl, rfl, rfl, rfl, rfl, rfl, rfl, -- R361
      rfl, rfl, rfl, rfl⟩
  · rw [State.die_reset, State.cluster_reset]
    exact ⟨rfl, rfl, rfl⟩

/-! ## Items on the network (R134) -/

theorem State.otherTiles_setTile (s : State) (p : Nat) (t : Tile) : s.OtherTiles (s.setTile p t) p :=
  fun _ h => s.tile_setTile_ne t h.symm

theorem State.send_of_gang {s : State} {t : Tile} {g dst due : Nat} {m : Msg} (h : t.gang = some g) :
    s.send t dst m due = { s with net := s.net ++ [⟨g, t.lidx, dst, m, due, false, s.tick, t.pair.count + 1⟩] } := by
  simp [State.send, h]

@[simp] theorem State.send_tiles (s : State) (t : Tile) (dst due : Nat) (m : Msg) : (s.send t dst m due).tiles = s.tiles := by
  unfold State.send
  split <;> rfl
@[simp] theorem State.send_tile (s : State) (t : Tile) (dst due : Nat) (m : Msg) (p : Nat) : (s.send t dst m due).tile p = s.tile p := by
  simp [State.tile]
@[simp] theorem State.send_mem (s : State) (t : Tile) (dst due : Nat) (m : Msg) : (s.send t dst m due).mem = s.mem := by
  unfold State.send
  split <;> rfl

/-- An arrival takes its item off the network and changes nothing else. -/
theorem State.arrival_state {s s1 : State} {k : Nat} {f : Flight} (h : s.arrival k = some (f, s1)) :
    s1 = { s with net := s.net.eraseIdx k } := by
  unfold State.arrival at h
  split at h
  · cases h
  · split at h
    · cases h
    · cases h
      rfl
theorem State.arrival_tile {s s1 : State} {k : Nat} {f : Flight} (h : s.arrival k = some (f, s1)) (p : Nat) : s1.tile p = s.tile p := by
  rw [State.arrival_state h]
  rfl
theorem State.arrival_mem {s s1 : State} {k : Nat} {f : Flight} (h : s.arrival k = some (f, s1)) : s1.mem = s.mem := by
  rw [State.arrival_state h]
theorem State.arrival_tick {s s1 : State} {k : Nat} {f : Flight} (h : s.arrival k = some (f, s1)) : s1.tick = s.tick := by
  rw [State.arrival_state h]

/-! ## What leaves the matrix unit as it is -/

@[simp] theorem Tile.raise_mx (t : Tile) (bit : Nat) (v : Word) : (t.raise bit v).mx = t.mx := by
  unfold Tile.raise
  split <;> rfl
@[simp] theorem Tile.raise_regs (t : Tile) (bit : Nat) (v : Word) : (t.raise bit v).regs = t.regs := by
  unfold Tile.raise
  split <;> rfl
@[simp] theorem Tile.raise_gang (t : Tile) (bit : Nat) (v : Word) : (t.raise bit v).gang = t.gang := by
  unfold Tile.raise
  split <;> rfl
@[simp] theorem Tile.raise_lidx (t : Tile) (bit : Nat) (v : Word) : (t.raise bit v).lidx = t.lidx := by
  unfold Tile.raise
  split <;> rfl
@[simp] theorem Tile.raise_pair (t : Tile) (bit : Nat) (v : Word) : (t.raise bit v).pair = t.pair := by
  unfold Tile.raise
  split <;> rfl

@[simp] theorem Tile.error_mx (t : Tile) (why : Nat) : (t.error why).mx = t.mx := by
  simp [Tile.error]
@[simp] theorem Tile.claim_mx (t : Tile) (cost : Nat) : (t.claim cost).mx = t.mx := by
  unfold Tile.claim
  split
  · rfl
  · split
    · rfl
    · simp
@[simp] theorem Tile.logLine_mx (t : Tile) (line : Nat) : (t.logLine line).mx = t.mx := by
  unfold Tile.logLine
  split
  · rfl
  · exact t.claim_mx 72
@[simp] theorem Tile.logLatch_mx (t : Tile) (k : Nat) : (t.logLatch k).mx = t.mx := by
  unfold Tile.logLatch
  split
  · rfl
  · exact t.claim_mx _
@[simp] theorem Tile.spadWrite_mx (t : Tile) (span : Nat) (key : Word) (off : Nat) (b : Byte) : (t.spadWrite span key off b).mx = t.mx :=
  t.logLine_mx _
@[simp] theorem Tile.spadPut_mx (t : Tile) (span : Nat) (key : Word) (off n v : Nat) : (t.spadPut span key off n v).mx = t.mx := by
  unfold Tile.spadPut
  generalize List.range n = is
  induction is generalizing t with
  | nil => rfl
  | cons i is ih => simp [ih]
@[simp] theorem Tile.post_mx (t : Tile) (w0 w1 : Word) : (t.post w0 w1).mx = t.mx := by
  unfold Tile.post
  split <;> rfl
@[simp] theorem Tile.merr_mx (t : Tile) (es : List (Nat × Nat × Nat)) : (t.merr es).mx = t.mx := rfl

/-- A fill of the front half counts in FILLS; its arrival flag is a write of the scratchpad (R164). -/
theorem Tile.fill_mx (t : Tile) (c : MxCmd) : (t.fill c).mx = { t.mx with fills := (t.mx.fills + 1) % 2 ^ 64 } := by
  unfold Tile.fill
  dsimp only
  split
  · split <;> simp
  · simp

/-! ## The matrix unit takes and starts a command (R44, R163, R168) -/

theorem Matrix.pick_local {m : Matrix} {c : MxCmd} {r : List MxCmd} (hf : m.fifo = c :: r) (hr : m.remote = [] ∨ m.lastRemote = true) :
    m.pick = some (c, { m with fifo := r, lastRemote := false }) := by
  unfold Matrix.pick
  rw [hf]
  rcases hr with hr | hr
  · simp [hr]
  · cases h : m.remote <;> simp [hr]

theorem Matrix.pick_remote {m : Matrix} {c : MxCmd} {r : List MxCmd} (hr : m.remote = c :: r) (hf : m.fifo = [] ∨ m.lastRemote = false) :
    m.pick = some (c, { m with remote := r, lastRemote := true }) := by
  unfold Matrix.pick
  rw [hr]
  rcases hf with hf | hf
  · simp [hf]
  · cases h : m.fifo <;> simp [hf]

/-- What a command is as it starts: nothing computed, nothing swapped. -/
def MxCmd.started (c : MxCmd) (fault : Bool) (now : Nat) : MxRun where
  cmd := c
  fault := fault
  computed := false
  swapped := false
  flags := 0
  bad := []
  merr := false
  errs := []
  out := []
  since := now
  raised := false

/-- The tile at which the command c, taken from the queues of m, starts: a local one that fails a start check raises its source. -/
def Tile.mxStarted (t : Tile) (c : MxCmd) (m : Matrix) (now : Nat) : Tile :=
  let u := { t with mx := { m with run := some (c.started (t.mxFaults c) now), sent := false, sending := false } }
  if t.mxFaults c && c.sender.isNone then u.raise 9 (BitVec.ofNat 64 c.id) else u

theorem State.mxStart_of_pick {s : State} {p : Nat} {c : MxCmd} {m : Matrix} (hn : (s.tile p).mx.run = none) (hp : (s.tile p).mx.pick = some (c, m)) :
    s.mxStart p = if c.rot && 1 < ringLen c.mring then (s.setTile p ((s.tile p).mxStarted c m s.tick)).ringSend p
      else s.setTile p ((s.tile p).mxStarted c m s.tick) := by
  unfold State.mxStart
  simp only [hn, hp]
  rfl

section
variable (t : Tile) (c : MxCmd) (m : Matrix) (now : Nat)

theorem Tile.mxStarted_mx :
    (t.mxStarted c m now).mx = { m with run := some (c.started (t.mxFaults c) now), sent := false, sending := false } := by
  unfold Tile.mxStarted
  split <;> simp
@[simp] theorem Tile.mxStarted_regs : (t.mxStarted c m now).regs = t.regs := by
  unfold Tile.mxStarted
  split <;> simp
@[simp] theorem Tile.mxStarted_gang : (t.mxStarted c m now).gang = t.gang := by
  unfold Tile.mxStarted
  split <;> simp
@[simp] theorem Tile.mxStarted_lidx : (t.mxStarted c m now).lidx = t.lidx := by
  unfold Tile.mxStarted
  split <;> simp
@[simp] theorem Tile.mxStarted_pair : (t.mxStarted c m now).pair = t.pair := by
  unfold Tile.mxStarted
  split <;> simp

end

/-- A send that has its credit begins: it takes the credit, and the front half goes to the successor (R163). -/
theorem State.ringSend_of_credit {s : State} {p g : Nat} {r : MxRun} (hr : (s.tile p).mx.run = some r) (hc : (s.tile p).mx.credit = true)
    (hg : (s.tile p).gang = some g) :
    let t := s.tile p
    s.ringSend p = { s.setTile p { t with mx := { t.mx with sending := false, credit := false } } with
      net := s.net ++ [⟨g, t.lidx, t.ringSucc r.cmd.mring, .ring t.mx.front (bitsOf r.cmd.mring 2 0), s.tick + (t.mx.front.bytes + 255) / 256 + 2,
        false, s.tick, t.pair.count + 1⟩] } := by
  unfold State.ringSend
  simp only [hr, hc]
  exact State.send_of_gang hg

theorem exec_engineCommandStart_matrix {s : State} {p : Nat} (h : s.slotOn p = true) :
    exec (.engineCommandStart p .matrix) s = .next (s.mxStart p) := by
  show execEngineCommandStart p .matrix s = _
  simp [execEngineCommandStart, h]

/-- A command that either queue gives starts; unless it rotates in a ring of several tiles, it sends nothing. -/
theorem exec_engineCommandStart_of_pick {s : State} {p : Nat} {c : MxCmd} {m : Matrix} (hs : s.slotOn p = true) (hn : (s.tile p).mx.run = none)
    (hp : (s.tile p).mx.pick = some (c, m)) (hrot : c.rot = true → ringLen c.mring = 1) :
    exec (.engineCommandStart p .matrix) s = .next (s.setTile p ((s.tile p).mxStarted c m s.tick)) := by
  have hno : ¬ (c.rot && decide (1 < ringLen c.mring)) = true := by
    intro h
    obtain ⟨hc, hl⟩ := Bool.and_eq_true_iff.1 h
    rw [hrot hc] at hl
    exact absurd hl (by decide)
  rw [exec_engineCommandStart_matrix hs, State.mxStart_of_pick hn hp, if_neg hno]

/-- A rotation step in a ring of several tiles starts with its send (R163). -/
theorem exec_engineCommandStart_rotation {s : State} {p g : Nat} {c : MxCmd} {m : Matrix} (hs : s.slotOn p = true) (hn : (s.tile p).mx.run = none)
    (hp : (s.tile p).mx.pick = some (c, m)) (hrot : c.rot = true) (hl : 1 < ringLen c.mring) (hc : m.credit = true) (hg : (s.tile p).gang = some g) :
    let u := (s.tile p).mxStarted c m s.tick
    exec (.engineCommandStart p .matrix) s = .next { s.setTile p { u with mx := { u.mx with sending := false, credit := false } } with
      net := s.net ++ [⟨g, (s.tile p).lidx, (s.tile p).ringSucc c.mring, .ring m.front (bitsOf c.mring 2 0), s.tick + (m.front.bytes + 255) / 256 + 2,
        false, s.tick, (s.tile p).pair.count + 1⟩] } := by
  intro u
  have hrun : u.mx = { m with run := some (c.started ((s.tile p).mxFaults c) s.tick), sent := false, sending := false } := Tile.mxStarted_mx _ _ _ _
  have hsend := State.ringSend_of_credit (s := s.setTile p u) (p := p) (g := g) (r := c.started ((s.tile p).mxFaults c) s.tick)
    (by rw [State.tile_setTile, hrun]) (by rw [State.tile_setTile, hrun]; exact hc) (by rw [State.tile_setTile, Tile.mxStarted_gang, hg])
  rw [exec_engineCommandStart_matrix hs, State.mxStart_of_pick hn hp, if_pos (by simp [hrot, hl]), hsend]
  simp [hrun, u, MxCmd.started, Tile.ringSucc, Tile.ringAt]

/-- At an enabled slot a scan command starts, but an SPASS of the next round, which waits for the release (R197, R285). -/
theorem exec_engineCommandStart_scan {s : State} {p : Nat} {c : ScCmd} {r : List ScCmd} (hs : s.slotOn p = true) (hn : (s.tile p).scan.run = none)
    (hf : (s.tile p).scan.fifo = c :: r) (hw : c.op = .spass → (s.tile p).scan.spassDone = false) :
    exec (.engineCommandStart p .scan) s = .next (s.onTile p fun t => { t with scan := { t.scan with fifo := r, run := some c } }) := by
  have hgo : (c.op == .spass && (s.tile p).scan.spassDone) = false := by
    by_cases h : c.op = .spass
    · simp [hw h]
    · simp [h]
  have hstart : (s.tile p).scStart = { s.tile p with scan := { (s.tile p).scan with fifo := r, run := some c } } := by
    simp [Tile.scStart, hn, hf, hgo]
  show execEngineCommandStart p .scan s = _
  simp [execEngineCommandStart, hs, State.onTile, hstart]

/-- The envelope's started command is the head of its FIFO: its start changes nothing. -/
theorem exec_engineCommandStart_envelope (s : State) (p : Nat) : exec (.engineCommandStart p .envelope) s = .next s := by
  show execEngineCommandStart p .envelope s = _
  simp [execEngineCommandStart]

/-! ## A command that has computed completes (R54, R169, R172) -/

theorem State.logFound_of_computed {s : State} {p : Nat} {r : MxRun} (hr : (s.tile p).mx.run = some r) (hc : r.computed = true) :
    s.logFound p = s := by
  simp [State.logFound, hr, Tile.foundBad, hc]

theorem Tile.mxCompute_of_computed {t : Tile} {r : MxRun} (seed : Nat) (hr : t.mx.run = some r) (hc : r.computed = true) :
    t.mxCompute seed = t := by
  simp [Tile.mxCompute, hr, hc]

/-- The tile when the bytes that its running command r still has to write are written (R102). -/
def Tile.mxWritten (t : Tile) (r : MxRun) : Tile := if r.out = [] then t else t.spadBytes r.out

@[simp] theorem Tile.mxWritten_mx (t : Tile) (r : MxRun) : (t.mxWritten r).mx = t.mx := by
  unfold Tile.mxWritten
  split <;> rfl

@[simp] theorem Tile.mxWritten_ni (t : Tile) (r : MxRun) : (t.mxWritten r).ni = t.ni := by
  unfold Tile.mxWritten
  split <;> rfl

theorem MxRun.out_emptied {r : MxRun} (h : r.out = []) : { r with out := [] } = r := by
  cases r
  subst h
  rfl

/-- A command that has computed goes to its completion with what is left of its result written first. -/
theorem exec_matrixCommandComplete_of_computed {s : State} {p : Nat} {r : MxRun} (hs : s.slotOn p = true) (hr : (s.tile p).mx.run = some r)
    (hc : r.computed = true) :
    exec (.matrixCommandComplete p) s = .next ((s.setTile p
      { (s.tile p).mxWritten r with mx := { (s.tile p).mx with run := some { r with out := [] } } }).mxFinish p) := by
  show execMatrixCommandComplete p s = _
  by_cases ho : r.out = []
  · have hw : (s.tile p).mxWriting = false := by simp [Tile.mxWriting, hr, ho]
    have hd : s.onTile p (fun t => t.mxCompute s.steps) = s.setTile p (s.tile p) := by
      simp [State.onTile, Tile.mxCompute_of_computed _ hr hc]
    simp [execMatrixCommandComplete, hs, hw, State.logFound_of_computed hr hc, hd, Tile.mxWritten, ho, MxRun.out_emptied ho, ← hr]
  · have hw : (s.tile p).mxWriting = true := by simp [Tile.mxWriting, hr, ho]
    simp [execMatrixCommandComplete, hs, hw, State.onTile, Tile.mxWriteOut, hr, Tile.mxWritten, ho]

/-- A local command whose target has room completes: the unit is free, and its queues' turn is kept. -/
theorem State.mxFinish_local {s : State} {p : Nat} {r : MxRun} (hr : (s.tile p).mx.run = some r) (hc : r.computed = true)
    (hw : r.cmd.rot = true → r.swapped = true) (hl : r.cmd.sender = none) (hm : (s.tile p).mxRoom r.cmd = true) :
    ∃ last, s.mxFinish p = s.setTile p (({ s.tile p with mx := { (s.tile p).mx with run := none, lastRemote := last } }).mxLocalDone r) := by
  have hgo : (!r.computed || (r.cmd.rot && !r.swapped) || !(s.tile p).mxRoom r.cmd) = false := by
    cases h : r.cmd.rot
    · simp [hc, hm]
    · simp [hc, hm, hw h]
  refine ⟨((s.tile p).mx.fifo.isEmpty && (s.tile p).mx.remote.isEmpty) || (s.tile p).mx.lastRemote, ?_⟩
  simp [State.mxFinish, hr, hgo, hl]

/-- A local completion changes of the unit its completion FIFO alone. -/
theorem Tile.mxLocalDone_mx (t : Tile) (r : MxRun) : ∃ cf owed, (t.mxLocalDone r).mx = { t.mx with cf := cf, owed := owed } := by
  unfold Tile.mxLocalDone
  dsimp only
  split
  · exact ⟨_, _, rfl⟩
  · split
    · rw [Tile.post_mx]
      exact ⟨_, _, rfl⟩
    · exact ⟨_, _, rfl⟩

@[simp] theorem State.mxRemoteDone_tile (s : State) (p src ent q : Nat) (r : MxRun) : (s.mxRemoteDone p r src ent).tile q = s.tile q := by
  unfold State.mxRemoteDone
  dsimp only
  split <;> simp
@[simp] theorem State.mxRemoteDone_mem (s : State) (p src ent : Nat) (r : MxRun) : (s.mxRemoteDone p r src ent).mem = s.mem := by
  unfold State.mxRemoteDone
  dsimp only
  split <;> simp

/-- Whatever the running command: a completion changes of the unit the command, the queues' turn and the completion FIFO alone. -/
theorem State.mxFinish_mx (s : State) (p : Nat) : ∃ run last cf owed,
    ((s.mxFinish p).tile p).mx = { (s.tile p).mx with run := run, lastRemote := last, cf := cf, owed := owed } := by
  unfold State.mxFinish
  dsimp only
  split
  case h_1 => exact ⟨_, _, _, _, rfl⟩
  case h_2 r hr =>
    split
    · exact ⟨_, _, _, _, rfl⟩
    · split
      · rw [State.tile_setTile]
        obtain ⟨cf, owed, h⟩ := Tile.mxLocalDone_mx _ r
        exact ⟨_, _, cf, owed, h⟩
      · rw [State.mxRemoteDone_tile, State.tile_setTile]
        exact ⟨_, _, _, _, rfl⟩

theorem State.mxFinish_mem (s : State) (p : Nat) : (s.mxFinish p).mem = s.mem := by
  unfold State.mxFinish
  dsimp only
  split
  · rfl
  · split
    · rfl
    · split <;> simp

/-- A local command that has computed, with room for its completion, completes; its element and flags are what it has computed. -/
theorem exec_matrixCommandComplete_local {s : State} {p : Nat} {r : MxRun} (hs : s.slotOn p = true) (hr : (s.tile p).mx.run = some r)
    (hc : r.computed = true) (hw : r.cmd.rot = true → r.swapped = true) (hl : r.cmd.sender = none) (hm : (s.tile p).mxRoom r.cmd = true) :
    ∃ last, exec (.matrixCommandComplete p) s = .next (s.setTile p
      (({ (s.tile p).mxWritten r with mx := { (s.tile p).mx with run := none, lastRemote := last } }).mxLocalDone r)) := by
  rw [exec_matrixCommandComplete_of_computed hs hr hc]
  obtain ⟨last, h⟩ := State.mxFinish_local
    (s := s.setTile p { (s.tile p).mxWritten r with mx := { (s.tile p).mx with run := some { r with out := [] } } }) (p := p)
    (r := { r with out := [] }) (by simp) hc hw hl (by simpa [Tile.mxRoom, Tile.mboxRoom] using hm)
  refine ⟨last, ?_⟩
  rw [h, State.tile_setTile, State.setTile_setTile]
  rfl

/-- The completion without notice. -/
theorem Tile.mxLocalDone_silent {t : Tile} {r : MxRun} (h : r.cmd.notify = 0) : t.mxLocalDone r = (t.flags r.flags).merr r.errs := by
  simp [Tile.mxLocalDone, h]
/-- The completion that leaves an element in the completion FIFO. -/
theorem Tile.mxLocalDone_element {t : Tile} {r : MxRun} (h : r.cmd.notify = 1) :
    t.mxLocalDone r = (({ t with mx := { t.mx with cf := t.mx.cf ++ [r.element], owed := t.mx.owed - 1 } }).flags r.flags).merr r.errs := by
  simp only [Tile.mxLocalDone, h, if_true]
  rfl

/-! ## Rotation (R163) -/

/-- The half of a send fills the back half of its target; the sender's own send has arrived. -/
theorem exec_rotationSendArrival_fills {s s1 : State} {p k q logl : Nat} {f : Flight} {h : Half} (hk : s.ringItem (s.tile p) = some k)
    (ha : s.arrival k = some (f, s1)) (hm : f.msg = .ring h logl) (hl : logl = bitsOf (s.tile p).mx.ring 2 0) (hq : s1.flightTile f f.src = some q) :
    let s2 := s1.onTile q fun u => { u with mx := { u.mx with sent := true } }
    let t := (s2.tile p).logLatch 1
    exec (.rotationSendArrival p) s = .next (s2.setTile p { t with mx := { t.mx with back := h, backIn := true } }) := by
  intro s2 t
  have hring : (s2.tile p).mx.ring = (s.tile p).mx.ring := by
    rw [← State.arrival_tile ha p]
    by_cases hp : q = p
    · subst hp
      simp [s2, State.onTile]
    · simp [s2, State.onTile, State.tile_setTile_ne _ _ hp]
  have hlog : ¬ logl ≠ bitsOf (s2.tile p).mx.ring 2 0 := by
    rw [hring]
    exact fun h => h hl
  show execRotationSendArrival p s = _
  simp only [execRotationSendArrival, hk, ha, hm, hq]
  exact congrArg _ (if_neg hlog)

/-- The tile whose halves swap as the step of the command of r ends: both are logged, and the fill counts (R163, R164, R395). -/
def Tile.mxSwapped (t : Tile) (r : MxRun) : Tile :=
  let u := (t.logLatch 0).logLatch 1
  ({ u with mx := { u.mx with front := u.mx.back, back := u.mx.front, backIn := false, run := some { r with swapped := true } } }).fill r.cmd

theorem Tile.mxSwapped_mx (t : Tile) (r : MxRun) : (t.mxSwapped r).mx = { t.mx with
    front := t.mx.back, back := t.mx.front, backIn := false, run := some { r with swapped := true }, fills := (t.mx.fills + 1) % 2 ^ 64 } := by
  simp [Tile.mxSwapped, Tile.fill_mx]

/-- The step of a computed command ends: the halves swap, a credit goes back in a ring of several tiles, and the command goes to its completion. -/
theorem exec_rotationSwap_of_ready {s : State} {p : Nat} {r : MxRun} (hs : s.slotOn p = true) (hr : (s.tile p).mx.run = some r)
    (hrot : r.cmd.rot = true) (hc : r.computed = true) (hw : r.swapped = false)
    (hready : ringLen r.cmd.mring = 1 ∨ (s.tile p).mx.sent = true ∧ (s.tile p).mx.backIn = true) :
    exec (.rotationSwap p) s =
      let t := (s.tile p).mxSwapped r
      let s1 := s.setTile p t
      .next ((if 1 < ringLen r.cmd.mring then s1.send t (t.ringPred r.cmd.mring) .credit (s.tick + 2) else s1).mxFinish p) := by
  have hgo : (!(s.tile p).swapReady || !s.slotOn p) = false := by
    rcases hready with h | ⟨h1, h2⟩
    · simp [Tile.swapReady, hr, hrot, hc, hw, hs, h]
    · simp [Tile.swapReady, hr, hrot, hc, hw, hs, h1, h2]
  show execRotationSwap p s = _
  simp only [execRotationSwap, State.logFound_of_computed hr hc, Tile.mxCompute_of_computed _ hr hc, hr, hgo]
  rfl

/-! ## Remote records (R170 to R172) -/

/-- The checks of a record of gang g at its target, in the order of the table of R172. -/
def State.mcmdChecks (s : State) (t : Tile) (g : Gang) (cap : Word) (c : MxCmd) (clean : Bool) (fa : LFmt) : List Bool :=
  [mint (s.keyOf g.part) cap == cap, bitsOf cap 10 0 == t.lidx, decide (bitsOf cap 13 11 ≤ c.acc.toNat ∧ c.acc.toNat ≤ bitsOf cap 16 14),
    cap.getLsbD (17 + fa.group), clean && (mmaCheck c.word c.addr t.ur.pstride).isNone, t.ctl.stat != .halted]

/-- The reason of a refusal is the number of the first check that fails, from 1 (log 82). -/
theorem State.mcmdReason_eq {s : State} {t : Tile} {gid fmt pln : Nat} {g : Gang} {cap : Word} {c : MxCmd} {clean : Bool} {fa : LFmt}
    (ht : t.gang = some gid) (hg : s.gang? gid = some g) (hwin : anyWin c.addr = some (fmt, pln)) (hfmt : mxFmt fmt pln = some fa) :
    s.mcmdReason t cap c clean = ((s.mcmdChecks t g cap c clean fa).findIdx? fun b => !b).map (· + 1) := by
  have hgang : s.gangOf t = some g := by simp [State.gangOf, ht, hg]
  unfold State.mcmdReason State.mcmdChecks
  -- both sides are the same chain of conditionals once the successor is brought into the branches of the search
  simp [hgang, hwin, hfmt, List.findIdx?_cons, apply_ite (Option.map _)]

section
variable {s s1 : State} {k p ent id : Nat} {f : Flight} {cap : Word} {c : MxCmd} {clean : Bool}
variable (ha : s.arrival k = some (f, s1)) (hm : f.msg = .mcmd ent id cap c clean) (hd : s1.flightTile f f.dst = some p)
include ha hm hd

theorem exec_mcmdRecordArrival_refused {n : Nat} (hr : s1.mcmdReason (s1.tile p) cap c clean = some n) :
    let t := s1.tile p
    exec (.mcmdRecordArrival k) s = .next
      ((s1.send t f.src (.mail (mboxWord 4 0 0 0 t.lidx) (BitVec.ofNat 64 (n + c.acc.toNat * 16)))).send t f.src (.storeAck ent)) := by
  show execMcmdRecordArrival k s = _
  simp only [execMcmdRecordArrival, ha, hm, hd, hr]

theorem exec_mcmdRecordArrival_retried (hr : s1.mcmdReason (s1.tile p) cap c clean = none) (hfull : 8 ≤ (s1.tile p).mx.remote.length) :
    exec (.mcmdRecordArrival k) s = .next (s1.send (s1.tile p) f.src (.retryCmd ent id cap c clean) (s1.tick + 64)) := by
  show execMcmdRecordArrival k s = _
  simp only [execMcmdRecordArrival, ha, hm, hd, hr, State.arrival_tick ha]
  exact congrArg _ (if_pos hfull)

theorem exec_mcmdRecordArrival_queued (hr : s1.mcmdReason (s1.tile p) cap c clean = none) (hroom : (s1.tile p).mx.remote.length < 8) :
    let t := s1.tile p
    exec (.mcmdRecordArrival k) s = .next (s1.setTile p { t with
      mx := { t.mx with remote := t.mx.remote ++ [{ c with pstride := t.ur.pstride, mring := t.ur.mring, bhkey := t.sr.bhkey }] } }) := by
  show execMcmdRecordArrival k s = _
  simp only [execMcmdRecordArrival, ha, hm, hd, hr]
  exact congrArg _ (if_neg (Nat.not_le_of_lt hroom))

end

/-- Checks that all hold leave no reason to refuse. -/
theorem State.mcmdReason_none {s : State} {t : Tile} {gid fmt pln : Nat} {g : Gang} {cap : Word} {c : MxCmd} {clean : Bool} {fa : LFmt}
    (ht : t.gang = some gid) (hg : s.gang? gid = some g) (hwin : anyWin c.addr = some (fmt, pln)) (hfmt : mxFmt fmt pln = some fa)
    (hall : ∀ b ∈ s.mcmdChecks t g cap c clean fa, b = true) : s.mcmdReason t cap c clean = none := by
  have hnone : (s.mcmdChecks t g cap c clean fa).findIdx? (fun b => !b) = none :=
    List.findIdx?_eq_none_iff.2 fun b hb => by simp [hall b hb]
  rw [State.mcmdReason_eq ht hg hwin hfmt, hnone, Option.map_none]

/-! ## The ring credit (R163) -/

/-- A credit that no send of the running step awaits is held. -/
theorem exec_ringCreditArrival_held {s s1 : State} {p k : Nat} {f : Flight}
    (hk : s.net.findIdx? (fun f => some f.g == (s.tile p).gang && f.dst == (s.tile p).lidx && f.msg == .credit) = some k)
    (ha : s.arrival k = some (f, s1)) (hn : (s.tile p).mx.sending = false) :
    exec (.ringCreditArrival p) s = .next (s1.onTile p fun t => { t with mx := { t.mx with credit := true } }) := by
  show execRingCreditArrival p s = _
  simp only [execRingCreditArrival, hk, ha, hn]
  rfl

/-! ## The events of the matrix unit -/

/-- A command that starts has left its queue; the accumulators, the front half, the register files, the network and memory are as before. -/
theorem matrixCommandStarts {s : State} {p : Nat} {c : MxCmd} {r : List MxCmd} (hs : s.slotOn p = true) (hn : (s.tile p).mx.run = none)
    (hq : (s.tile p).mx.fifo = c :: r ∧ ((s.tile p).mx.remote = [] ∨ (s.tile p).mx.lastRemote = true) ∨
      (s.tile p).mx.remote = c :: r ∧ ((s.tile p).mx.fifo = [] ∨ (s.tile p).mx.lastRemote = false))
    (hrot : c.rot = true → ringLen c.mring = 1) :
    ∃ s' run, exec (.engineCommandStart p .matrix) s = .next s' ∧ (s'.tile p).mx.run = some run ∧ run.cmd = c ∧
      run.fault = (s.tile p).mxFaults c ∧ run.computed = false ∧ (s'.tile p).mx.acc = (s.tile p).mx.acc ∧
      (s'.tile p).mx.front = (s.tile p).mx.front ∧ (s'.tile p).regs = (s.tile p).regs ∧ s.OtherTiles s' p ∧ s'.net = s.net ∧ s'.mem = s.mem ∧
      (s'.tile p).mx.fifo.length + (s'.tile p).mx.remote.length + 1 = (s.tile p).mx.fifo.length + (s.tile p).mx.remote.length := by
  obtain ⟨m, hp, hacc, hfront, hlen⟩ : ∃ m, (s.tile p).mx.pick = some (c, m) ∧ m.acc = (s.tile p).mx.acc ∧ m.front = (s.tile p).mx.front ∧
      m.fifo.length + m.remote.length + 1 = (s.tile p).mx.fifo.length + (s.tile p).mx.remote.length := by
    rcases hq with ⟨hf, hr⟩ | ⟨hr, hf⟩
    · refine ⟨_, Matrix.pick_local hf hr, rfl, rfl, ?_⟩
      rw [hf, List.length_cons, Nat.add_right_comm]
    · refine ⟨_, Matrix.pick_remote hr hf, rfl, rfl, ?_⟩
      rw [hr, List.length_cons, Nat.add_assoc]
  refine ⟨_, c.started ((s.tile p).mxFaults c) s.tick, exec_engineCommandStart_of_pick hs hn hp hrot, ?_⟩
  rw [State.tile_setTile, Tile.mxStarted_mx, Tile.mxStarted_regs]
  exact ⟨rfl, rfl, rfl, rfl, hacc, hfront, rfl, s.otherTiles_setTile p _, rfl, rfl, hlen⟩

/-- A rotation step of a ring of several tiles that has a credit: the send begins with its start. -/
theorem matrixRotationStarts {s : State} {p g : Nat} {c : MxCmd} {r : List MxCmd} (hs : s.slotOn p = true) (hn : (s.tile p).mx.run = none)
    (hf : (s.tile p).mx.fifo = c :: r) (hr : (s.tile p).mx.remote = []) (hrot : c.rot = true) (hl : 1 < ringLen c.mring)
    (hc : (s.tile p).mx.credit = true) (hg : (s.tile p).gang = some g) :
    let t := s.tile p
    ∃ s', exec (.engineCommandStart p .matrix) s = .next s' ∧ (s'.tile p).mx.credit = false ∧
      s'.net = s.net ++ [⟨g, t.lidx, t.ringSucc c.mring, .ring t.mx.front (bitsOf c.mring 2 0), s.tick + (t.mx.front.bytes + 255) / 256 + 2,
        false, s.tick, t.pair.count + 1⟩] :=
  ⟨_, exec_engineCommandStart_rotation hs hn (Matrix.pick_local hf (.inl hr)) hrot hl hc hg,
    congrArg (·.mx.credit) (State.tile_setTile s p _), rfl⟩

/-- The half that arrives stands in the back half, whichever tile sent it; the front half and memory are as before. -/
theorem rotationSendFills {s s1 : State} {p k q logl : Nat} {f : Flight} {h : Half} (hk : s.ringItem (s.tile p) = some k)
    (ha : s.arrival k = some (f, s1)) (hm : f.msg = .ring h logl) (hl : logl = bitsOf (s.tile p).mx.ring 2 0) (hq : s1.flightTile f f.src = some q) :
    ∃ s', exec (.rotationSendArrival p) s = .next s' ∧ (s'.tile p).mx.back = h ∧ (s'.tile p).mx.backIn = true ∧ (s'.tile q).mx.sent = true ∧
      (s'.tile p).mx.front = (s.tile p).mx.front ∧ s'.net = s1.net ∧ s'.mem = s.mem := by
  refine ⟨_, exec_rotationSendArrival_fills hk ha hm hl hq, ?_⟩
  rw [← State.arrival_tile ha p, ← State.arrival_mem ha, State.tile_setTile]
  by_cases hp : q = p
  · subst hp
    simp [State.onTile]
  · rw [State.tile_setTile_ne _ _ (Ne.symm hp)]
    simp [State.onTile, State.tile_setTile_ne _ _ hp]

/-- The halves change places as a step ends, whatever the completion that follows it does. -/
theorem rotationSwapsHalves {s : State} {p : Nat} {r : MxRun} (hs : s.slotOn p = true) (hr : (s.tile p).mx.run = some r)
    (hrot : r.cmd.rot = true) (hc : r.computed = true) (hw : r.swapped = false)
    (hready : ringLen r.cmd.mring = 1 ∨ (s.tile p).mx.sent = true ∧ (s.tile p).mx.backIn = true) :
    let t := s.tile p
    ∃ s', exec (.rotationSwap p) s = .next s' ∧ (s'.tile p).mx.front = t.mx.back ∧ (s'.tile p).mx.back = t.mx.front ∧
      (s'.tile p).mx.fills = (t.mx.fills + 1) % 2 ^ 64 ∧ (s'.tile p).mx.backIn = false ∧ (s'.tile p).mx.acc = t.mx.acc ∧ s'.mem = s.mem := by
  refine ⟨_, exec_rotationSwap_of_ready hs hr hrot hc hw hready, ?_⟩
  generalize hs1 : (if 1 < ringLen r.cmd.mring then _ else s.setTile p ((s.tile p).mxSwapped r)) = s1
  have htile : s1.tile p = (s.tile p).mxSwapped r := by
    rw [← hs1]
    split <;> simp
  have hmem : s1.mem = s.mem := by
    rw [← hs1]
    split <;> simp
  obtain ⟨run, last, cf, owed, hmx⟩ := s1.mxFinish_mx p
  rw [hmx, htile, Tile.mxSwapped_mx, s1.mxFinish_mem, hmem]
  exact ⟨rfl, rfl, rfl, rfl, rfl, rfl⟩

/-- Settles O41: an event at an enabled slot or an arrival, each by the lemma that says what it does. -/
theorem matrixUnitEvents : Obligations.MatrixUnitEvents := by
  unfold Obligations.MatrixUnitEvents
  refine ⟨fun s p c r hs => ⟨matrixCommandStarts hs, fun g => matrixRotationStarts hs, exec_engineCommandStart_envelope s p⟩,
    fun s p c r => exec_engineCommandStart_scan, fun s p r hs hr hc hw hl => ⟨fun hnote => ?silent, fun hnote hroom => ?element⟩,
    fun s s1 p k q logl f h => rotationSendFills, fun s p r => rotationSwapsHalves,
    fun s s1 p k ent id fmt pln gid f cap c clean g fa ha hm hd ht hg hwin hfmt => ⟨fun n hn => ?refused, fun hall hfull => ?retried, fun hall => ?queued⟩,
    fun s s1 p k f => exec_ringCreditArrival_held⟩
  case silent =>
    obtain ⟨last, h⟩ := exec_matrixCommandComplete_local hs hr hc hw hl (by simp [Tile.mxRoom, hnote])
    exact ⟨last, h.trans (by rw [Tile.mxLocalDone_silent hnote]; rfl)⟩
  case element =>
    obtain ⟨last, h⟩ := exec_matrixCommandComplete_local hs hr hc hw hl (by simp [Tile.mxRoom, hnote, hroom])
    exact ⟨last, h.trans (by rw [Tile.mxLocalDone_element hnote]; rfl)⟩
  case refused =>
    have hr : s1.mcmdReason (s1.tile p) cap c clean = some (n + 1) := by
      rw [State.mcmdReason_eq ht hg hwin hfmt]
      exact congrArg (Option.map (· + 1)) hn
    rw [exec_mcmdRecordArrival_refused ha hm hd hr, State.send_of_gang ht, State.send_of_gang ht]
    simp
  case retried =>
    rw [exec_mcmdRecordArrival_retried ha hm hd (State.mcmdReason_none ht hg hwin hfmt hall) hfull, State.send_of_gang ht]
    rfl
  case queued => exact exec_mcmdRecordArrival_queued ha hm hd (State.mcmdReason_none ht hg hwin hfmt hall)

end Sys2Proof.Machine

/-! PROOFS of the statement about the reductions (O20). Layers: the pairwise tree of R78 in passes and by halves, a reduction as that
tree, one lemma per word, the statement. -/

namespace Sys2Proof.Machine

/-! ## The pairwise tree (R78) -/

theorem treePass_append (f : Nat → Nat → Nat × Fl) (r : List Nat) :
    (l : List Nat) → l.length % 2 = 0 →
      treePass f (l ++ r) = ((treePass f l).1 ++ (treePass f r).1, (treePass f l).2 ||| (treePass f r).2)
  | [], _ => by simp [treePass]
  | [_], h => by simp at h
  | a :: b :: l, h => by
    have hl : l.length % 2 = 0 := by
      rw [List.length_cons, List.length_cons] at h
      omega
    simp [treePass, treePass_append f r l hl, BitVec.or_assoc]

theorem treePass_length (f : Nat → Nat → Nat × Fl) : (l : List Nat) → (treePass f l).1.length = (l.length + 1) / 2
  | [] => by simp [treePass]
  | [_] => by simp [treePass]
  | a :: b :: l => by
    simp [treePass, treePass_length f l]
    omega

/-- A tree over one lane is that lane, whatever passes are left. -/
theorem tree_singleton (f : Nat → Nat → Nat × Fl) (a : Nat) : (k : Nat) → tree f k [a] = (a, 0)
  | 0 => rfl
  | _ + 1 => rfl

theorem tree_succ (f : Nat → Nat → Nat × Fl) (k : Nat) {l : List Nat} (h : l.length ≠ 1) :
    tree f (k + 1) l = ((tree f k (treePass f l).1).1, (treePass f l).2 ||| (tree f k (treePass f l).1).2) := by
  match l, h with
  | [], _ => rfl
  | _ :: _ :: _, _ => rfl

/-- Passes beyond the height of the tree change nothing. -/
theorem tree_spare_passes (f : Nat → Nat → Nat × Fl) (d : Nat) :
    (k : Nat) → (l : List Nat) → l.length = 2 ^ k → tree f (k + d) l = tree f k l
  | 0, l, h => by
    obtain ⟨a, rfl⟩ := List.length_eq_one_iff.1 h
    rw [tree_singleton, tree_singleton]
  | k + 1, l, h => by
    have hl : l.length ≠ 1 := by rw [h]; exact Nat.ne_of_gt (Nat.one_lt_two_pow k.succ_ne_zero)
    have hp : (treePass f l).1.length = 2 ^ k := by rw [treePass_length, h]; omega
    rw [Nat.add_right_comm, tree_succ f _ hl, tree_succ f _ hl, tree_spare_passes f d k _ hp]

/-- The tree over two halves is the operation over the trees of the halves, with the flags of all nodes. -/
theorem tree_append (f : Nat → Nat → Nat × Fl) :
    (k : Nat) → (l r : List Nat) → l.length = 2 ^ k → r.length = 2 ^ k →
      tree f (k + 1) (l ++ r) =
        ((f (tree f k l).1 (tree f k r).1).1, (tree f k l).2 ||| (tree f k r).2 ||| (f (tree f k l).1 (tree f k r).1).2)
  | 0, l, r, hl, hr => by
    obtain ⟨a, rfl⟩ := List.length_eq_one_iff.1 hl
    obtain ⟨b, rfl⟩ := List.length_eq_one_iff.1 hr
    simp [tree, treePass]
  | k + 1, l, r, hl, hr => by
    have h1 : 1 < 2 ^ (k + 1) := Nat.one_lt_two_pow k.succ_ne_zero
    have heven : l.length % 2 = 0 := by rw [hl]; omega
    have hlp : (treePass f l).1.length = 2 ^ k := by rw [treePass_length, hl]; omega
    have hrp : (treePass f r).1.length = 2 ^ k := by rw [treePass_length, hr]; omega
    rw [tree_succ f _ (l := l ++ r) (by rw [List.length_append]; omega), treePass_append f r l heven, tree_append f k _ _ hlp hrp,
      tree_succ f k (l := l) (by omega), tree_succ f k (l := r) (by omega)]
    dsimp only
    congr 1
    ac_rfl

/-- Node i of level k is the tree over the 2^k leaves below it. -/
theorem tree_eq_pairTree (f : Nat → Nat → Nat × Fl) (leaf : Nat → Nat) :
    (k i : Nat) → tree f k ((List.range' (2 ^ k * i) (2 ^ k)).map leaf) = pairTree f leaf k i
  | 0, i => by simp [tree, pairTree]
  | k + 1, i => by
    have hsplit : List.range' (2 ^ (k + 1) * i) (2 ^ (k + 1)) =
        List.range' (2 ^ k * (2 * i)) (2 ^ k) ++ List.range' (2 ^ k * (2 * i + 1)) (2 ^ k) := by
      have hright : 2 ^ k * (2 * i + 1) = 2 ^ k * (2 * i) + 1 * 2 ^ k := by rw [Nat.mul_add, Nat.mul_one, Nat.one_mul]
      have hstart : 2 ^ (k + 1) * i = 2 ^ k * (2 * i) := by rw [Nat.pow_succ, Nat.mul_assoc]
      rw [hright, List.range'_append, hstart, Nat.two_pow_succ]
    rw [hsplit, List.map_append, tree_append f k _ _ (by simp) (by simp), tree_eq_pairTree f leaf k, tree_eq_pairTree f leaf k]
    rfl

/-! ## Reductions (R281) -/

theorem laneGet_eq_lane (ty : LTy) (v : Vec) (i : Nat) : laneGet (laneBits ty) v i = (lane ty v i).toNat := by
  simp [laneGet, lane, BitVec.extractLsb'_toNat, Nat.shiftRight_eq_div_pow]

/-- The lanes of a register are a power of two, with a tree of at most six passes. -/
theorem lanesOf_eq_two_pow (ty : LTy) : lanesOf ty = 2 ^ Nat.log2 (lanesOf ty) ∧ Nat.log2 (lanesOf ty) ≤ 6 := by
  cases ty <;> decide

/-- A reduction word whose meaning is `Tile.vred` reduces over the pairwise tree. -/
theorem State.reduces_vred {s : State} {out : Out} {ty : LTy} {vm : MReg} {vd vs1 : VReg} {ident : Nat} {f : Nat → Nat → Nat × Fl}
    (h : out = .next (s.setT (s.t.vred ty vm vd vs1 ident f))) : s.Reduces out ty vm vd vs1 ident f := by
  obtain ⟨hn, hk⟩ := lanesOf_eq_two_pow ty
  obtain ⟨d, hd⟩ := Nat.exists_eq_add_of_le hk
  have htree := fun leaf : Nat → Nat => tree_eq_pairTree f leaf (Nat.log2 (lanesOf ty)) 0
  simp only [Nat.mul_zero, ← hn, ← List.range_eq_range'] at htree
  unfold State.Reduces
  rw [h]
  unfold Tile.vred
  simp only [laneOn, laneGet_eq_lane]
  rw [hd, tree_spare_passes f d _ _ (by simp [← hn]), htree]
  rfl

/-- An operation on lanes as words, on their codes and without flags. -/
def wordOp (ty : LTy) (g : BitVec (laneBits ty) → BitVec (laneBits ty) → BitVec (laneBits ty)) (a b : Nat) : Nat × Fl :=
  ((g (BitVec.ofNat _ a) (BitVec.ofNat _ b)).toNat, 0)

/-- An integer lane operation is the operation on words that it agrees with (R57). -/
theorem laneInt_eq_wordOp {ty : LTy} {f : Int → Int → Int} {g : BitVec (laneBits ty) → BitVec (laneBits ty) → BitVec (laneBits ty)}
    (h : ∀ x y : BitVec (laneBits ty), BitVec.ofInt _ (f x.toInt y.toInt) = g x y) : laneInt ty f = wordOp ty g := by
  funext a b
  exact congrArg (fun v => ((v.toNat, 0) : Nat × Fl)) (h (BitVec.ofNat _ a) (BitVec.ofNat _ b))

theorem laneInt_add (ty : LTy) : laneInt ty (· + ·) = wordOp ty (· + ·) :=
  laneInt_eq_wordOp fun x y => by rw [BitVec.ofInt_add, BitVec.ofInt_toInt, BitVec.ofInt_toInt]
theorem laneInt_max (ty : LTy) : laneInt ty (fun a b => if a < b then b else a) = wordOp ty fun x y => if x.toInt < y.toInt then y else x :=
  laneInt_eq_wordOp fun x y => by rw [apply_ite (BitVec.ofInt _), BitVec.ofInt_toInt, BitVec.ofInt_toInt]
theorem laneInt_min (ty : LTy) : laneInt ty (fun a b => if a < b then a else b) = wordOp ty fun x y => if x.toInt < y.toInt then x else y :=
  laneInt_eq_wordOp fun x y => by rw [apply_ite (BitVec.ofInt _), BitVec.ofInt_toInt, BitVec.ofInt_toInt]

theorem laneBits_pos (ty : LTy) : 0 < laneBits ty := by cases ty <;> decide

section
variable {s : State} {ty : LTy} {vm : MReg} {vd vs1 : VReg}

theorem exec_vredsum_int (h : ty.isInt = true) :
    exec (.vredsum ty vm vd vs1) s = .next (s.setT (s.t.vred ty vm vd vs1 0 (wordOp ty (· + ·)))) := by
  show execVredsum ty vm vd vs1 s = _
  rw [execVredsum, if_pos h, laneInt_add]
theorem exec_vredmax_int (h : ty.isInt = true) : exec (.vredmax ty vm vd vs1) s = .next (s.setT
    (s.t.vred ty vm vd vs1 (BitVec.intMin (laneBits ty)).toNat (wordOp ty fun x y => if x.toInt < y.toInt then y else x))) := by
  show execVredmax ty vm vd vs1 s = _
  rw [execVredmax, if_pos h, laneInt_max, BitVec.toNat_intMin_of_pos (laneBits_pos ty)]
theorem exec_vredmin_int (h : ty.isInt = true) : exec (.vredmin ty vm vd vs1) s = .next (s.setT
    (s.t.vred ty vm vd vs1 (BitVec.intMax (laneBits ty)).toNat (wordOp ty fun x y => if x.toInt < y.toInt then x else y))) := by
  show execVredmin ty vm vd vs1 s = _
  rw [execVredmin, if_pos h, laneInt_min, BitVec.toNat_intMax]

theorem exec_vredsum_flt (h : ty.isInt = false) :
    exec (.vredsum ty vm vd vs1) s = .next (s.setT (s.t.vred ty vm vd vs1 ((ffOf ty).signed true 0) (fAdd (ffOf ty)))) := by
  show execVredsum ty vm vd vs1 s = _
  rw [execVredsum, if_neg (by simp [h])]
theorem exec_vredmax_flt (h : ty.isInt = false) : exec (.vredmax ty vm vd vs1) s =
    .next (s.setT (s.t.vred ty vm vd vs1 ((ffOf ty).signed true (ffOf ty).inf) (fMinMax (ffOf ty) true))) := by
  show execVredmax ty vm vd vs1 s = _
  rw [execVredmax, if_neg (by simp [h]), FFmt.infS]
theorem exec_vredmin_flt (h : ty.isInt = false) : exec (.vredmin ty vm vd vs1) s =
    .next (s.setT (s.t.vred ty vm vd vs1 ((ffOf ty).signed false (ffOf ty).inf) (fMinMax (ffOf ty) false))) := by
  show execVredmin ty vm vd vs1 s = _
  rw [execVredmin, if_neg (by simp [h]), FFmt.infS]

end

/-- Settles O20: each word is a reduction of its operation from the operation's identity, and a reduction is the pairwise tree. -/
theorem vectorReduce : Obligations.VectorReduce := by
  unfold Obligations.VectorReduce
  intro s ty vm vd vs1
  refine ⟨fun h => ⟨?_, ?_, ?_⟩, fun h => ⟨?_, ?_, ?_⟩⟩
  · exact State.reduces_vred (exec_vredsum_int h)
  · exact State.reduces_vred (exec_vredmax_int h)
  · exact State.reduces_vred (exec_vredmin_int h)
  · exact State.reduces_vred (exec_vredsum_flt h)
  · exact State.reduces_vred (exec_vredmax_flt h)
  · exact State.reduces_vred (exec_vredmin_flt h)

end Sys2Proof.Machine

/-! PROOFS of the statement about the matrix commands (O42). Layers: a field of one bit, the words of an accumulator, what an accumulator write
leaves, the words of a pass, a command that computes and completes, one lemma per command, the statement. -/

namespace Sys2Proof.Machine

/-! ## One field of one bit -/

/-- A word with bit n replaced, as its high part, the bit and its low part. -/
theorem setField_bit_eq (w : Word) (n v : Nat) :
    setField w n n v = BitVec.ofNat 64 (2 ^ n * (2 * (w.toNat / 2 ^ n / 2) + v % 2) + w.toNat % 2 ^ n) := by
  have hhigh : w.toNat = 2 ^ n * (w.toNat / 2 ^ n) + w.toNat % 2 ^ n := (Nat.div_add_mod _ _).symm
  have hbit : 2 ^ n * (w.toNat / 2 ^ n) = 2 ^ n * (2 * (w.toNat / 2 ^ n / 2)) + w.toNat / 2 ^ n % 2 * 2 ^ n := by
    rw [Nat.mul_comm (w.toNat / 2 ^ n % 2), ← Nat.mul_add, Nat.div_add_mod]
  have hnew : w.toNat - w.toNat / 2 ^ n % 2 * 2 ^ n + v % 2 * 2 ^ n =
      2 ^ n * (2 * (w.toNat / 2 ^ n / 2) + v % 2) + w.toNat % 2 ^ n := by
    rw [Nat.mul_add, Nat.mul_comm (2 ^ n) (v % 2)]
    omega
  rw [← hnew]
  simp only [setField, Nat.add_sub_cancel_left, Nat.pow_one]

/-- Setting a field of one bit sets that bit and leaves the others. -/
theorem getLsbD_setField_bit (w : Word) (n v : Nat) {i : Nat} (hi : i < 64) :
    (setField w n n v).getLsbD i = if i = n then decide (v % 2 = 1) else w.getLsbD i := by
  have hlow : w.toNat % 2 ^ n < 2 ^ n := Nat.mod_lt _ (Nat.two_pow_pos n)
  have hold : w.getLsbD i = (2 ^ n * (w.toNat / 2 ^ n) + w.toNat % 2 ^ n).testBit i := by rw [Nat.div_add_mod, BitVec.getLsbD]
  rw [setField_bit_eq, BitVec.getLsbD_ofNat, decide_eq_true hi, Bool.true_and, hold, Nat.testBit_two_pow_mul_add _ hlow,
    Nat.testBit_two_pow_mul_add _ hlow]
  by_cases hin : i < n
  · rw [if_pos hin, if_pos hin, if_neg (by omega)]
  · obtain ⟨d, rfl⟩ := Nat.exists_eq_add_of_le (Nat.le_of_not_lt hin)
    rw [if_neg hin, if_neg hin, Nat.add_sub_cancel_left]
    cases d with
    | zero => simp [Nat.testBit_zero, Nat.add_mod]
    | succ d =>
      have hdiv : (2 * (w.toNat / 2 ^ n / 2) + v % 2) / 2 = w.toNat / 2 ^ n / 2 := by omega
      rw [if_neg (by omega), Nat.testBit_succ, Nat.testBit_succ, hdiv]

/-- Putting a mode bit changes the mode of its accumulator alone (R50). -/
theorem getLsbD_modePut (m : BitVec 8) (acc a : AccReg) (int64 : Bool) :
    (modePut m acc int64).getLsbD a.toNat = if a = acc then int64 else m.getLsbD a.toNat := by
  have ha : a.toNat < 8 := a.isLt
  unfold modePut
  rw [BitVec.getLsbD_setWidth, getLsbD_setField_bit _ _ _ (by omega), BitVec.getLsbD_setWidth]
  by_cases h : a = acc
  · subst h
    cases int64 <;> simp [ha]
  · simp [h, BitVec.toNat_inj, ha]
    omega

/-! ## Accumulator words (R50, R158) -/

theorem smDel_cons {α : Type} (k : Nat) (e : Nat × α) (m : SMap α) : smDel k (e :: m) = if e.1 = k then smDel k m else e :: smDel k m := by
  by_cases h : e.1 = k <;> simp [smDel, h]

theorem smGet_smDel {α : Type} (d : α) (k j : Nat) (m : SMap α) : smGet d j (smDel k m) = if k = j then d else smGet d j m := by
  induction m with
  | nil => simp [smDel, smGet]
  | cons e m ih =>
    rw [smDel_cons]
    by_cases he : e.1 = k
    · -- the entry dropped is one that only k reads
      rw [if_pos he, ih]
      by_cases hj : k = j
      · rw [if_pos hj, if_pos hj]
      · rw [if_neg hj, if_neg hj, smGet, if_neg (he ▸ hj)]
    · rw [if_neg he, smGet, smGet, ih]
      by_cases hj : e.1 = j
      · rw [if_pos hj, if_pos hj, if_neg (fun h => he (hj.trans h.symm))]
      · rw [if_neg hj, if_neg hj]

/-- Reading a map of words after a key is set. -/
theorem smGet_wordPut (k j : Nat) (v : Word) (m : SMap Word) : smGet 0 j (wordPut k v m) = if k = j then v else smGet 0 j m := by
  unfold wordPut
  by_cases hv : v = 0
  · rw [if_pos hv, smGet_smDel, hv]
  · rw [if_neg hv]
    by_cases hk : k = j
    · rw [if_pos hk, hk, smGet_smPut_same]
    · rw [if_neg hk, smGet_smPut_ne _ _ hk]

theorem accKey_inj {a b i j i' j' : Nat} (hi : i < 32) (hj : j < 32) (hi' : i' < 32) (hj' : j' < 32) :
    accKey a i j = accKey b i' j' ↔ a = b ∧ i = i' ∧ j = j' := by
  unfold accKey
  omega

theorem mem_cells {m n i j : Nat} : (i, j) ∈ cells m n ↔ i < m ∧ j < n := by
  simp [cells]

/-- Words put at some cells: each of these reads as put, every other key as before. -/
theorem smGet_wordPuts (acc : Nat) (g : Nat × Nat → Word) {key : Nat} {v : Word} : (cs : List (Nat × Nat)) → (m : SMap Word) →
    (∀ e ∈ cs, accKey acc e.1 e.2 = key → g e = v) →
    smGet 0 key ((cs.map fun e => (e.1, e.2, g e)).foldl (fun m w => wordPut (accKey acc w.1 w.2.1) w.2.2 m) m) =
      if ∃ e ∈ cs, accKey acc e.1 e.2 = key then v else smGet 0 key m
  | [], m, _ => by simp
  | c :: cs, m, h => by
    rw [List.map_cons, List.foldl_cons, smGet_wordPuts acc g cs _ fun e he => h e (List.mem_cons_of_mem _ he), smGet_wordPut]
    simp only [List.mem_cons, or_and_right, exists_or, exists_eq_left]
    by_cases hcs : ∃ e ∈ cs, accKey acc e.1 e.2 = key
    · rw [if_pos hcs, if_pos (.inr hcs)]
    · by_cases hc : accKey acc c.1 c.2 = key
      · rw [if_neg hcs, if_pos hc, if_pos (.inl hc), h c List.mem_cons_self hc]
      · rw [if_neg hcs, if_neg hc, if_neg (by simp [hc, hcs])]

/-! ## What an accumulator write leaves (R395) -/

@[simp] theorem Tile.raise_spad (t : Tile) (bit : Nat) (v : Word) : (t.raise bit v).spad = t.spad := by
  unfold Tile.raise
  split <;> rfl
@[simp] theorem Tile.error_spad (t : Tile) (why : Nat) : (t.error why).spad = t.spad := by
  simp [Tile.error]
@[simp] theorem Tile.claim_spad (t : Tile) (cost : Nat) : (t.claim cost).spad = t.spad := by
  unfold Tile.claim
  split
  · rfl
  · split <;> simp
@[simp] theorem Tile.logAcc_spad (t : Tile) (row : Nat) : (t.logAcc row).spad = t.spad := by
  unfold Tile.logAcc
  split <;> simp
@[simp] theorem Tile.logAcc_mx (t : Tile) (row : Nat) : (t.logAcc row).mx = t.mx := by
  unfold Tile.logAcc
  split <;> simp

/-- The rows of an accumulator that a write logs first. -/
def Tile.logAccRows (t : Tile) (acc : Nat) (rows : List Nat) : Tile := rows.foldl (fun t i => t.logAcc (acc * 32 + i)) t

@[simp] theorem Tile.logAccRows_spad (t : Tile) (acc : Nat) (rows : List Nat) : (t.logAccRows acc rows).spad = t.spad := by
  unfold Tile.logAccRows
  induction rows generalizing t with
  | nil => rfl
  | cons i rows ih => simp [ih]
@[simp] theorem Tile.logAccRows_mx (t : Tile) (acc : Nat) (rows : List Nat) : (t.logAccRows acc rows).mx = t.mx := by
  unfold Tile.logAccRows
  induction rows generalizing t with
  | nil => rfl
  | cons i rows ih => simp [ih]

theorem Tile.accPut_eq (t : Tile) (acc : Nat) (ws : List (Nat × Nat × Word)) :
    t.accPut acc ws = { t.logAccRows acc (ws.map (·.1)).eraseDups with mx := { t.mx with
      acc := ws.foldl (fun m w => wordPut (accKey acc w.1 w.2.1) w.2.2 m) t.mx.acc } } := by
  rw [← Tile.logAccRows_mx t acc (ws.map (·.1)).eraseDups]
  rfl
@[simp] theorem Tile.accPut_spad (t : Tile) (acc : Nat) (ws : List (Nat × Nat × Word)) : (t.accPut acc ws).spad = t.spad := by
  rw [Tile.accPut_eq]
  exact t.logAccRows_spad _ _
@[simp] theorem Tile.accPut_mx (t : Tile) (acc : Nat) (ws : List (Nat × Nat × Word)) : (t.accPut acc ws).mx = { t.mx with
    acc := ws.foldl (fun m w => wordPut (accKey acc w.1 w.2.1) w.2.2 m) t.mx.acc } := by
  rw [Tile.accPut_eq]

/-- The words of a rectangle from (0, 0), each from its row and column. -/
def cellWords (m n : Nat) (g : Nat → Nat → Word) : List (Nat × Nat × Word) := (cells m n).map fun e => (e.1, e.2, g e.1 e.2)

/-- A unit with the words of t after a write of a rectangle of an accumulator: the write is read in the rectangle; other words and other
accumulators read as before. -/
theorem Matrix.word_of_cellWords {x : Matrix} {t : Tile} {acc m n i j : Nat} {g : Nat → Nat → Word}
    (h : x.acc = (t.accPut acc (cellWords m n g)).mx.acc) (hm : m ≤ 32) (hn : n ≤ 32) (a : Nat) (hi : i < 32) (hj : j < 32) :
    x.word a i j = if a = acc ∧ i < m ∧ j < n then g i j else t.mx.word a i j := by
  have hkey : ∀ e ∈ cells m n, accKey acc e.1 e.2 = accKey a i j ↔ acc = a ∧ e.1 = i ∧ e.2 = j := fun e he => by
    obtain ⟨he1, he2⟩ := mem_cells.1 he
    exact accKey_inj (by omega) (by omega) hi hj
  have hex : (∃ e ∈ cells m n, accKey acc e.1 e.2 = accKey a i j) ↔ a = acc ∧ i < m ∧ j < n := by
    constructor
    · rintro ⟨e, he, h⟩
      obtain ⟨rfl, rfl, rfl⟩ := (hkey e he).1 h
      exact ⟨rfl, mem_cells.1 he⟩
    · rintro ⟨rfl, hij⟩
      exact ⟨(i, j), mem_cells.2 hij, rfl⟩
  rw [Matrix.word, h, Tile.accPut_mx]
  unfold cellWords
  refine (smGet_wordPuts acc (fun e => g e.1 e.2) (v := g i j) (cells m n) t.mx.acc fun e he h => ?_).trans (by simp only [hex]; rfl)
  obtain ⟨-, rfl, rfl⟩ := (hkey e he).1 h
  rfl

/-! ## A pass (R159, R75, R76) -/

/-- In INT64 mode a word takes the exact sum modulo 2^64 (R76). -/
theorem ofNat_intWord (fa fb : LFmt) (c : Word) (as bs : List Nat) :
    BitVec.ofNat 64 (intWord fa fb c as bs).1 = c + BitVec.ofInt 64 ((as.zip bs).map fun e => fa.int e.1 * fb.int e.2).sum := by
  have hsum : ∀ (l : List (Nat × Nat)) (v : Int), l.foldl (fun v e => v + fa.int e.1 * fb.int e.2) v = v + (l.map fun e => fa.int e.1 * fb.int e.2).sum := by
    intro l
    induction l with
    | nil => simp
    | cons e l ih =>
      intro v
      rw [List.foldl_cons, ih, List.map_cons, List.sum_cons, Int.add_assoc]
  unfold intWord codeOf
  rw [hsum, BitVec.ofNat_toNat, BitVec.setWidth_eq, BitVec.ofInt_add, BitVec.ofInt_toInt]

/-- Word (i, j) of a pass with its flags: from the word it had, or 0, over the row of A and the column of the front half. -/
def Tile.passWord (t : Tile) (c : MxCmd) (bad : List Nat) (off fmt span pln : Nat) (fa fb : LFmt) (i j : Nat) : Nat × Fl :=
  let as := t.rowA c bad off fmt span pln i
  let bs := (List.range (shK c.word)).map fun q => (smGet 0 (q * 32 + j) t.mx.front.elems).toNat
  let c0 := if shZero c.word then 0 else t.mx.word c.acc.toNat i j
  if t.mx.int c.acc then intWord fa fb c0 as bs
  else floatWord fa fb (fun b => if shSc c.word then some (t.mx.scale i j b) else none) (if shSc c.word then 32 else fa.kstep) c0 as bs

/-- A pass writes M x N words of its accumulator, and notes the operand elements that failed. -/
theorem Tile.pass'_eq {t : Tile} {c : MxCmd} {off fmt span pln : Nat} {fa fb : LFmt} (bad : List Nat) (ha : selfParts c.addr = some (off, fmt, span, pln))
    (hfa : mxFmt fmt pln = some fa) (hfb : t.mx.front.fmt = some fb) (hm : 0 < shM c.word) (hn : 0 < shN c.word) (hk : 0 < shK c.word) :
    ∃ es fl, t.pass' c bad = ((t.accPut c.acc.toNat (cellWords (shM c.word) (shN c.word) fun i j =>
      BitVec.ofNat 64 (t.passWord c bad off fmt span pln fa fb i j).1)).noteErrs es, fl) := by
  unfold Tile.pass'
  simp only [ha, hfb, hfa, if_neg (show ¬ (shM c.word = 0 ∨ shN c.word = 0) by omega), if_neg (Nat.ne_of_gt hk)]
  refine ⟨_, _, congrArg (·, _) (congrArg (fun ws => (t.accPut _ ws).noteErrs _) ?_)⟩
  simp only [cellWords, cells, List.map_flatMap, List.map_map]
  rfl

theorem Tile.noteErrs_of_running {t : Tile} {r : MxRun} (es : List (Nat × Nat × Nat)) (h : t.mx.run = some r) :
    t.noteErrs es = { t with mx := { t.mx with run := some { r with merr := r.merr || !es.isEmpty, errs := r.errs ++ es } } } := by
  simp [Tile.noteErrs, h]

/-! ## A command that has not computed computes and completes (R54, R169) -/

/-- The error log is the dies': what a command finds poisoned changes nothing else. -/
theorem State.logFound_eq (s : State) (p : Nat) : ∃ dies, s.logFound p = { s with dies := dies } := by
  have hfold : ∀ (l : List Nat) (s : State), ∃ dies,
      l.foldl (fun s a => s.logTile 4 p .scratchpad (BitVec.ofNat 64 a)) s = { s with dies := dies } := by
    intro l
    induction l with
    | nil => exact fun s => ⟨s.dies, rfl⟩
    | cons a l ih => exact fun s => ih (s.logTile 4 p .scratchpad (BitVec.ofNat 64 a))
  unfold State.logFound
  split
  · exact ⟨s.dies, rfl⟩
  · exact hfold _ s

/-- What the running command r computes on tile t, with its flags. -/
def Tile.mxRunEffect (t : Tile) (r : MxRun) : Tile × Fl := t.mxEffect r.cmd (t.badOperands r)

/-- The tile whose running command r has computed; q is the command with the errors it has noted. -/
def Tile.mxComputed (t : Tile) (r q : MxRun) : Tile :=
  let u := (t.mxRunEffect r).1
  { u with mx := { u.mx with run := some { q with computed := true, flags := (t.mxRunEffect r).2, out := [] } } }

/-- A command without a fault computes whole; MRDACC apart, none of its result is left to write. -/
theorem Tile.mxCompute_of_running {t : Tile} {r q : MxRun} (seed : Nat) (hr : t.mx.run = some r) (hc : r.computed = false) (hf : r.fault = false)
    (hop : r.cmd.op ≠ .mrdacc) (hq : (t.mxRunEffect r).1.mx.run = some q) : t.mxCompute seed = t.mxComputed r q := by
  have hop' : (r.cmd.op == .mrdacc) = false := by simpa using hop
  unfold Tile.mxComputed
  unfold Tile.mxRunEffect at hq ⊢
  simp [Tile.mxCompute, hr, hc, hf, hop', hq]

/-- A command with nothing left to write, before it computes and after, goes to its completion. -/
theorem exec_matrixCommandComplete_of_whole {s : State} {p : Nat} {u : Tile} (hs : s.slotOn p = true) (hw : (s.tile p).mxWriting = false)
    (hu : (s.tile p).mxCompute s.steps = u) (hw' : u.mxWriting = false) :
    ∃ dies, exec (.matrixCommandComplete p) s = .next ((({ s with dies := dies } : State).setTile p u).mxFinish p) := by
  obtain ⟨dies, hlog⟩ := s.logFound_eq p
  refine ⟨dies, ?_⟩
  have hon : (s.logFound p).onTile p (fun t => t.mxCompute s.steps) = ({ s with dies := dies } : State).setTile p u := by
    rw [hlog, ← hu]
    rfl
  show execMatrixCommandComplete p s = _
  simp only [execMatrixCommandComplete, hs, hw, hon, State.tile_setTile, hw']
  rfl

/-- A local command that has not computed, without a fault, a rotation or a notice: the unit holds what it computes and is free, and nothing
else of the package changes but its tile and the error logs. -/
theorem exec_matrixCommandComplete_computes {s : State} {p : Nat} {r q : MxRun} (hs : s.slotOn p = true) (hr : (s.tile p).mx.run = some r)
    (hc : r.computed = false) (ho : r.out = []) (hf : r.fault = false) (hl : r.cmd.sender = none) (hop : r.cmd.op ≠ .mrdacc)
    (hrot : r.cmd.rot = false) (hn : r.cmd.notify = 0) (hq : ((s.tile p).mxRunEffect r).1.mx.run = some q) (hcmd : q.cmd = r.cmd) :
    let u := ((s.tile p).mxRunEffect r).1
    ∃ s' last, exec (.matrixCommandComplete p) s = .next s' ∧ (s'.tile p).mx = { u.mx with run := none, lastRemote := last } ∧
      (s'.tile p).spad = u.spad ∧ s.OtherTiles s' p ∧ s'.mem = s.mem ∧ s'.net = s.net := by
  intro u
  obtain ⟨dies, hgo⟩ := exec_matrixCommandComplete_of_whole hs (by simp [Tile.mxWriting, hr, ho])
    (Tile.mxCompute_of_running s.steps hr hc hf hop hq) rfl
  obtain ⟨last, hfin⟩ := State.mxFinish_local (s := ({ s with dies := dies } : State).setTile p ((s.tile p).mxComputed r q)) (p := p)
    (r := { q with computed := true, flags := ((s.tile p).mxRunEffect r).2, out := [] })
    (by rw [State.tile_setTile]; rfl) rfl (by simp [hcmd, hrot]) (by rw [hcmd, hl]) (by simp [Tile.mxRoom, hcmd, hn])
  rw [hgo, hfin, Tile.mxLocalDone_silent (by rw [hcmd, hn]), State.setTile_setTile, State.tile_setTile]
  refine ⟨_, last, rfl, ?_, ?_, fun p' hp => State.tile_setTile_ne _ _ hp.symm, rfl, rfl⟩
  · rw [State.tile_setTile]
    rfl
  · rw [State.tile_setTile]
    rfl

/-! ## The commands (R158 to R165) -/

section
variable {t : Tile} {r : MxRun}

theorem Tile.mxRunEffect_mzero (h : r.cmd.op = .mzero) :
    let u := (t.mxRunEffect r).1
    u.mx.acc = (t.accPut r.cmd.acc.toNat (cellWords 32 32 fun _ _ => 0)).mx.acc ∧ u.mx.modes = modePut t.mx.modes r.cmd.acc r.cmd.int64 ∧
      u.mx.run = t.mx.run ∧ u.spad = t.spad := by
  simp [Tile.mxRunEffect, Tile.mxEffect, h, cellWords]

theorem Tile.mxRunEffect_mscale (hr : t.mx.run = some r) (h : r.cmd.op = .mscale) : ∃ merr errs,
    (t.mxRunEffect r).1.mx = { t.mx with
      scales := r.cmd.scales, nb := bitsOf r.cmd.word 5 0, run := some { r with merr := merr, errs := errs } } := by
  simp only [Tile.mxRunEffect, Tile.mxEffect, h]
  rw [Tile.noteErrs_of_running (r := r) _ (by simpa using hr)]
  exact ⟨_, _, by rw [Tile.logLatch_mx]⟩

theorem Tile.mxRunEffect_mcfg (h : r.cmd.op = .mcfg) :
    (t.mxRunEffect r).1.mx = { t.mx with
      ring := r.cmd.word, front := .empty, back := .empty, backIn := false, sending := false, sent := false, credit := true, fills := 0 } := by
  simp [Tile.mxRunEffect, Tile.mxEffect, h]

theorem Tile.mxRunEffect_mma {off fmt span pln : Nat} {fa fb : LFmt} (hr : t.mx.run = some r) (h : r.cmd.op = .mma)
    (ha : selfParts r.cmd.addr = some (off, fmt, span, pln)) (hfa : mxFmt fmt pln = some fa) (hfb : t.mx.front.fmt = some fb)
    (hm : 0 < shM r.cmd.word) (hn : 0 < shN r.cmd.word) (hk : 0 < shK r.cmd.word) :
    let u := (t.mxRunEffect r).1
    u.mx.acc = (t.accPut r.cmd.acc.toNat (cellWords (shM r.cmd.word) (shN r.cmd.word) fun i j =>
        BitVec.ofNat 64 (t.passWord r.cmd (t.badOperands r) off fmt span pln fa fb i j).1)).mx.acc ∧
      (∃ merr errs, u.mx.run = some { r with merr := merr, errs := errs }) ∧ u.mx.front = t.mx.front ∧ u.spad = t.spad := by
  obtain ⟨es, fl, hpass⟩ := Tile.pass'_eq (t.badOperands r) ha hfa hfb hm hn hk
  have heff : t.mxRunEffect r = t.pass' r.cmd (t.badOperands r) := by simp [Tile.mxRunEffect, Tile.mxEffect, h]
  rw [heff, hpass, Tile.noteErrs_of_running (r := r) _ (by simpa using hr)]
  exact ⟨rfl, ⟨_, _, rfl⟩, by simp, Tile.accPut_spad _ _ _⟩

end

/-- MZERO, MSCALE and MCFG end without a rotation step. -/
theorem MxCmd.rot_of_op {c : MxCmd} (h : c.op = .mzero ∨ c.op = .mscale ∨ c.op = .mcfg) : c.rot = false := by
  rcases h with h | h | h <;> simp [MxCmd.rot, h]

section
variable {s : State} {p : Nat} {r : MxRun} (hs : s.slotOn p = true) (hr : (s.tile p).mx.run = some r) (hc : r.computed = false) (ho : r.out = [])
  (hf : r.fault = false) (hl : r.cmd.sender = none)
include hs hr hc ho hf hl

theorem mzeroClears (hop : r.cmd.op = .mzero) :
    ∃ s', exec (.matrixCommandComplete p) s = .next s' ∧ (s'.tile p).mx.run = none ∧
      (∀ a i j, a < 8 → i < 32 → j < 32 → (s'.tile p).mx.word a i j = if a = r.cmd.acc.toNat then 0 else (s.tile p).mx.word a i j) ∧
      (∀ a : AccReg, (s'.tile p).mx.int a = if a = r.cmd.acc then r.cmd.int64 else (s.tile p).mx.int a) ∧
      (s'.tile p).spad = (s.tile p).spad ∧ s.OtherTiles s' p ∧ s'.mem = s.mem ∧ s'.net = s.net := by
  obtain ⟨hacc, hmodes, hrun, hspad⟩ := Tile.mxRunEffect_mzero (t := s.tile p) hop
  obtain ⟨s', last, hgo, hmx, hspad', hrest⟩ := exec_matrixCommandComplete_computes (q := r) hs hr hc ho hf hl (by simp [hop])
    (MxCmd.rot_of_op (.inl hop)) (by simp [MxCmd.notify, hop]) (hrun.trans hr) rfl
  refine ⟨s', hgo, by rw [hmx], fun a i j _ hi hj => ?_, fun a => ?_, hspad'.trans hspad, hrest⟩
  · exact (Matrix.word_of_cellWords (by rw [hmx, ← hacc]) (Nat.le_refl 32) (Nat.le_refl 32) a hi hj).trans (by simp [hi, hj])
  · rw [Matrix.int, hmx, hmodes, getLsbD_modePut]
    rfl

theorem mscaleTakesScales (hop : r.cmd.op = .mscale) (hn : r.cmd.notify = 0) :
    ∃ s', exec (.matrixCommandComplete p) s = .next s' ∧ (s'.tile p).mx.run = none ∧ (s'.tile p).mx.scales = r.cmd.scales ∧
      (s'.tile p).mx.nb = bitsOf r.cmd.word 5 0 ∧ (s'.tile p).mx.acc = (s.tile p).mx.acc := by
  obtain ⟨merr, errs, hmx⟩ := Tile.mxRunEffect_mscale hr hop
  obtain ⟨s', last, hgo, hmx', -⟩ := exec_matrixCommandComplete_computes (q := { r with merr := merr, errs := errs }) hs hr hc ho hf hl
    (by simp [hop]) (MxCmd.rot_of_op (.inr (.inl hop))) hn (by rw [hmx]) rfl
  refine ⟨s', hgo, ?_⟩
  rw [hmx', hmx]
  exact ⟨rfl, rfl, rfl, rfl⟩

theorem mcfgEmptiesHalves (hop : r.cmd.op = .mcfg) :
    ∃ s', exec (.matrixCommandComplete p) s = .next s' ∧ (s'.tile p).mx.run = none ∧ (s'.tile p).mx.ring = r.cmd.word ∧
      (s'.tile p).mx.front = .empty ∧ (s'.tile p).mx.back = .empty ∧ (s'.tile p).mx.fills = 0 ∧ (s'.tile p).mx.credit = true ∧
      (s'.tile p).mx.acc = (s.tile p).mx.acc := by
  have hmx := Tile.mxRunEffect_mcfg (t := s.tile p) hop
  obtain ⟨s', last, hgo, hmx', -⟩ := exec_matrixCommandComplete_computes (q := r) hs hr hc ho hf hl (by simp [hop])
    (MxCmd.rot_of_op (.inr (.inr hop))) (by simp [MxCmd.notify, hop]) (by rw [hmx]; exact hr) rfl
  refine ⟨s', hgo, ?_⟩
  rw [hmx', hmx]
  exact ⟨rfl, rfl, rfl, rfl, rfl, rfl, rfl⟩

/-- A pass without rotation leaves its words in the M x N rectangle of its accumulator, and everything else that a pass may touch as it was. -/
theorem passWritesWords {off fmt span pln : Nat} {fa fb : LFmt} (hop : r.cmd.op = .mma) (hn : r.cmd.notify = 0) (hrot : shRot r.cmd.word = false)
    (ha : selfParts r.cmd.addr = some (off, fmt, span, pln)) (hfa : mxFmt fmt pln = some fa) (hfb : (s.tile p).mx.front.fmt = some fb)
    (hm : 0 < shM r.cmd.word) (hm' : shM r.cmd.word ≤ 32) (hn0 : 0 < shN r.cmd.word) (hn' : shN r.cmd.word ≤ 32) (hk : 0 < shK r.cmd.word) :
    ∃ s', exec (.matrixCommandComplete p) s = .next s' ∧ (s'.tile p).mx.run = none ∧
      (∀ a i j, i < 32 → j < 32 → (s'.tile p).mx.word a i j = if a = r.cmd.acc.toNat ∧ i < shM r.cmd.word ∧ j < shN r.cmd.word then
        BitVec.ofNat 64 ((s.tile p).passWord r.cmd ((s.tile p).badOperands r) off fmt span pln fa fb i j).1 else (s.tile p).mx.word a i j) ∧
      (s'.tile p).mx.front = (s.tile p).mx.front ∧ (s'.tile p).spad = (s.tile p).spad ∧ s.OtherTiles s' p ∧ s'.mem = s.mem ∧ s'.net = s.net := by
  obtain ⟨hacc, ⟨merr, errs, hrun⟩, hfront, hspad⟩ := Tile.mxRunEffect_mma hr hop ha hfa hfb hm hn0 hk
  obtain ⟨s', last, hgo, hmx, hspad', hrest⟩ := exec_matrixCommandComplete_computes (q := { r with merr := merr, errs := errs }) hs hr hc ho hf hl
    (by simp [hop]) (by simp [MxCmd.rot, hop, hrot]) hn hrun rfl
  exact ⟨s', hgo, by rw [hmx], fun a i j => Matrix.word_of_cellWords (x := (s'.tile p).mx) (by rw [hmx, ← hacc]) hm' hn' a, by rw [hmx, ← hfront],
    hspad'.trans hspad, hrest⟩

end

/-- Settles O42: each command completes holding what it computes; a word of a pass is the exact sum in INT64 mode, else the steps of R75. -/
theorem matrixEffects : Obligations.MatrixEffects := by
  unfold Obligations.MatrixEffects
  refine ⟨fun s p r hs hr hc ho hf hl => ⟨mzeroClears hs hr hc ho hf hl, mscaleTakesScales hs hr hc ho hf hl, mcfgEmptiesHalves hs hr hc ho hf hl⟩,
    fun s p off fmt span pln r fa fb hs hr hc ho hf hl hop hn hrot ha hfa hfb hm hm' hn0 hn' hk => ?_⟩
  obtain ⟨s', hgo, hrun, hword, hrest⟩ := passWritesWords hs hr hc ho hf hl hop hn hrot ha hfa hfb hm hm' hn0 hn' hk
  refine ⟨s', hgo, hrun, fun i j hi hj => ?inside, fun a i j _ hi hj hout => ?outside, hrest⟩
  case inside =>
    rw [(hword r.cmd.acc.toNat i j (by omega) (by omega)).trans (if_pos ⟨rfl, hi, hj⟩)]
    refine ⟨fun hint => ?_, fun hint => ?_⟩
    · simp only [Tile.passWord, hint, if_true, ofNat_intWord]
    · simp only [Tile.passWord, hint, Bool.false_eq_true, if_false]
  case outside => rw [hword a i j hi hj, if_neg (by omega)]

end Sys2Proof.Machine

/-! PROOFS of the statement about the scalar stores that leave the tile (O8). Layers: what the checks of R245 answer, what a store word does
where they pass, what posting and the open task's buffer leave, the two stores, the statement. -/

namespace Sys2Proof.Machine

/-! ## The checks of a scalar access (R245) -/

section
variable {s : State} {t : Tile} {a : Word} {w : Nat} {store : Bool}

/-- An aligned access to a remote window of the gang, outside a task region, passes. -/
theorem State.checkScalar_remote {l off fmt span : Nat} (ha : a.toNat % w = 0) (hr : region a = some (.remote l off fmt span)) (hf : fmt ≠ 1)
    (hi : s.hasIndex t l = true) (ht : t.task.region = false) :
    s.checkScalar t a w store = (.ok (.remote l off fmt span, []), t) := by
  simp [State.checkScalar, ha, hr, hf, hi, ht]

/-- The checks of a global access change nothing of the tile but its translation buffer (R370). -/
theorem State.checkGlobal_tile (n : Nat) : ∃ tlb, (s.checkGlobal t a n store).2 = { t with tlb := tlb } := by
  refine ⟨(s.translate t a.toNat (if store then .write else .read) t.user).2, ?_⟩
  unfold State.checkGlobal
  dsimp only
  split
  · rfl
  · rw [apply_ite Prod.snd, ite_self]

/-- Nor do the checks of any other access. -/
theorem State.checkScalar_tile : ∃ tlb, (s.checkScalar t a w store).2 = { t with tlb := tlb } := by
  have hglobal := State.checkGlobal_tile (s := s) (t := t) (a := a) (store := store) w
  unfold State.checkScalar
  dsimp only
  split
  · exact ⟨_, rfl⟩
  · split
    case h_1 => exact ⟨_, rfl⟩
    case h_2 | h_3 =>
      simp only [apply_ite Prod.snd, ite_self]
      exact ⟨_, rfl⟩
    case h_4 =>
      generalize s.checkGlobal t a w store = r at hglobal
      obtain ⟨_ | _, _⟩ := r <;> exact hglobal

end

/-! ## A store word (R246, R247) -/

theorem exec_of_storeOf {i : Instr} {rs2 rs1 : XReg} {imm : Word} {w : Nat} (h : storeOf i = some (rs2, rs1, imm, w)) (s : State) :
    exec i s = .next (s.storeX rs2 rs1 imm w) := by
  unfold storeOf at h
  split at h
  case h_5 => cases h
  all_goals
    cases h
    rfl

/-- Popping a register leaves the journal as it is. -/
@[simp] theorem Tile.popX_freeEntry (t : Tile) (r : XReg) : (t.popX r).2.freeEntry = t.freeEntry := by
  unfold Tile.freeEntry
  rw [Tile.popX_ni]

/-! Taking a journal entry takes a serial number too; these fields of the tile stay (R92). -/

section
variable (t : Tile) (n dst : Nat) (va : Word)

@[simp] theorem Tile.takeEntry_serial : (t.takeEntry n dst va).1 = t.ctl.serial := rfl
@[simp] theorem Tile.takeEntry_ni :
    (t.takeEntry n dst va).2.ni = { t.ni with journal := t.ni.journal ++ [⟨n, t.ctl.serial, dst, va⟩] } := rfl
@[simp] theorem Tile.takeEntry_gang : (t.takeEntry n dst va).2.gang = t.gang := rfl
@[simp] theorem Tile.takeEntry_lidx : (t.takeEntry n dst va).2.lidx = t.lidx := rfl
@[simp] theorem Tile.takeEntry_regs : (t.takeEntry n dst va).2.regs = t.regs := rfl
@[simp] theorem Tile.takeEntry_ur : (t.takeEntry n dst va).2.ur = t.ur := rfl
@[simp] theorem Tile.takeEntry_ir : (t.takeEntry n dst va).2.ir = t.ir := rfl
@[simp] theorem Tile.takeEntry_sr : (t.takeEntry n dst va).2.sr = t.sr := rfl
@[simp] theorem Tile.takeEntry_spad : (t.takeEntry n dst va).2.spad = t.spad := rfl
@[simp] theorem Tile.takeEntry_pair : (t.takeEntry n dst va).2.pair = t.pair := rfl
@[simp] theorem Tile.takeEntry_behind (r : Region) : (t.takeEntry n dst va).2.behind r = t.behind r := rfl

end

section
variable {s : State} {rs1 rs2 : XReg} {imm : Word} {w : Nat} {base : Word × Tile} {data : Word × Tile} {t : Tile} {pas : List Nat}
  (hready : s.t.ReadyX [rs1, rs2] []) (hbase : s.t.popX rs1 = base) (hdata : base.2.popX rs2 = data)
include hready hbase hdata

theorem State.storeX_remote {l off fmt span n : Nat}
    (hc : s.checkScalar data.2 (base.1 + imm) w true = (.ok (.remote l off fmt span, pas), t)) (hb : t.behind (.remote l off fmt span) = false)
    (hn : t.freeEntry = some n) :
    s.storeX rs2 rs1 imm w = s.sendStore (t.takeEntry n l (base.1 + imm)).2 l n t.ctl.serial (base.1 + imm) t.sr.bhkey
      (byteWrites off w data.1.toNat) := by
  simp [State.storeX, State.aWord_of_ready hready, hbase, hdata, hc, Tile.behindSelf, hn, hb]

theorem State.storeX_global {va : Nat}
    (hc : s.checkScalar data.2 (base.1 + imm) w true = (.ok (.global va, pas), t)) (hb : t.behind (.global va) = false) :
    s.storeX rs2 rs1 imm w = s.setT (t.setTask t.openTask fun k => k.store (gsbBytes pas va data.1.toNat)) := by
  simp [State.storeX, State.aWord_of_ready hready, hbase, hdata, hc, Tile.behindSelf, hb]

end

/-! ## No byte changes -/

/-- A write of the own tile that keeps its scratchpad changes no byte. -/
theorem State.sameBytes_setT {s : State} {t : Tile} (h : t.spad = s.t.spad) : s.SameBytes (s.setT t) := by
  refine ⟨fun _ => rfl, fun p a => congrArg (memRead a) ?_⟩
  by_cases hp : s.cur = p
  · subst hp
    exact (congrArg Tile.spad (s.t_setT t)).trans h
  · rw [State.tile_setT_ne s t hp]

/-! ## What posting a store leaves (R92, R134, R151) -/

@[simp] theorem State.send_t (s : State) (t : Tile) (dst due : Nat) (m : Msg) : (s.send t dst m due).t = s.t := by
  unfold State.send
  split <;> rfl

section
variable {s : State} {t : Tile} (l ent id : Nat) (va key : Word) (ws : List (Piece × Nat))

/-- Of the tile, only the route register steps, and not for a TIMED store. -/
theorem State.sendStore_t : (s.sendStore t l ent id va key ws).t =
    { t with sr := { t.sr with lfsr := if t.ni.timedWin then t.sr.lfsr else lfsrStep t.sr.lfsr } } := by
  unfold State.sendStore
  dsimp only
  rw [State.send_t, State.t_setT]
  cases t.ni.timedWin <;> rfl

theorem State.sendStore_net {g : Nat} (h : t.gang = some g) : (s.sendStore t l ent id va key ws).net =
    s.net ++ [⟨g, t.lidx, l, .store ent id va key ws t.ni.timedWin false, s.storeDue t l, false, s.tick, t.pair.count + 1⟩] := by
  unfold State.sendStore
  dsimp only
  rw [State.send_of_gang h]
  rfl

theorem State.sendStore_sameBytes (h : t.spad = s.t.spad) : s.SameBytes (s.sendStore t l ent id va key ws) := by
  have hspad : (if t.ni.timedWin then t else t.route).spad = s.t.spad := by
    split <;> exact h
  simpa [State.SameBytes, State.sendStore] using State.sameBytes_setT hspad

end

/-! ## The open task's buffer (R107) -/

/-- The open task reads as it was set: it is the last of the tasks, or the background task where none is open. -/
theorem Tile.getTask_setTask_openTask {t : Tile} (f : Task → Task) (h : t.task.opened = true → t.task.tasks ≠ []) :
    (t.setTask t.openTask f).getTask t.openTask = f (t.getTask t.openTask) := by
  unfold Tile.openTask
  split
  case isTrue ho =>
    have hlast : t.task.tasks.length - 1 < t.task.tasks.length := by
      have := List.length_pos_iff.2 (h ho)
      omega
    simp [Tile.setTask, Tile.getTask, List.getD_eq_getElem?_getD, List.getElem?_eq_getElem hlast]
  case isFalse => rfl

section
variable (t : Tile) (k : Option Nat) (f : Task → Task)

@[simp] theorem Tile.setTask_regs : (t.setTask k f).regs = t.regs := by
  cases k <;> rfl
@[simp] theorem Tile.setTask_ur : (t.setTask k f).ur = t.ur := by
  cases k <;> rfl
@[simp] theorem Tile.setTask_ir : (t.setTask k f).ir = t.ir := by
  cases k <;> rfl
@[simp] theorem Tile.setTask_spad : (t.setTask k f).spad = t.spad := by
  cases k <;> rfl

end

/-! ## The two stores -/

section
variable {i : Instr} {s : State} {rs2 rs1 : XReg} {imm : Word} {w : Nat} (hi : storeOf i = some (rs2, rs1, imm, w))
  (hready : s.t.ReadyX [rs1, rs2] [])
include hi hready

/-- A remote store in the window of a member: its entry and its item carry the serial number that the word takes. -/
theorem remoteStorePosts {l off fmt span g n : Nat} (hr : region ((s.t.popX rs1).1 + imm) = some (.remote l off fmt span))
    (ha : ((s.t.popX rs1).1 + imm).toNat % w = 0) (hf : fmt ≠ 1) (hg : s.t.gang = some g)
    (hl : s.hasIndex ((s.t.popX rs1).2.popX rs2).2 l = true) (ht : s.t.task.region = false)
    (hb : ((s.t.popX rs1).2.popX rs2).2.behind (.remote l off fmt span) = false) (hn : s.t.freeEntry = some n) :
    ∃ s' due, exec i s = .next s' ∧
      s'.net = s.net ++ [⟨g, s.t.lidx, l, .store n s.t.ctl.serial ((s.t.popX rs1).1 + imm) s.t.sr.bhkey
        (byteWrites off w ((s.t.popX rs1).2.popX rs2).1.toNat) s.t.ni.timedWin false, due, false, s.tick, s.t.pair.count + 1⟩] ∧
      s'.t.ni.journal = s.t.ni.journal ++ [⟨n, s.t.ctl.serial, l, (s.t.popX rs1).1 + imm⟩] ∧
      s.SameBytes s' ∧ s'.t.regs = ((s.t.popX rs1).2.popX rs2).2.regs ∧ s'.t.ur = s.t.ur ∧ s'.t.ir = s.t.ir := by
  have hn' : ((s.t.popX rs1).2.popX rs2).2.freeEntry = some n := by
    rw [Tile.popX_freeEntry, Tile.popX_freeEntry, hn]
  have hgo := State.storeX_remote hready rfl rfl (State.checkScalar_remote ha hr hf hl (by simpa using ht)) hb hn'
  refine ⟨_, s.storeDue (((s.t.popX rs1).2.popX rs2).2.takeEntry n l ((s.t.popX rs1).1 + imm)).2 l,
    (exec_of_storeOf hi s).trans (congrArg _ hgo), ?item, ?journal, State.sendStore_sameBytes _ _ _ _ _ _ (by simp), ?regs, ?ur, ?ir⟩
  case item =>
    rw [State.sendStore_net (g := g) _ _ _ _ _ _ (by simpa using hg)]
    simp
  all_goals
    rw [State.sendStore_t]
    simp

/-- A global store that passes the checks: the task that is open to the tile the checks return is the one open before. -/
theorem globalStoreEnters {va : Nat} {pas : List Nat} {u : Tile}
    (hc : s.checkScalar ((s.t.popX rs1).2.popX rs2).2 ((s.t.popX rs1).1 + imm) w true = (.ok (.global va, pas), u))
    (hb : u.behind (.global va) = false) (hopen : s.t.task.opened = true → s.t.task.tasks ≠ []) :
    ∃ s', exec i s = .next s' ∧
      s'.t.getTask s.t.openTask = (s.t.getTask s.t.openTask).store (gsbBytes pas va ((s.t.popX rs1).2.popX rs2).1.toNat) ∧
      s.SameBytes s' ∧ s'.net = s.net ∧ s'.t.regs = ((s.t.popX rs1).2.popX rs2).2.regs ∧ s'.t.ur = s.t.ur ∧ s'.t.ir = s.t.ir := by
  obtain ⟨tlb, hu⟩ : ∃ tlb, u = { ((s.t.popX rs1).2.popX rs2).2 with tlb := tlb } := by
    simpa only [hc] using State.checkScalar_tile (s := s) (t := ((s.t.popX rs1).2.popX rs2).2) (a := (s.t.popX rs1).1 + imm) (w := w) (store := true)
  have htask : u.task = s.t.task := by
    rw [hu]
    simp
  have hopenTask : s.t.openTask = u.openTask := by
    rw [Tile.openTask, Tile.openTask, htask]
  have hget (k : Option Nat) : s.t.getTask k = u.getTask k := by
    cases k <;> simp only [Tile.getTask, htask]
  refine ⟨_, (exec_of_storeOf hi s).trans (congrArg _ (State.storeX_global hready rfl rfl hc hb)), ?_, ?_, rfl, ?_, ?_, ?_⟩
  · rw [State.t_setT, hopenTask, hget]
    exact Tile.getTask_setTask_openTask _ (htask ▸ hopen)
  · exact State.sameBytes_setT (by rw [Tile.setTask_spad, hu]; simp)
  · rw [State.t_setT, Tile.setTask_regs, hu]
  · rw [State.t_setT, Tile.setTask_ur, hu]
    simp
  · rw [State.t_setT, Tile.setTask_ir, hu]
    simp

end

/-- Settles O8: past the checks of R245 a remote store is one journal entry and one item on the network, a global one an entry of the open
task's buffer; neither touches a byte. -/
theorem farStores : Obligations.FarStores := by
  unfold Obligations.FarStores
  exact ⟨fun _ _ _ _ _ _ _ _ _ _ _ _ hi hready => remoteStorePosts hi hready, fun _ _ _ _ _ _ _ _ _ hi hready => globalStoreEnters hi hready⟩

end Sys2Proof.Machine
